-- ==== Sys2Proof/Word.lean ====
section
/-!
DEFINITION. Sys2Proof/Word.lean: the word types of the W1 and indexed access to a fixed bank of registers.
-/

namespace Sys2Proof

/-- A byte of the pool or of DRAM. -/
abbrev Byte := BitVec 8

/-- A scalar register or control register (R8). -/
abbrev Word := BitVec 64

/-- One lane of a vector register (R8, R119). -/
abbrev Lane := BitVec 32

/-- A lane mask (R8). -/
abbrev Mask := BitVec 16

/-- An instruction word (R27). -/
abbrev IWord := BitVec 32

/-- A register field of an instruction word (R28). -/
abbrev Reg := BitVec 5

/-- The sixteen lanes of a vector register (R8). -/
abbrev Lanes := Vector Lane 16

/-- The element of a bank of `2 ^ n` registers that an `n`-bit field names. -/
def getV {α : Type} {n m : Nat} (v : Vector α m) (r : BitVec n) (h : 2 ^ n ≤ m := by decide) : α :=
  v[r.toNat]'(Nat.lt_of_lt_of_le r.isLt h)

/-- A bank with the element that an `n`-bit field names replaced. -/
def setV {α : Type} {n m : Nat} (v : Vector α m) (r : BitVec n) (x : α) (h : 2 ^ n ≤ m := by decide) : Vector α m :=
  v.set r.toNat x (Nat.lt_of_lt_of_le r.isLt h)

end Sys2Proof
end

