-- ==== Sys2Proof/Syntax.lean ====
section
/-!
DEFINITION. Sys2Proof/Syntax.lean: the instruction syntax of the Ulitre W1. One constructor for every row of
spec/opcode_table.json: the 239 rows with an encoding carry the fields of their words (R27, R73, R123, R218, R322),
the 87 rows without one are the machine's indivisible events (95_what_each_step_holds.md) and carry what the event
acts on: a core by its global number, a channel, message, fence, barrier, walk or engine by its number in State,
a graph by its 16-bit number, a host or management access by the words it writes.
-/

namespace Sys2Proof

/-- What a patrol scrub finds in one word or beat (R259, R260). -/
inductive ScrubFinding where
  | clean | corrected | uncorrectable
  deriving DecidableEq, Repr

/-- The fabric plane a link event concerns (R206, R207). -/
inductive Plane where
  | word | vector | control
  deriving DecidableEq, Repr

/-- One direction of a mesh link: from the router at mesh position (x, y) toward a neighbour (R186). -/
inductive Dir where
  | east | west | south | north
  deriving DecidableEq, Repr

/-- A link of the wafer's mesh on one plane (R186, R206). -/
structure Link where
  x : Nat
  y : Nat
  dir : Dir
  plane : Plane
  deriving DecidableEq, Repr

/-- A flit or beat asked for again on a link, with its number on that link (R206, R207). -/
structure LinkRetry where
  link : Link
  flit : Nat
  deriving DecidableEq, Repr

/-- A management command record as it arrives (R273). `sized` says that its length is 40 + LEN, with the
signature's 3,309 bytes when KEY is 0 to 7; `serialOk` that SERIAL is the module's own; `overI3c` that it came over
I3C; `signature` is SIG. -/
structure CommandRecord where
  magic : BitVec 32
  ver : BitVec 8
  cmd : BitVec 8
  seq : BitVec 64
  key : BitVec 8
  reservedZero : Bool
  sized : Bool
  serialOk : Bool
  overI3c : Bool
  signature : List (BitVec 8)
  payload : List (BitVec 8)
  deriving DecidableEq, Repr

/-- The instructions and events of the W1, one constructor for each row of the opcode table. -/
inductive Instr where
  /-- R43: Writes s[a] + s[b] modulo 2^64 to s[d]. -/
  | add (d a b : BitVec 5) (w : Bool)
  /-- R43: Writes s[a] - s[b] to s[d]. -/
  | sub (d a b : BitVec 5) (w : Bool)
  /-- R43: Writes s[a] AND s[b] to s[d]. -/
  | and (d a b : BitVec 5) (w : Bool)
  /-- R43: Writes s[a] OR s[b] to s[d]. -/
  | or (d a b : BitVec 5) (w : Bool)
  /-- R43: Writes s[a] XOR s[b] to s[d]. -/
  | xor (d a b : BitVec 5) (w : Bool)
  /-- R43: Writes s[a] AND NOT s[b] to s[d]. -/
  | andn (d a b : BitVec 5) (w : Bool)
  /-- R43: Writes s[a] OR NOT s[b] to s[d]. -/
  | orn (d a b : BitVec 5) (w : Bool)
  /-- R43: Writes NOT (s[a] XOR s[b]) to s[d]. -/
  | xnor (d a b : BitVec 5) (w : Bool)
  /-- R43: Shifts s[a] left by s[b]<5:0>, zeros in. -/
  | sll (d a b : BitVec 5) (w : Bool)
  /-- R43: Shifts s[a] right logically by s[b]<5:0>. -/
  | srl (d a b : BitVec 5) (w : Bool)
  /-- R43: Shifts s[a] right arithmetically by s[b]<5:0>. -/
  | sra (d a b : BitVec 5) (w : Bool)
  /-- R43: Rotates s[a] left by s[b]<5:0>. -/
  | rol (d a b : BitVec 5) (w : Bool)
  /-- R43: Rotates s[a] right by s[b]<5:0>. -/
  | ror (d a b : BitVec 5) (w : Bool)
  /-- R43: Writes bits 63:0 of s[a] x s[b]. -/
  | mul (d a b : BitVec 5) (w : Bool)
  /-- R43: Writes the full signed 128-bit product to s[d] and s[d+1]. -/
  | mulpS (d a b : BitVec 5) (w : Bool)
  /-- R43: Writes the full unsigned 128-bit product to s[d] and s[d+1]. -/
  | mulpU (d a b : BitVec 5) (w : Bool)
  /-- R43: Writes the full signed-by-unsigned 128-bit product to s[d] and s[d+1]. -/
  | mulpSu (d a b : BitVec 5) (w : Bool)
  /-- R44: Writes signed truncating quotient and remainder to s[d], s[d+1], with defined edges. -/
  | divqS (d a b : BitVec 5) (w : Bool)
  /-- R44: Writes unsigned quotient and remainder to s[d], s[d+1]. -/
  | divqU (d a b : BitVec 5) (w : Bool)
  /-- R44: Writes floor quotient and remainder of the sign of s[b] to s[d], s[d+1]. -/
  | divqF (d a b : BitVec 5) (w : Bool)
  /-- R43: Writes the signed lesser of s[a] and s[b]. -/
  | min (d a b : BitVec 5) (w : Bool)
  /-- R43: Writes the signed greater of s[a] and s[b]. -/
  | max (d a b : BitVec 5) (w : Bool)
  /-- R43: Writes the unsigned lesser of s[a] and s[b]. -/
  | minu (d a b : BitVec 5) (w : Bool)
  /-- R43: Writes the unsigned greater of s[a] and s[b]. -/
  | maxu (d a b : BitVec 5) (w : Bool)
  /-- R45: Extracts a bit field of s[a] described by s[b], sign-extended. -/
  | bfx (d a b : BitVec 5) (w : Bool)
  /-- R45: Extracts a bit field of s[a] described by s[b], zero-extended. -/
  | bfxu (d a b : BitVec 5) (w : Bool)
  /-- R45: Inserts low bits of s[a] into the field of s[d] described by s[b]. -/
  | bfi (d a b : BitVec 5) (w : Bool)
  /-- R43: Writes the count of leading zeros of s[a]. -/
  | clz (d a : BitVec 5) (w : Bool)
  /-- R43: Writes the count of trailing zeros of s[a]. -/
  | ctz (d a : BitVec 5) (w : Bool)
  /-- R43: Writes the number of set bits of s[a]. -/
  | popc (d a : BitVec 5) (w : Bool)
  /-- R43: Writes s[a] with its bit order reversed. -/
  | brev (d a : BitVec 5) (w : Bool)
  /-- R43: Writes s[a] with its byte order reversed. -/
  | bswap (d a : BitVec 5) (w : Bool)
  /-- R43: Writes 1 if s[a] = s[b], else 0. -/
  | seq (d a b : BitVec 5) (w : Bool)
  /-- R43: Writes 1 if s[a] differs from s[b], else 0. -/
  | sne (d a b : BitVec 5) (w : Bool)
  /-- R43: Writes 1 if s[a] < s[b] signed, else 0. -/
  | slt (d a b : BitVec 5) (w : Bool)
  /-- R43: Writes 1 if s[a] >= s[b] signed, else 0. -/
  | sge (d a b : BitVec 5) (w : Bool)
  /-- R43: Writes 1 if s[a] < s[b] unsigned, else 0. -/
  | sltu (d a b : BitVec 5) (w : Bool)
  /-- R43: Writes 1 if s[a] >= s[b] unsigned, else 0. -/
  | sgeu (d a b : BitVec 5) (w : Bool)
  /-- R43: Writes s[a] if s[c] is nonzero, else s[b]. -/
  | sel (d a b c : BitVec 5) (w : Bool)
  /-- R46: Writes s[a] plus the sign-extended immediate. -/
  | addi (w : Bool) (d a : BitVec 5) (i : BitVec 15)
  /-- R46: Writes s[a] AND the sign-extended immediate. -/
  | andi (w : Bool) (d a : BitVec 5) (i : BitVec 15)
  /-- R46: Writes s[a] OR the sign-extended immediate. -/
  | ori (w : Bool) (d a : BitVec 5) (i : BitVec 15)
  /-- R46: Writes s[a] XOR the sign-extended immediate. -/
  | xori (w : Bool) (d a : BitVec 5) (i : BitVec 15)
  /-- R46: Shifts s[a] left by an immediate amount. -/
  | slli (w : Bool) (d a : BitVec 5) (s : BitVec 6)
  /-- R46: Shifts s[a] right logically by an immediate amount. -/
  | srli (w : Bool) (d a : BitVec 5) (s : BitVec 6)
  /-- R46: Shifts s[a] right arithmetically by an immediate amount. -/
  | srai (w : Bool) (d a : BitVec 5) (s : BitVec 6)
  /-- R46: Writes 1 if s[a] is less than the immediate, signed. -/
  | slti (w : Bool) (d a : BitVec 5) (i : BitVec 15)
  /-- R46: Writes 1 if s[a] is less than the immediate, unsigned. -/
  | sltiu (w : Bool) (d a : BitVec 5) (i : BitVec 15)
  /-- R47: Writes the sign-extended immediate, widened by ext, to s[d]. -/
  | li (d : BitVec 5) (i : BitVec 15)
  /-- R47: Writes the zero-extended immediate, widened by ext, to s[d]. -/
  | liu (d : BitVec 5) (i : BitVec 15)
  /-- R49: Adds two scale registers with one FP32 rounding. -/
  | fadd (d a b : BitVec 5)
  /-- R49: Subtracts two scale registers with one FP32 rounding. -/
  | fsub (d a b : BitVec 5)
  /-- R49: Multiplies two scale registers with one FP32 rounding. -/
  | fmul (d a b : BitVec 5)
  /-- R49: Fused multiply-add of scale registers with one rounding. -/
  | ffma (d a b c : BitVec 5)
  /-- R49: Writes the lesser scale value, -0 below +0, NaN avoided. -/
  | fmin (d a b : BitVec 5)
  /-- R49: Writes the greater scale value, -0 below +0, NaN avoided. -/
  | fmax (d a b : BitVec 5)
  /-- R48: Copies f[a] with bit 31 inverted. -/
  | fneg (d a : BitVec 5)
  /-- R48: Copies f[a] with bit 31 cleared. -/
  | fabs (d a : BitVec 5)
  /-- R48: Copies f[a] to f[d]. -/
  | fmov (d a : BitVec 5)
  /-- R49: Converts f[a] to a signed 64-bit integer, RTZ by default, clamped. -/
  | fcvtSF (d a : BitVec 5)
  /-- R49: Converts signed s[a] to FP32 with one rounding. -/
  | fcvtFS (d a : BitVec 5) (w : Bool)
  /-- R49: Writes 1 to s[d] if f[a] = f[b]. -/
  | feq (d a b : BitVec 5)
  /-- R49: Writes 1 to s[d] if f[a] < f[b]. -/
  | flt (d a b : BitVec 5)
  /-- R49: Writes 1 to s[d] if f[a] <= f[b]. -/
  | fle (d a b : BitVec 5)
  /-- R48: Moves the bits of f[a] zero-extended to s[d]. -/
  | fmvSF (d a : BitVec 5)
  /-- R48: Moves s[a]<31:0> into f[d]. -/
  | fmvFS (d a : BitVec 5) (w : Bool)
  /-- R50: Compares s[a] with s[b] and branches to target within the block if cond holds. -/
  | bCond (a b : BitVec 5) (c : BitVec 3) (t : BitVec 6) (w p : Bool)
  /-- R51: Decrements s[a] and branches to target if the new value is nonzero. -/
  | loop (a : BitVec 5) (t : BitVec 6) (w p : Bool)
  /-- R52: Branches to target unconditionally. -/
  | jmp (t : BitVec 6) (p : Bool)
  /-- R53: Passes control to word 0 of another block of the actor, with header checks. -/
  | next (h : BitVec 15)
  /-- R54: Writes a link word to s[d] and passes control to another block. -/
  | call (d : BitVec 5) (h : BitVec 15)
  /-- R55: Passes control to the block and word named by the link word in s[a]. -/
  | ret (a : BitVec 5) (w : Bool)
  /-- R57: Discards and pads remaining token counts, clears INTRAP and ends the task and firing. -/
  | done
  /-- R56: Ends the present turn while keeping the firing; the context returns to selection. -/
  | yield
  /-- R70: Returns from the trap handler to EPC.HANDLER and EPC.WORD, clearing INTRAP. -/
  | tret
  /-- R67: Does nothing. -/
  | nop
  /-- R67: Raises the software trap with the given code. -/
  | trap (n : BitVec 10)
  /-- R68: Marks the core's arrival at barrier id without waiting. -/
  | barr (b : BitVec 5)
  /-- R69: Writes event counter n, zero-extended, to s[d]. -/
  | evrd (d : BitVec 5) (n : BitVec 10)
  /-- R66: Copies a control register to s[d]. -/
  | csrr (d : BitVec 5) (n : BitVec 12)
  /-- R66: Writes s[a] into a control register under the rules of R14. -/
  | csrw (w : Bool) (a : BitVec 5) (n : BitVec 12)
  /-- R66: Writes s[a] into a control register under the mask in s[d]. -/
  | csrx (w : Bool) (d a : BitVec 5) (n : BitVec 12)
  /-- R61: Loads 1, 2, 4 or 8 bytes from the scratchpad, sign- or zero-extended. -/
  | ld (w : Bool) (d a : BitVec 5) (z : BitVec 3) (o : BitVec 12)
  /-- R61: Stores the low 1, 2, 4 or 8 bytes of s[d] to the scratchpad. -/
  | st (w : Bool) (d a : BitVec 5) (z : BitVec 2) (o : BitVec 12)
  /-- R58: Consumes one word token from an input port into s[d]. -/
  | pin (d p : BitVec 5)
  /-- R59: Sends s[a] as a word token with code 0. -/
  | pout (q a : BitVec 5) (w : Bool)
  /-- R59: Sends s[a] as a word token with a given control code. -/
  | poutc (q a : BitVec 5) (k : BitVec 3) (w : Bool)
  /-- R60: Writes an input port's status word to s[d]. -/
  | pstat (d p : BitVec 5)
  /-- R60: Writes an output port's status word to s[d]. -/
  | qstat (d p : BitVec 5)
  /-- R63: Marks s[d] empty. -/
  | feClr (d : BitVec 5)
  /-- R63: Marks s[d] full. -/
  | feSet (d : BitVec 5)
  /-- R63: Writes 1 to s[d] if s[a] is full. -/
  | feTst (d a : BitVec 5)
  /-- R81: Sends a tag and payload request to a service on the curd network. -/
  | sndCurd (d a b : BitVec 5) (w : Bool)
  /-- R83: Answers a request tag with a value on the whey network. -/
  | rplWhey (a b : BitVec 5) (w : Bool)
  /-- R85: Reads 1-8 bytes at a translated virtual address into s[d] by message. -/
  | fld (d a b : BitVec 5) (w : Bool) (s : BitVec 3)
  /-- R86: Writes 1-8 bytes of s[d] at a translated virtual address by message. -/
  | fst (d a b : BitVec 5) (w : Bool) (s : BitVec 2)
  /-- R87: Writes a 4-bit element into a byte at the owner port by read-modify-write. -/
  | fstbN4 (d a b : BitVec 5) (w : Bool)
  /-- R87: Writes a 2-bit element into a byte at the owner port by read-modify-write. -/
  | fstbN2 (d a b : BitVec 5) (w : Bool)
  /-- R88: Atomic add at the owner port, returning the old value. -/
  | amoAdd (d a b : BitVec 5) (w : Bool)
  /-- R88: Atomic AND at the owner port. -/
  | amoAnd (d a b : BitVec 5) (w : Bool)
  /-- R88: Atomic OR at the owner port. -/
  | amoOr (d a b : BitVec 5) (w : Bool)
  /-- R88: Atomic XOR at the owner port. -/
  | amoXor (d a b : BitVec 5) (w : Bool)
  /-- R88: Atomic signed minimum at the owner port. -/
  | amoMin (d a b : BitVec 5) (w : Bool)
  /-- R88: Atomic signed maximum at the owner port. -/
  | amoMax (d a b : BitVec 5) (w : Bool)
  /-- R88: Atomic unsigned minimum at the owner port. -/
  | amoMinu (d a b : BitVec 5) (w : Bool)
  /-- R88: Atomic unsigned maximum at the owner port. -/
  | amoMaxu (d a b : BitVec 5) (w : Bool)
  /-- R88: Atomic swap at the owner port. -/
  | amoSwap (d a b : BitVec 5) (w : Bool)
  /-- R88: Atomic compare-and-swap at the owner port. -/
  | amoCas (d a b c : BitVec 5) (w : Bool)
  /-- R89: Atomic binary32 add rounded once RNE at the owner port. -/
  | amoFaddF32 (d a b : BitVec 5) (w : Bool)
  /-- R89: Atomic BF16 add rounded once RNE at the owner port. -/
  | amoFaddBf16 (d a b : BitVec 5) (w : Bool)
  /-- R90: Sends a request to the owner's ocall service and holds the 64 bytes at A. -/
  | ocall (d a b : BitVec 5) (w : Bool)
  /-- R91: Sends s[b] to every member of a multicast group on the wafer. -/
  | mcast (a b : BitVec 5) (w : Bool)
  /-- R93: Sends a chase packet that follows a pointer chain through DRAM owners. -/
  | chase (d a b : BitVec 5) (w : Bool)
  /-- R95: Marks s[d] empty until earlier writes with owners inside the scope are accepted. -/
  | fenceAcc (d : BitVec 5) (s : BitVec 3)
  /-- R95: Marks s[d] empty until earlier writes are visible to every agent in the scope. -/
  | fenceVis (d : BitVec 5) (s : BitVec 3)
  /-- R125: Adds INT32 lanes modulo 2^32 under the mask. -/
  | vadd (d a b : BitVec 5) (k : BitVec 3) (z : Bool)
  /-- R125: Subtracts INT32 lanes. -/
  | vsub (d a b : BitVec 5) (k : BitVec 3) (z : Bool)
  /-- R125: Writes bits 31:0 of lane products. -/
  | vmul (d a b : BitVec 5) (k : BitVec 3) (z : Bool)
  /-- R125: Writes bits 63:32 of signed lane products. -/
  | vmulh (d a b : BitVec 5) (k : BitVec 3) (z : Bool)
  /-- R125: Signed lane minimum. -/
  | vmin (d a b : BitVec 5) (k : BitVec 3) (z : Bool)
  /-- R125: Signed lane maximum. -/
  | vmax (d a b : BitVec 5) (k : BitVec 3) (z : Bool)
  /-- R125: Unsigned lane minimum. -/
  | vminu (d a b : BitVec 5) (k : BitVec 3) (z : Bool)
  /-- R125: Unsigned lane maximum. -/
  | vmaxu (d a b : BitVec 5) (k : BitVec 3) (z : Bool)
  /-- R125: Lane absolute value, -2^31 unchanged. -/
  | vabs (d a : BitVec 5) (k : BitVec 3) (z : Bool)
  /-- R125: Lane negation, -2^31 unchanged. -/
  | vneg (d a : BitVec 5) (k : BitVec 3) (z : Bool)
  /-- R125: Lane logical left shift by vb<4:0>. -/
  | vsll (d a b : BitVec 5) (k : BitVec 3) (z : Bool)
  /-- R125: Lane logical right shift. -/
  | vsrl (d a b : BitVec 5) (k : BitVec 3) (z : Bool)
  /-- R125: Lane arithmetic right shift. -/
  | vsra (d a b : BitVec 5) (k : BitVec 3) (z : Bool)
  /-- R125: Saturating lane add clamped to INT32 or a fmt-named format. -/
  | vadds (d a b : BitVec 5) (k : BitVec 3) (z : Bool)
  /-- R125: Saturating lane subtract. -/
  | vsubs (d a b : BitVec 5) (k : BitVec 3) (z : Bool)
  /-- R126: FP32 lane add with one rounding. -/
  | vfadd (d a b : BitVec 5) (k : BitVec 3) (z : Bool)
  /-- R126: FP32 lane subtract. -/
  | vfsub (d a b : BitVec 5) (k : BitVec 3) (z : Bool)
  /-- R126: FP32 lane multiply. -/
  | vfmul (d a b : BitVec 5) (k : BitVec 3) (z : Bool)
  /-- R126: FP32 lane fused va x vb + vd. -/
  | vfma (d a b : BitVec 5) (k : BitVec 3) (z : Bool)
  /-- R126: FP32 lane minimum as fmin. -/
  | vfmin (d a b : BitVec 5) (k : BitVec 3) (z : Bool)
  /-- R126: FP32 lane maximum as fmax. -/
  | vfmax (d a b : BitVec 5) (k : BitVec 3) (z : Bool)
  /-- R126: Clears the sign bit of each lane. -/
  | vfabs (d a : BitVec 5) (k : BitVec 3) (z : Bool)
  /-- R126: Inverts the sign bit of each lane. -/
  | vfneg (d a : BitVec 5) (k : BitVec 3) (z : Bool)
  /-- R127: Bitwise AND of lanes. -/
  | vand (d a b : BitVec 5) (k : BitVec 3) (z : Bool)
  /-- R127: Bitwise OR of lanes. -/
  | vor (d a b : BitVec 5) (k : BitVec 3) (z : Bool)
  /-- R127: Bitwise XOR of lanes. -/
  | vxor (d a b : BitVec 5) (k : BitVec 3) (z : Bool)
  /-- R127: Bitwise a AND NOT b of lanes. -/
  | vandn (d a b : BitVec 5) (k : BitVec 3) (z : Bool)
  /-- R127: Bitwise NOT of lanes. -/
  | vnot (d a : BitVec 5) (k : BitVec 3) (z : Bool)
  /-- R127: Copies lanes under the mask. -/
  | vmov (d a : BitVec 5) (k : BitVec 3) (z : Bool)
  /-- R128: Sets mask bits where INT32 lanes are equal. -/
  | vcmpEq (d a b : BitVec 5) (k : BitVec 3) (z : Bool)
  /-- R128: Sets mask bits where lanes differ. -/
  | vcmpNe (d a b : BitVec 5) (k : BitVec 3) (z : Bool)
  /-- R128: Sets mask bits where a < b signed. -/
  | vcmpLt (d a b : BitVec 5) (k : BitVec 3) (z : Bool)
  /-- R128: Sets mask bits where a <= b signed. -/
  | vcmpLe (d a b : BitVec 5) (k : BitVec 3) (z : Bool)
  /-- R128: Sets mask bits where a < b unsigned. -/
  | vcmpLtu (d a b : BitVec 5) (k : BitVec 3) (z : Bool)
  /-- R128: Sets mask bits where a <= b unsigned. -/
  | vcmpLeu (d a b : BitVec 5) (k : BitVec 3) (z : Bool)
  /-- R128: Sets mask bits where FP32 lanes are equal. -/
  | vfcmpEq (d a b : BitVec 5) (k : BitVec 3) (z : Bool)
  /-- R128: Sets mask bits where FP32 a < b. -/
  | vfcmpLt (d a b : BitVec 5) (k : BitVec 3) (z : Bool)
  /-- R128: Sets mask bits where FP32 a <= b. -/
  | vfcmpLe (d a b : BitVec 5) (k : BitVec 3) (z : Bool)
  /-- R128: Sets mask bits where either lane is NaN. -/
  | vfcmpUn (d a b : BitVec 5) (k : BitVec 3) (z : Bool)
  /-- R129: Selects each lane from va or vb by a mask. -/
  | vsel (d a b : BitVec 5) (k : BitVec 3)
  /-- R130: Rotates lanes by n over the lane links. -/
  | vrot (d a n : BitVec 5) (k : BitVec 3) (z : Bool)
  /-- R130: Shifts lanes up by n, zeros in. -/
  | vshup (d a n : BitVec 5) (k : BitVec 3) (z : Bool)
  /-- R130: Shifts lanes down by n, zeros in. -/
  | vshdn (d a n : BitVec 5) (k : BitVec 3) (z : Bool)
  /-- R131: Writes s[a]<31:0> to every active lane. -/
  | vbcast (d a : BitVec 5) (k : BitVec 3) (z w : Bool)
  /-- R131: Writes one lane, sign-extended, to s[d]. -/
  | vmvSV (d a l : BitVec 5)
  /-- R131: Writes s[a]<31:0> into one lane of vd. -/
  | vmvVS (d a l : BitVec 5) (w : Bool)
  /-- R132: INT32 sum over the reduction tree into every lane. -/
  | vredAdd (d a : BitVec 5) (k : BitVec 3)
  /-- R132: FP32 sum over the reduction tree, RNE at each node. -/
  | vredFadd (d a : BitVec 5) (k : BitVec 3)
  /-- R132: Signed maximum over the reduction tree. -/
  | vredMax (d a : BitVec 5) (k : BitVec 3)
  /-- R132: Signed minimum over the reduction tree. -/
  | vredMin (d a : BitVec 5) (k : BitVec 3)
  /-- R132: FP32 maximum over the reduction tree. -/
  | vredFmax (d a : BitVec 5) (k : BitVec 3)
  /-- R132: INT32 prefix sum across lanes. -/
  | vscanAdd (d a : BitVec 5) (k : BitVec 3) (z : Bool)
  /-- R132: FP32 prefix sum across lanes, RNE each step. -/
  | vscanFadd (d a : BitVec 5) (k : BitVec 3) (z : Bool)
  /-- R133: Loads 64 aligned scratchpad bytes into active lanes. -/
  | vld (d a o : BitVec 5) (k : BitVec 3) (z w : Bool)
  /-- R133: Stores the active lanes to 64 aligned scratchpad bytes. -/
  | vst (d a o : BitVec 5) (k : BitVec 3) (w : Bool)
  /-- R134: Gathers one 4-byte lane per active lane from s[a] + vb. -/
  | vgat (d a b : BitVec 5) (k : BitVec 3) (z w : Bool)
  /-- R134: Scatters active lanes to s[a] + vb in ascending lane order. -/
  | vsct (d a b : BitVec 5) (k : BitVec 3) (w : Bool)
  /-- R136: Converts each active lane to a destination format with one rounding. -/
  | vcvt (d a f : BitVec 5) (k : BitVec 3) (z : Bool)
  /-- R137: Converts each active lane under STO, one draw per active lane. -/
  | vscvt (d a f : BitVec 5) (k : BitVec 3) (z : Bool)
  /-- R138: Packs 16 narrow elements into vd, shifting earlier contents up. -/
  | vpack (d a f : BitVec 5)
  /-- R138: Unpacks 16 narrow elements into lane form. -/
  | vunpk (d a f : BitVec 5)
  /-- R139: ANDs two mask registers. -/
  | kand (d a b : BitVec 5)
  /-- R139: ORs two mask registers. -/
  | kor (d a b : BitVec 5)
  /-- R139: XORs two mask registers. -/
  | kxor (d a b : BitVec 5)
  /-- R139: Writes NOT k[a]. -/
  | knot (d a : BitVec 5)
  /-- R139: Copies a mask register. -/
  | kmov (d a : BitVec 5)
  /-- R139: Writes the set-bit count of k[a] to s[d]. -/
  | kpopc (d a : BitVec 5)
  /-- R139: Writes s[a]<15:0> to k[d]. -/
  | kfrom (d a : BitVec 5) (w : Bool)
  /-- R142: Checks six stage words from the scratchpad and writes them into a configuration bank. -/
  | vcfg (n a : BitVec 5) (w : Bool)
  /-- R143: Issues one configured pass: pops port operands, runs the stages, pushes tokens. -/
  | vrun (b : BitVec 5) (k : BitVec 3) (z : Bool)
  /-- R145: Writes active lanes of vd to a park slot in the accumulator partition. -/
  | vpark (d a : BitVec 5) (k : BitVec 3) (w : Bool)
  /-- R145: Reads a park slot into the active lanes of vd. -/
  | vunpark (d a : BitVec 5) (k : BitVec 3) (z w : Bool)
  /-- R324: Writes s[a] to TSHAPEn, with the effects and traps of csrw. -/
  | tshp (d a : BitVec 5) (w : Bool)
  /-- R325: Writes +0.0 to every shaped element of tile n. -/
  | tclr (d : BitVec 5)
  /-- R329: Writes tile n's shape and elements to the context's tile save area. -/
  | tsave (d : BitVec 5)
  /-- R329: Restores tile n from the context's tile save area. -/
  | trest (d : BitVec 5)
  /-- R342: Writes the press status word to s[d]. -/
  | pstatus (d : BitVec 5)
  /-- R341: Clears every cell of an accumulator. -/
  | arst (d : BitVec 5)
  /-- R332: Configures a mould slot from a mould word and writes the new set header. -/
  | mcfg (a : BitVec 5) (w : Bool)
  /-- R334: Delivers 16 elements to mould slot A and lands completed runs. -/
  | plda (a : BitVec 5)
  /-- R334: Delivers 16 elements to mould slot B and lands completed runs. -/
  | pldb (a : BitVec 5)
  /-- R337: Checks and queues a matrix multiply command, marking s[d] empty. -/
  | pmm (d a b c : BitVec 5) (w : Bool)
  /-- R341: Queues a command that adds an accumulator into tile n with one rounding. -/
  | tnorm (d a b : BitVec 5) (z : Bool)
  /-- R327: Reads 16 elements of a tile row into a vector. -/
  | trowRd (d a b : BitVec 5) (w : Bool)
  /-- R327: Writes a vector into 16 elements of a tile row. -/
  | trowWr (d a b : BitVec 5) (w : Bool)
  /-- R327: Reads 16 elements of a tile column into a vector. -/
  | tcolRd (d a b : BitVec 5) (w : Bool)
  /-- R327: Writes a vector into 16 elements of a tile column. -/
  | tcolWr (d a b : BitVec 5) (w : Bool)
  /-- R328: Loads a tile's shaped elements from the scratchpad, widened exactly. -/
  | tld (d a b : BitVec 5) (w : Bool)
  /-- R328: Stores a tile's shaped elements to the scratchpad with one rounding. -/
  | tst (d a b : BitVec 5) (w : Bool)
  /-- R220: Copies a shape record into an engine, makes the context holder and leaves it open. -/
  | sopen (d a : BitVec 5) (w : Bool)
  /-- R221: Starts the engine's command of ROUNDS rounds. -/
  | sgo (d a : BitVec 5)
  /-- R222: Ends a running command at its next element boundary with KIND 1. -/
  | sstop (d : BitVec 5)
  /-- R223: Writes the engine status word to s[d]. -/
  | sstat (d a : BitVec 5)
  /-- R224: Writes a record field now, or makes it pending until the next round boundary. -/
  | sparm (d a : BitVec 5) (w : Bool)
  /-- R226: Starts a byte copy on an engine from a transfer descriptor. -/
  | xcopy (d a b : BitVec 5) (w : Bool)
  /-- R226: Starts a pattern fill on an engine from a transfer descriptor. -/
  | xfill (d a b : BitVec 5) (w : Bool)
  /-- R227: Starts copying pieces of the column to a new frame while forwarding writes. -/
  | xsplice (d a b : BitVec 5) (w : Bool)
  /-- R362: Elastic add rounded to P, with the cancellation check. -/
  | eadd (d a b : BitVec 5)
  /-- R362: Elastic subtract rounded to P, with the cancellation check. -/
  | esub (d a b : BitVec 5)
  /-- R362: Elastic multiply rounded to P. -/
  | emul (d a b : BitVec 5)
  /-- R362: Elastic fused multiply-add rounded once to P. -/
  | efma (d a b c : BitVec 5)
  /-- R362: Elastic divide rounded to P. -/
  | ediv (d a b : BitVec 5)
  /-- R362: Elastic square root rounded to P. -/
  | esqrt (d a : BitVec 5)
  /-- R362: Copies e[a] with its sign inverted. -/
  | eneg (d a : BitVec 5)
  /-- R362: Copies e[a] with its sign cleared. -/
  | eabs (d a : BitVec 5)
  /-- R363: Writes 0, 1, 2 or 3 to s[d] comparing two elastic values. -/
  | ecmp (d a b : BitVec 5)
  /-- R362: Copies e[a] to e[d]. -/
  | emov (d a : BitVec 5)
  /-- R364: Rounds e[a] to min(len, P) bits under RM. -/
  | ernd (d a : BitVec 5) (l : BitVec 10)
  /-- R365: Writes the length and shortest EFM n of e[a] to s[d]. -/
  | elen (d a : BitVec 5)
  /-- R368: Converts a signed or unsigned 64-bit integer to EF rounded to P. -/
  | ecvtEI (d a : BitVec 5) (u w : Bool)
  /-- R368: Converts FP32 from a scale register to EF. -/
  | ecvtEF (d a : BitVec 5)
  /-- R368: Converts a binary64 image in s[a] to EF. -/
  | ecvtED (d a : BitVec 5) (w : Bool)
  /-- R368: Converts EF to a signed or unsigned 64-bit integer with one rounding. -/
  | ecvtIE (d a : BitVec 5) (u : Bool)
  /-- R368: Converts EF to FP32 in a scale register. -/
  | ecvtFE (d a : BitVec 5)
  /-- R368: Converts EF to a binary64 image in s[d]. -/
  | ecvtDE (d a : BitVec 5)
  /-- R366: Sets PREC.P, re-lays the elastic registers and returns the old PREC. -/
  | eprec (w : Bool) (d a : BitVec 5) (i : BitVec 8)
  /-- R369: Loads an EFM value from the scratchpad, rounded to P. -/
  | eld (w : Bool) (d a : BitVec 5) (o : BitVec 8)
  /-- R369: Stores e[d] as an EFM value with explicit or shortest n. -/
  | est (w : Bool) (d a n : BitVec 5) (o : BitVec 8)
  /-- R369: Loads an EFM value and advances s[a] by its size. -/
  | eldInc (w : Bool) (d a : BitVec 5) (o : BitVec 8)
  /-- R369: Stores an EFM value and advances s[a] by its size. -/
  | estInc (w : Bool) (d a n : BitVec 5) (o : BitVec 8)
  /-- R31: Prefix supplying bits 39:15 of the next SI instruction's immediate. -/
  | ext (h : BitVec 25)
  /-- R31: Prefix naming destination and source formats of the next instruction. -/
  | fmt (d a b : BitVec 5) (e : BitVec 3)
  /-- R31: Prefix naming the scale array, group and scale format. -/
  | scl (b : BitVec 5) (o : BitVec 10) (g : BitVec 2) (f : BitVec 5) (z : Bool)
  /-- R31: Prefix naming rounding mode and saturation rule. -/
  | rnd (m : BitVec 3) (s : BitVec 2)
  /-- R165: When a turn ends or an idle core finds a ready context, the scheduler picks the next context and grants or resumes its firing. -/
  | selection (cid : Nat)
  /-- R162: When markers head every static input and space allows, runs the end firing, emits markers and removes input markers. -/
  | endOfInvocationStep (cid ctx : Nat)
  /-- R312: A sent token is injected into the fabric once the sender's earlier writes are visible within the channel's scope. -/
  | tokenInjection (ch : Nat)
  /-- R158: A channel token arrives at its destination queue and counts in the token counter. -/
  | tokenArrival (ch : Nat)
  /-- R194: The destination sends a credit packet after 16 cycles or on holding 8 credits. -/
  | creditReturn (ch : Nat)
  /-- R158: A credit reaching the source raises its free-space counter. -/
  | creditArrival (ch : Nat)
  /-- R262: A new rate-limiter window begins and admits waiting tokens up to TOK. -/
  | limiterWindow (field : Nat)
  /-- R77: A send-queue entry frees when its message's head flit enters the cluster switch. -/
  | sendQueueEntryFree (msg : Nat)
  /-- R79: A request waiting in the curd network is delivered as consecutive tokens once its service queue has room. -/
  | serviceRequestDelivery (msg : Nat)
  /-- R78: A message access arriving at an owner's column port is performed there in arrival order under the comparator. -/
  | ownerPortAccess (msg : Nat)
  /-- R83: A whey reply writes its register and marks it full, or is buffered or discarded as stale. -/
  | replyArrival (msg : Nat)
  /-- R95: A fence fills its register with 0 once its earlier writes meet its condition. -/
  | fenceCompletion (fence : Nat)
  /-- R198: A router latches the group entry at the head flit and forwards and delivers copies. -/
  | multicastReplication (packet : Nat)
  /-- R204: When arrivals satisfy the barrier and completion channels have space, the root sends the release. -/
  | barrierEpisodeComplete (bar : Nat)
  /-- R204: The release reaching a core clears its arrival flag and delivers completion tokens at done ports. -/
  | barrierRelease (bar cid : Nat)
  /-- R378: An owner performs a chase step, checks and translates the next address, and forwards or replies. -/
  | chaseHop (msg : Nat)
  /-- R377: A spilled chase packet returns to the station in spill order when an entry frees. -/
  | chaseSpillReturn (cid : Nat)
  /-- R375: A chase reply writes EFM bytes, s[d+1] and s[d] if it matches an outstanding chase, else is discarded. -/
  | chaseReply (msg : Nat)
  /-- R295: A core TLB miss reaches the hub, which hits, joins a walk or entry, starts a walk or queues. -/
  | hubMiss (miss : Nat)
  /-- R295: A miss refused by a full walk queue is retried by its core after 16 cycles. -/
  | hubQueueRetry (miss : Nat)
  /-- R292: A walk entry read returns and the walk descends, fills the TLBs, or ends with a fault. -/
  | walkLevelRead (hub walk : Nat)
  /-- R301: When every TLB has acknowledged, INVSTAT.BUSY clears and a RET splice is retired. -/
  | invalidationComplete
  /-- R215: An engine reads, converts and writes one element in shape order, waiting on ports, credits or translation. -/
  | engineElement (cid g : Nat)
  /-- R217: Between rounds the engine applies a pending sparm, reads a parameter token and checks bases. -/
  | engineRoundBoundary (cid g : Nat)
  /-- R225: A command ends: waits for its REL condition, writes the status and sends a completion token. -/
  | engineCommandEnd (cid g : Nat)
  /-- R340: A queued press command starts, waits for ACQ and takes its accumulator snapshot. -/
  | pressCommandStart (cid : Nat)
  /-- R352: At the end of a pass the press checks the checksum and monitors and squashes or commits. -/
  | pressPassEnd (cid : Nat) (mismatch : Bool)
  /-- R337: The commit writes the tile, then the completion register fills and the queue entry frees. -/
  | pressCommitEnd (cid : Nat)
  /-- R356: A lazy save copies another owner's dirty tile to its save area once no command targets it. -/
  | tileSaveCopy (cid tile : Nat)
  /-- R356: A pending saved tile image is copied back into its slot for the naming context. -/
  | tileRestoreCopy (cid ctx tile : Nat)
  /-- R169: When every core has acknowledged its configuration, the region becomes loaded. -/
  | regionConfigured (graph : BitVec 16)
  /-- R173: A region reaching quiescence is saved or has its pending edit applied. -/
  | regionQuiescent (graph : BitVec 16)
  /-- R177: When every core has halted, drained and saved its contexts, a halting region becomes saved. -/
  | regionSaved (graph : BitVec 16)
  /-- R169: Host request OP 0x01 loads one or more images from the staging area as one graph. -/
  | loadImage (graph : BitVec 16) (arg : BitVec 40)
  /-- R171: Host request OP 0x02 queues N invocations of a graph. -/
  | launch (graph : BitVec 16) (arg : BitVec 40)
  /-- R173: Host request OP 0x03 edits a region once it is quiescent or saved. -/
  | edit (graph : BitVec 16) (arg : BitVec 40)
  /-- R177: Host request OP 0x04 stops opening invocations and saves the region when quiescent. -/
  | preemptCooperative (graph : BitVec 16) (arg : BitVec 40)
  /-- R177: Host request OP 0x05 stops sources and halts the region's turns within 2 us. -/
  | preemptForced (graph : BitVec 16) (arg : BitVec 40)
  /-- R180: Host request OP 0x06 restores saved contexts and re-queues held press commands. -/
  | resume (graph : BitVec 16) (arg : BitVec 40)
  /-- R170: Host request OP 0x07 frees a region's contexts, entries, code and engines. -/
  | unload (graph : BitVec 16) (arg : BitVec 40)
  /-- R246: Host request OP 0x08 changes the remap tables once the wafer is quiesced. -/
  | tableReconfigure (graph : BitVec 16) (arg : BitVec 40)
  /-- R199: Host request OP 0x09 replaces one router's multicast table entry. -/
  | multicastEntryWrite (graph : BitVec 16) (arg : BitVec 40)
  /-- R264: A REQ write with an unlisted OP completes with status 0x0C. -/
  | reqReservedOperation (op : BitVec 8) (graph : BitVec 16) (arg : BitVec 40)
  /-- R283: A host write removes fault-buffer entries, clears DROP and performs replay-all in a cluster. -/
  | replay (value : BitVec 64)
  /-- R301: A TLBINV write sends an invalidation of an ASN's pages to every TLB of the wafer. -/
  | tlbInvalidate (value : BitVec 64)
  /-- R305: A TLBINV write with RET invalidates and then retires the splice of the frame at TLBOLD. -/
  | tlbInvalidateRetire (value : BitVec 64)
  /-- R266: A write to a source window's TAG pushes one token or is refused with OVR. -/
  | windowPush (graph : BitVec 16) (window : Nat) (tag : BitVec 64)
  /-- R266: A read of a sink window's TAG pops the head token or sets OVR. -/
  | windowPop (graph : BitVec 16) (window : Nat)
  /-- R267: A raw token write places a word token at an input entry, where it is dropped and counted. -/
  | rawTokenWrite (core entry : Nat) (payload : BitVec 64)
  /-- R269: A write to CSEL sets the counter's source and filter and clears its count. -/
  | counterSelectWrite (offset : Nat) (value : BitVec 64)
  /-- R263: A host write to a register without behaviour of its own, or to an RO area, is applied or discarded. -/
  | hostRegisterWrite (offset : Nat) (value : BitVec 64)
  /-- R271: Management command 0x01 powers the module on. -/
  | powerOn (rec : CommandRecord)
  /-- R271: Management command 0x02 powers off, halting every region. -/
  | powerOff (rec : CommandRecord)
  /-- R274: Management command 0x03 runs the cold start steps, building and numbering the remap tables. -/
  | coldStart (rec : CommandRecord)
  /-- R274: Management command 0x04 runs the warm start steps, reading back the stored tables. -/
  | warmStart (rec : CommandRecord)
  /-- R275: A failed start falls back to cold start or, at 3 failures in a row, enters service hold. -/
  | failedStart
  /-- R275: Management command 0x05 leaves service hold. -/
  | clearServiceHold (rec : CommandRecord)
  /-- R254: Management command 0x06 begins a clock step change, raising the rail first if rising. -/
  | setStep (rec : CommandRecord)
  /-- R254: Once the raised rail settles, the wave with its change count is sent to every field. -/
  | coreRailSettled
  /-- R254: A field's wave counter reaches K and its periods switch to the new frequency. -/
  | waveCountReached (field : Nat)
  /-- R254: When every field acknowledges the change, the rail is lowered if the step fell. -/
  | stepChangeAcknowledged
  /-- R262: Management command 0x07 writes a field's rate limiter register. -/
  | writeFrate (rec : CommandRecord)
  /-- R246: Management command 0x08 requests a table reconfigure. -/
  | mgmtTableReconfigure (rec : CommandRecord)
  /-- R276: Management command 0x09 sets REQSIG. -/
  | setImagePolicy (rec : CommandRecord)
  /-- R273: Management command 0x0A enrols or removes an operator key. -/
  | enrolOperatorKey (rec : CommandRecord)
  /-- R278: Management command 0x0B sets the wafer number for the next start. -/
  | setSystemWaferNumber (rec : CommandRecord)
  /-- R269: Management command 0x0C writes a counter select. -/
  | mgmtWriteCounterSelect (rec : CommandRecord)
  /-- R273: Management command 0x10 returns MSTATE, failed starts and the step last set. -/
  | readStatus (rec : CommandRecord)
  /-- R268: Management command 0x11 returns log records. -/
  | readLog (rec : CommandRecord)
  /-- R269: Management command 0x12 returns counter values. -/
  | readCounters (rec : CommandRecord)
  /-- R239: Management command 0x13 returns remap view contents. -/
  | readRemapViews (rec : CommandRecord)
  /-- R277: Management command 0x14 returns a signed attestation report for a nonce. -/
  | attestation (rec : CommandRecord)
  /-- R273: A malformed command record or unknown CMD is answered with status 0x0C. -/
  | mgmtRecordRefused (rec : CommandRecord)
  /-- R258: An over-threshold sensor or power reading lowers the stack's step by one. -/
  | throttling (logicC dramC watts : Nat)
  /-- R258: After 100 ms below thresholds the controller raises the step by one. -/
  | recovery (logicC dramC watts : Nat)
  /-- R258: A trip temperature halts every region and cuts the core and DRAM rails. -/
  | thermalTrip (logicC dramC : Nat)
  /-- R258: A core rail outside limits halts every region and cuts the rails. -/
  | powerFault (railMv : Nat)
  /-- R255: The droop monitor stretches one period of a field's clock. -/
  | clockStretches (field : Nat)
  /-- R252: A column's retraining falls due 100 ms after the last and runs or is deferred. -/
  | retrainingDue (cid : Nat)
  /-- R252: At 1 ms past due the column completes its beat and pauses to retrain. -/
  | retrainingDeferralLimit (cid : Nat)
  /-- R252: The retraining pause ends and held accesses proceed, or a failure raises vertical bus failed. -/
  | retrainingEnd (cid : Nat) (failed : Bool)
  /-- R252: Scheduled refresh pauses the vertical bus for at most 64 cycles. -/
  | refresh (cid : Nat)
  /-- R259: Patrol scrubbing reads and corrects a pool word or DRAM beat in idle port cycles. -/
  | patrolScrub (cid address : Nat) (finding : ScrubFinding)
  /-- R206: A flit or beat failing its CRC is requested again from the sender's retry buffer. -/
  | linkRetries (retry : LinkRetry)
  /-- R247: A failed router raises a machine check and halts regions crossing it. -/
  | routerFailed (router : Nat)
  /-- R34: An issued word that is no defined instruction (reserved major, undefined function, nonzero reserved field, all-zero word) raises the illegal-instruction trap and changes nothing else. -/
  | undefinedEncoding (detail operand : BitVec 8) (word : BitVec 6)
  /-- R207: When the two wires of a control-plane line disagree for 4 cycles in a row, the link is failed, a machine check is raised and regions using it halt. -/
  | controlLineDisagreement (link : Link) (cycles : Nat)
  deriving DecidableEq, Repr

end Sys2Proof
end

