-- ==== Sys2Proof/WellFormed.lean ====
section
/-!
DEFINITION. Sys2Proof/WellFormed.lean: which operand values a coded row's word may hold. `fieldFault` gives the
first encoding fault of R34's table "Trap details of encoding faults" that an instruction's own fields show; an
instruction is well formed when its row has a word and its fields show none.
-/

namespace Sys2Proof

/-- Why a word is no instruction, in the order of the table "Trap details of encoding faults" (R34). -/
inductive DecodeError where
  /-- DETAIL 0x01: the all-zero word. -/
  | allZero
  /-- DETAIL 0x02: a major marked reserved (R29). -/
  | reservedMajor
  /-- DETAIL 0x03: an undefined function, condition or selector value (R30). -/
  | undefinedFunction
  /-- DETAIL 0x04: a nonzero reserved field, W included (R28). -/
  | reservedField
  /-- DETAIL 0x05: a register, port, engine, bank or tile number out of range (R28). -/
  | outOfRange
  /-- DETAIL 0x06: a control-register number outside the table "Control registers" (R14). -/
  | undefinedCsr
  /-- DETAIL 0x0B: s0 (or a pair that would leave s1 to s31) named as a long-latency destination (R9, R74). -/
  | longLatencyS0
  deriving DecidableEq, Repr

/-- The DETAIL value of an encoding fault (R34). -/
def DecodeError.detail : DecodeError → BitVec 8
  | .allZero => 0x01
  | .reservedMajor => 0x02
  | .undefinedFunction => 0x03
  | .reservedField => 0x04
  | .outOfRange => 0x05
  | .undefinedCsr => 0x06
  | .longLatencyS0 => 0x0B

/-- The control-register numbers of the table "Control registers" (R13). -/
def csrDefined (n : BitVec 12) : Bool :=
  let k := n.toNat
  k ≤ 0x00D || (0x010 ≤ k && k ≤ 0x017) || (0x100 ≤ k && k ≤ 0x189) || (0x200 ≤ k && k ≤ 0x27F)

/-- The first encoding fault that an instruction's own fields show (R28, R34), in the table's order. -/
def fieldFault : Instr → Option DecodeError
  | .add d a b w => if d = 0 ∧ a = 0 ∧ b = 0 ∧ w = false then some .allZero else none
  | .mulpS d _ _ _ => if d = 0 ∨ d = 31 then some .outOfRange else none
  | .mulpU d _ _ _ => if d = 0 ∨ d = 31 then some .outOfRange else none
  | .mulpSu d _ _ _ => if d = 0 ∨ d = 31 then some .outOfRange else none
  | .divqS d _ _ _ => if d = 0 ∨ d = 31 then some .outOfRange else none
  | .divqU d _ _ _ => if d = 0 ∨ d = 31 then some .outOfRange else none
  | .divqF d _ _ _ => if d = 0 ∨ d = 31 then some .outOfRange else none
  | .fadd d a b => if 15 < d ∨ 15 < a ∨ 15 < b then some .outOfRange else none
  | .fsub d a b => if 15 < d ∨ 15 < a ∨ 15 < b then some .outOfRange else none
  | .fmul d a b => if 15 < d ∨ 15 < a ∨ 15 < b then some .outOfRange else none
  | .ffma d a b c => if 15 < d ∨ 15 < a ∨ 15 < b ∨ 15 < c then some .outOfRange else none
  | .fmin d a b => if 15 < d ∨ 15 < a ∨ 15 < b then some .outOfRange else none
  | .fmax d a b => if 15 < d ∨ 15 < a ∨ 15 < b then some .outOfRange else none
  | .fneg d a => if 15 < d ∨ 15 < a then some .outOfRange else none
  | .fabs d a => if 15 < d ∨ 15 < a then some .outOfRange else none
  | .fmov d a => if 15 < d ∨ 15 < a then some .outOfRange else none
  | .fcvtSF _ a => if 15 < a then some .outOfRange else none
  | .fcvtFS d _ _ => if 15 < d then some .outOfRange else none
  | .feq _ a b => if 15 < a ∨ 15 < b then some .outOfRange else none
  | .flt _ a b => if 15 < a ∨ 15 < b then some .outOfRange else none
  | .fle _ a b => if 15 < a ∨ 15 < b then some .outOfRange else none
  | .fmvSF _ a => if 15 < a then some .outOfRange else none
  | .fmvFS d _ _ => if 15 < d then some .outOfRange else none
  | .loop a _ _ _ => if a = 0 then some .outOfRange else none
  | .barr b => if 7 < b then some .undefinedFunction else none
  | .evrd _ n => if 19 < n then some .undefinedFunction else none
  | .csrr _ n => if ¬ csrDefined n then some .undefinedCsr else none
  | .csrw _ _ n => if ¬ csrDefined n then some .undefinedCsr else none
  | .csrx _ _ _ n => if ¬ csrDefined n then some .undefinedCsr else none
  | .ld _ _ _ z _ => if z = 7 then some .undefinedFunction else none
  | .pin _ p => if 15 < p then some .outOfRange else none
  | .pout q _ _ => if 15 < q then some .outOfRange else none
  | .poutc q _ k _ => if k = 5 then some .undefinedFunction else if 15 < q then some .outOfRange else none
  | .pstat _ p => if 15 < p then some .outOfRange else none
  | .qstat _ p => if 15 < p then some .outOfRange else none
  | .feClr d => if d = 0 then some .longLatencyS0 else none
  | .fld d _ _ _ s => if s = 7 then some .undefinedFunction else if d = 0 then some .longLatencyS0 else none
  | .chase d _ _ _ => if d = 0 ∨ d = 31 then some .longLatencyS0 else none
  | .fenceAcc d s => if 4 < s then some .undefinedFunction else if d = 0 then some .longLatencyS0 else none
  | .fenceVis d s => if 4 < s then some .undefinedFunction else if d = 0 then some .longLatencyS0 else none
  | .vcmpEq d _ _ _ _ => if 7 < d then some .outOfRange else none
  | .vcmpNe d _ _ _ _ => if 7 < d then some .outOfRange else none
  | .vcmpLt d _ _ _ _ => if 7 < d then some .outOfRange else none
  | .vcmpLe d _ _ _ _ => if 7 < d then some .outOfRange else none
  | .vcmpLtu d _ _ _ _ => if 7 < d then some .outOfRange else none
  | .vcmpLeu d _ _ _ _ => if 7 < d then some .outOfRange else none
  | .vfcmpEq d _ _ _ _ => if 7 < d then some .outOfRange else none
  | .vfcmpLt d _ _ _ _ => if 7 < d then some .outOfRange else none
  | .vfcmpLe d _ _ _ _ => if 7 < d then some .outOfRange else none
  | .vfcmpUn d _ _ _ _ => if 7 < d then some .outOfRange else none
  | .vrot _ _ n _ _ => if 15 < n then some .undefinedFunction else none
  | .vshup _ _ n _ _ => if 15 < n then some .undefinedFunction else none
  | .vshdn _ _ n _ _ => if 15 < n then some .undefinedFunction else none
  | .vmvSV _ _ l => if 15 < l then some .undefinedFunction else none
  | .vmvVS _ _ l _ => if 15 < l then some .undefinedFunction else none
  | .kand d a b => if 7 < d ∨ 7 < a ∨ 7 < b then some .outOfRange else none
  | .kor d a b => if 7 < d ∨ 7 < a ∨ 7 < b then some .outOfRange else none
  | .kxor d a b => if 7 < d ∨ 7 < a ∨ 7 < b then some .outOfRange else none
  | .knot d a => if 7 < d ∨ 7 < a then some .outOfRange else none
  | .kmov d a => if 7 < d ∨ 7 < a then some .outOfRange else none
  | .kpopc _ a => if 7 < a then some .outOfRange else none
  | .kfrom d _ _ => if 7 < d then some .outOfRange else none
  | .vcfg n _ _ => if 15 < n then some .outOfRange else none
  | .vrun b _ _ => if b ≠ 0 ∧ b < 16 then some .reservedField else none
  | .tshp d _ _ => if 7 < d then some .outOfRange else none
  | .tclr d => if 7 < d then some .outOfRange else none
  | .tsave d => if 7 < d then some .outOfRange else none
  | .trest d => if 7 < d then some .outOfRange else none
  | .arst d => if 3 < d then some .outOfRange else none
  | .pmm d _ _ c _ => if 15 < c then some .outOfRange else if d = 0 then some .longLatencyS0 else none
  | .tnorm d a b _ => if 7 < a ∨ 3 < b then some .outOfRange else if d = 0 then some .longLatencyS0 else none
  | .trowRd _ _ b _ => if 7 < b then some .outOfRange else none
  | .trowWr _ _ b _ => if 7 < b then some .outOfRange else none
  | .tcolRd _ _ b _ => if 7 < b then some .outOfRange else none
  | .tcolWr _ _ b _ => if 7 < b then some .outOfRange else none
  | .tld d _ _ _ => if 7 < d then some .outOfRange else none
  | .tst d _ _ _ => if 7 < d then some .outOfRange else none
  | .sopen d _ _ => if 3 < d then some .outOfRange else none
  | .sgo d a => if 3 < a then some .outOfRange else if d = 31 then some .longLatencyS0 else none
  | .sstop d => if 3 < d then some .outOfRange else none
  | .sstat _ a => if 3 < a then some .outOfRange else none
  | .sparm d _ _ => if 3 < d then some .outOfRange else none
  | .xcopy d a _ _ => if 3 < a then some .outOfRange else if d = 31 then some .longLatencyS0 else none
  | .xfill d a _ _ => if 3 < a then some .outOfRange else if d = 31 then some .longLatencyS0 else none
  | .xsplice d a _ _ => if 3 < a then some .outOfRange else if d = 31 then some .longLatencyS0 else none
  | .ecvtEF _ a => if 15 < a then some .outOfRange else none
  | .ecvtFE d _ => if 15 < d then some .outOfRange else none
  | .ernd _ _ _ | .sub _ _ _ _ | .and _ _ _ _ | .or _ _ _ _ | .xor _ _ _ _ | .andn _ _ _ _ | .orn _ _ _ _ | .xnor _ _ _ _
  | .sll _ _ _ _ | .srl _ _ _ _ | .sra _ _ _ _ | .rol _ _ _ _ | .ror _ _ _ _ | .mul _ _ _ _ | .min _ _ _ _
  | .max _ _ _ _ | .minu _ _ _ _ | .maxu _ _ _ _ | .bfx _ _ _ _ | .bfxu _ _ _ _ | .bfi _ _ _ _ | .clz _ _ _
  | .ctz _ _ _ | .popc _ _ _ | .brev _ _ _ | .bswap _ _ _ | .seq _ _ _ _ | .sne _ _ _ _ | .slt _ _ _ _
  | .sge _ _ _ _ | .sltu _ _ _ _ | .sgeu _ _ _ _ | .sel _ _ _ _ _ | .addi _ _ _ _ | .andi _ _ _ _ | .ori _ _ _ _
  | .xori _ _ _ _ | .slli _ _ _ _ | .srli _ _ _ _ | .srai _ _ _ _ | .slti _ _ _ _ | .sltiu _ _ _ _ | .li _ _
  | .liu _ _ | .bCond _ _ _ _ _ _ | .jmp _ _ | .next _ | .call _ _ | .ret _ _ | .done | .yield | .tret | .nop
  | .trap _ | .st _ _ _ _ _ | .feSet _ | .feTst _ _ | .sndCurd _ _ _ _ | .rplWhey _ _ _ | .fst _ _ _ _ _
  | .fstbN4 _ _ _ _ | .fstbN2 _ _ _ _ | .amoAdd _ _ _ _ | .amoAnd _ _ _ _ | .amoOr _ _ _ _ | .amoXor _ _ _ _
  | .amoMin _ _ _ _ | .amoMax _ _ _ _ | .amoMinu _ _ _ _ | .amoMaxu _ _ _ _ | .amoSwap _ _ _ _ | .amoCas _ _ _ _ _
  | .amoFaddF32 _ _ _ _ | .amoFaddBf16 _ _ _ _ | .ocall _ _ _ _ | .mcast _ _ _ | .vadd _ _ _ _ _ | .vsub _ _ _ _ _
  | .vmul _ _ _ _ _ | .vmulh _ _ _ _ _ | .vmin _ _ _ _ _ | .vmax _ _ _ _ _ | .vminu _ _ _ _ _ | .vmaxu _ _ _ _ _
  | .vabs _ _ _ _ | .vneg _ _ _ _ | .vsll _ _ _ _ _ | .vsrl _ _ _ _ _ | .vsra _ _ _ _ _ | .vadds _ _ _ _ _
  | .vsubs _ _ _ _ _ | .vfadd _ _ _ _ _ | .vfsub _ _ _ _ _ | .vfmul _ _ _ _ _ | .vfma _ _ _ _ _ | .vfmin _ _ _ _ _
  | .vfmax _ _ _ _ _ | .vfabs _ _ _ _ | .vfneg _ _ _ _ | .vand _ _ _ _ _ | .vor _ _ _ _ _ | .vxor _ _ _ _ _
  | .vandn _ _ _ _ _ | .vnot _ _ _ _ | .vmov _ _ _ _ | .vsel _ _ _ _ | .vbcast _ _ _ _ _ | .vredAdd _ _ _
  | .vredFadd _ _ _ | .vredMax _ _ _ | .vredMin _ _ _ | .vredFmax _ _ _ | .vscanAdd _ _ _ _ | .vscanFadd _ _ _ _
  | .vld _ _ _ _ _ _ | .vst _ _ _ _ _ | .vgat _ _ _ _ _ _ | .vsct _ _ _ _ _ | .vcvt _ _ _ _ _ | .vscvt _ _ _ _ _
  | .vpack _ _ _ | .vunpk _ _ _ | .vpark _ _ _ _ | .vunpark _ _ _ _ _ | .pstatus _ | .mcfg _ _ | .plda _ | .pldb _
  | .eadd _ _ _ | .esub _ _ _ | .emul _ _ _ | .efma _ _ _ _ | .ediv _ _ _ | .esqrt _ _ | .eneg _ _ | .eabs _ _
  | .ecmp _ _ _ | .emov _ _ | .elen _ _ | .ecvtEI _ _ _ _ | .ecvtED _ _ _ | .ecvtIE _ _ _ | .ecvtDE _ _
  | .eprec _ _ _ _ | .eld _ _ _ _ | .est _ _ _ _ _ | .eldInc _ _ _ _ | .estInc _ _ _ _ _ | .ext _ | .fmt _ _ _ _
  | .scl _ _ _ _ _ | .rnd _ _ => none
  | .selection _ | .endOfInvocationStep _ _ | .tokenInjection _ | .tokenArrival _ | .creditReturn _
  | .creditArrival _ | .limiterWindow _ | .sendQueueEntryFree _ | .serviceRequestDelivery _ | .ownerPortAccess _
  | .replyArrival _ | .fenceCompletion _ | .multicastReplication _ | .barrierEpisodeComplete _ | .barrierRelease _ _
  | .chaseHop _ | .chaseSpillReturn _ | .chaseReply _ | .hubMiss _ | .hubQueueRetry _ | .walkLevelRead _ _
  | .invalidationComplete | .engineElement _ _ | .engineRoundBoundary _ _ | .engineCommandEnd _ _
  | .pressCommandStart _ | .pressPassEnd _ _ | .pressCommitEnd _ | .tileSaveCopy _ _ | .tileRestoreCopy _ _ _
  | .regionConfigured _ | .regionQuiescent _ | .regionSaved _ | .loadImage _ _ | .launch _ _ | .edit _ _
  | .preemptCooperative _ _ | .preemptForced _ _ | .resume _ _ | .unload _ _ | .tableReconfigure _ _
  | .multicastEntryWrite _ _ | .reqReservedOperation _ _ _ | .replay _ | .tlbInvalidate _ | .tlbInvalidateRetire _
  | .windowPush _ _ _ | .windowPop _ _ | .rawTokenWrite _ _ _ | .counterSelectWrite _ _ | .hostRegisterWrite _ _
  | .powerOn _ | .powerOff _ | .coldStart _ | .warmStart _ | .failedStart | .clearServiceHold _ | .setStep _
  | .coreRailSettled | .waveCountReached _ | .stepChangeAcknowledged | .writeFrate _ | .mgmtTableReconfigure _
  | .setImagePolicy _ | .enrolOperatorKey _ | .setSystemWaferNumber _ | .mgmtWriteCounterSelect _ | .readStatus _
  | .readLog _ | .readCounters _ | .readRemapViews _ | .attestation _ | .mgmtRecordRefused _ | .throttling _ _ _
  | .recovery _ _ _ | .thermalTrip _ _ | .powerFault _ | .clockStretches _ | .retrainingDue _
  | .retrainingDeferralLimit _ | .retrainingEnd _ _ | .refresh _ | .patrolScrub _ _ _ | .linkRetries _
  | .routerFailed _ | .undefinedEncoding _ _ _ | .controlLineDisagreement _ _ => none

/-- The rows of the opcode table that have an instruction word. -/
def Instr.coded : Instr → Bool
  | .selection _ | .endOfInvocationStep _ _ | .tokenInjection _ | .tokenArrival _ | .creditReturn _
  | .creditArrival _ | .limiterWindow _ | .sendQueueEntryFree _ | .serviceRequestDelivery _ | .ownerPortAccess _
  | .replyArrival _ | .fenceCompletion _ | .multicastReplication _ | .barrierEpisodeComplete _ | .barrierRelease _ _
  | .chaseHop _ | .chaseSpillReturn _ | .chaseReply _ | .hubMiss _ | .hubQueueRetry _ | .walkLevelRead _ _
  | .invalidationComplete | .engineElement _ _ | .engineRoundBoundary _ _ | .engineCommandEnd _ _
  | .pressCommandStart _ | .pressPassEnd _ _ | .pressCommitEnd _ | .tileSaveCopy _ _ | .tileRestoreCopy _ _ _
  | .regionConfigured _ | .regionQuiescent _ | .regionSaved _ | .loadImage _ _ | .launch _ _ | .edit _ _
  | .preemptCooperative _ _ | .preemptForced _ _ | .resume _ _ | .unload _ _ | .tableReconfigure _ _
  | .multicastEntryWrite _ _ | .reqReservedOperation _ _ _ | .replay _ | .tlbInvalidate _ | .tlbInvalidateRetire _
  | .windowPush _ _ _ | .windowPop _ _ | .rawTokenWrite _ _ _ | .counterSelectWrite _ _ | .hostRegisterWrite _ _
  | .powerOn _ | .powerOff _ | .coldStart _ | .warmStart _ | .failedStart | .clearServiceHold _ | .setStep _
  | .coreRailSettled | .waveCountReached _ | .stepChangeAcknowledged | .writeFrate _ | .mgmtTableReconfigure _
  | .setImagePolicy _ | .enrolOperatorKey _ | .setSystemWaferNumber _ | .mgmtWriteCounterSelect _ | .readStatus _
  | .readLog _ | .readCounters _ | .readRemapViews _ | .attestation _ | .mgmtRecordRefused _ | .throttling _ _ _
  | .recovery _ _ _ | .thermalTrip _ _ | .powerFault _ | .clockStretches _ | .retrainingDue _
  | .retrainingDeferralLimit _ | .retrainingEnd _ _ | .refresh _ | .patrolScrub _ _ _ | .linkRetries _
  | .routerFailed _ | .undefinedEncoding _ _ _ | .controlLineDisagreement _ _ => false
  | .add _ _ _ _ | .sub _ _ _ _ | .and _ _ _ _ | .or _ _ _ _ | .xor _ _ _ _ | .andn _ _ _ _ | .orn _ _ _ _
  | .xnor _ _ _ _ | .sll _ _ _ _ | .srl _ _ _ _ | .sra _ _ _ _ | .rol _ _ _ _ | .ror _ _ _ _ | .mul _ _ _ _
  | .mulpS _ _ _ _ | .mulpU _ _ _ _ | .mulpSu _ _ _ _ | .divqS _ _ _ _ | .divqU _ _ _ _ | .divqF _ _ _ _
  | .min _ _ _ _ | .max _ _ _ _ | .minu _ _ _ _ | .maxu _ _ _ _ | .bfx _ _ _ _ | .bfxu _ _ _ _ | .bfi _ _ _ _
  | .clz _ _ _ | .ctz _ _ _ | .popc _ _ _ | .brev _ _ _ | .bswap _ _ _ | .seq _ _ _ _ | .sne _ _ _ _ | .slt _ _ _ _
  | .sge _ _ _ _ | .sltu _ _ _ _ | .sgeu _ _ _ _ | .sel _ _ _ _ _ | .addi _ _ _ _ | .andi _ _ _ _ | .ori _ _ _ _
  | .xori _ _ _ _ | .slli _ _ _ _ | .srli _ _ _ _ | .srai _ _ _ _ | .slti _ _ _ _ | .sltiu _ _ _ _ | .li _ _
  | .liu _ _ | .fadd _ _ _ | .fsub _ _ _ | .fmul _ _ _ | .ffma _ _ _ _ | .fmin _ _ _ | .fmax _ _ _ | .fneg _ _
  | .fabs _ _ | .fmov _ _ | .fcvtSF _ _ | .fcvtFS _ _ _ | .feq _ _ _ | .flt _ _ _ | .fle _ _ _ | .fmvSF _ _
  | .fmvFS _ _ _ | .bCond _ _ _ _ _ _ | .loop _ _ _ _ | .jmp _ _ | .next _ | .call _ _ | .ret _ _ | .done | .yield
  | .tret | .nop | .trap _ | .barr _ | .evrd _ _ | .csrr _ _ | .csrw _ _ _ | .csrx _ _ _ _ | .ld _ _ _ _ _
  | .st _ _ _ _ _ | .pin _ _ | .pout _ _ _ | .poutc _ _ _ _ | .pstat _ _ | .qstat _ _ | .feClr _ | .feSet _
  | .feTst _ _ | .sndCurd _ _ _ _ | .rplWhey _ _ _ | .fld _ _ _ _ _ | .fst _ _ _ _ _ | .fstbN4 _ _ _ _
  | .fstbN2 _ _ _ _ | .amoAdd _ _ _ _ | .amoAnd _ _ _ _ | .amoOr _ _ _ _ | .amoXor _ _ _ _ | .amoMin _ _ _ _
  | .amoMax _ _ _ _ | .amoMinu _ _ _ _ | .amoMaxu _ _ _ _ | .amoSwap _ _ _ _ | .amoCas _ _ _ _ _
  | .amoFaddF32 _ _ _ _ | .amoFaddBf16 _ _ _ _ | .ocall _ _ _ _ | .mcast _ _ _ | .chase _ _ _ _ | .fenceAcc _ _
  | .fenceVis _ _ | .vadd _ _ _ _ _ | .vsub _ _ _ _ _ | .vmul _ _ _ _ _ | .vmulh _ _ _ _ _ | .vmin _ _ _ _ _
  | .vmax _ _ _ _ _ | .vminu _ _ _ _ _ | .vmaxu _ _ _ _ _ | .vabs _ _ _ _ | .vneg _ _ _ _ | .vsll _ _ _ _ _
  | .vsrl _ _ _ _ _ | .vsra _ _ _ _ _ | .vadds _ _ _ _ _ | .vsubs _ _ _ _ _ | .vfadd _ _ _ _ _ | .vfsub _ _ _ _ _
  | .vfmul _ _ _ _ _ | .vfma _ _ _ _ _ | .vfmin _ _ _ _ _ | .vfmax _ _ _ _ _ | .vfabs _ _ _ _ | .vfneg _ _ _ _
  | .vand _ _ _ _ _ | .vor _ _ _ _ _ | .vxor _ _ _ _ _ | .vandn _ _ _ _ _ | .vnot _ _ _ _ | .vmov _ _ _ _
  | .vcmpEq _ _ _ _ _ | .vcmpNe _ _ _ _ _ | .vcmpLt _ _ _ _ _ | .vcmpLe _ _ _ _ _ | .vcmpLtu _ _ _ _ _
  | .vcmpLeu _ _ _ _ _ | .vfcmpEq _ _ _ _ _ | .vfcmpLt _ _ _ _ _ | .vfcmpLe _ _ _ _ _ | .vfcmpUn _ _ _ _ _
  | .vsel _ _ _ _ | .vrot _ _ _ _ _ | .vshup _ _ _ _ _ | .vshdn _ _ _ _ _ | .vbcast _ _ _ _ _ | .vmvSV _ _ _
  | .vmvVS _ _ _ _ | .vredAdd _ _ _ | .vredFadd _ _ _ | .vredMax _ _ _ | .vredMin _ _ _ | .vredFmax _ _ _
  | .vscanAdd _ _ _ _ | .vscanFadd _ _ _ _ | .vld _ _ _ _ _ _ | .vst _ _ _ _ _ | .vgat _ _ _ _ _ _ | .vsct _ _ _ _ _
  | .vcvt _ _ _ _ _ | .vscvt _ _ _ _ _ | .vpack _ _ _ | .vunpk _ _ _ | .kand _ _ _ | .kor _ _ _ | .kxor _ _ _
  | .knot _ _ | .kmov _ _ | .kpopc _ _ | .kfrom _ _ _ | .vcfg _ _ _ | .vrun _ _ _ | .vpark _ _ _ _
  | .vunpark _ _ _ _ _ | .tshp _ _ _ | .tclr _ | .tsave _ | .trest _ | .pstatus _ | .arst _ | .mcfg _ _ | .plda _
  | .pldb _ | .pmm _ _ _ _ _ | .tnorm _ _ _ _ | .trowRd _ _ _ _ | .trowWr _ _ _ _ | .tcolRd _ _ _ _
  | .tcolWr _ _ _ _ | .tld _ _ _ _ | .tst _ _ _ _ | .sopen _ _ _ | .sgo _ _ | .sstop _ | .sstat _ _ | .sparm _ _ _
  | .xcopy _ _ _ _ | .xfill _ _ _ _ | .xsplice _ _ _ _ | .eadd _ _ _ | .esub _ _ _ | .emul _ _ _ | .efma _ _ _ _
  | .ediv _ _ _ | .esqrt _ _ | .eneg _ _ | .eabs _ _ | .ecmp _ _ _ | .emov _ _ | .ernd _ _ _ | .elen _ _
  | .ecvtEI _ _ _ _ | .ecvtEF _ _ | .ecvtED _ _ _ | .ecvtIE _ _ _ | .ecvtFE _ _ | .ecvtDE _ _ | .eprec _ _ _ _
  | .eld _ _ _ _ | .est _ _ _ _ _ | .eldInc _ _ _ _ | .estInc _ _ _ _ _ | .ext _ | .fmt _ _ _ _ | .scl _ _ _ _ _
  | .rnd _ _ => true

/-- The four prefixes (R31). -/
def Instr.isPrefix : Instr → Bool
  | .ext _ | .fmt _ _ _ _ | .scl _ _ _ _ _ | .rnd _ _ => true
  | _ => false

/-- An instruction the decoder may answer: its row has a word and its fields are in range (R28, R34). -/
def Instr.wellFormed (i : Instr) : Bool :=
  i.coded && (fieldFault i).isNone

end Sys2Proof
end

