-- ==== Sys2Proof/Decode.lean ====
section
/-!
DEFINITION. Sys2Proof/Decode.lean: the decoder, total on every 32-bit word and refusing by name (R27 to R30, R34), the
encoder written from the same formats, and `decodeTableWord`, which reads a word as spec/opcode_table.json numbers it.
-/

namespace Sys2Proof

/-- Bits lo + len - 1 : lo of a word (R6). -/
def bitsAt (w : IWord) (lo len : Nat) : BitVec len := BitVec.ofNat len (w.toNat / 2 ^ lo)

/-- A one-bit field as a flag. -/
def flagAt (w : IWord) (lo : Nat) : Bool := w.toNat / 2 ^ lo % 2 == 1

/-- All the reserved ranges (low bit, length) of a form are zero (R28). -/
def reservedZero (w : IWord) (rs : List (Nat × Nat)) : Bool :=
  rs.all fun r => w.toNat / 2 ^ r.1 % 2 ^ r.2 == 0

/-- An instruction read from its fields, with whether its reserved fields are zero. -/
abbrev RawDecode := Except DecodeError (Instr × Bool)

/-- Major 0x00 (R29, R30). -/
def decMajor00 (w : IWord) : RawDecode :=
  match w.toNat / 2 ^ 0 % 16 with
  | 0 => .ok (.add (bitsAt w 20 5) (bitsAt w 15 5) (bitsAt w 10 5) (flagAt w 4), reservedZero w [(5, 5)])
  | 1 => .ok (.sub (bitsAt w 20 5) (bitsAt w 15 5) (bitsAt w 10 5) (flagAt w 4), reservedZero w [(5, 5)])
  | 2 => .ok (.and (bitsAt w 20 5) (bitsAt w 15 5) (bitsAt w 10 5) (flagAt w 4), reservedZero w [(5, 5)])
  | 3 => .ok (.or (bitsAt w 20 5) (bitsAt w 15 5) (bitsAt w 10 5) (flagAt w 4), reservedZero w [(5, 5)])
  | 4 => .ok (.xor (bitsAt w 20 5) (bitsAt w 15 5) (bitsAt w 10 5) (flagAt w 4), reservedZero w [(5, 5)])
  | 5 => .ok (.andn (bitsAt w 20 5) (bitsAt w 15 5) (bitsAt w 10 5) (flagAt w 4), reservedZero w [(5, 5)])
  | 6 => .ok (.orn (bitsAt w 20 5) (bitsAt w 15 5) (bitsAt w 10 5) (flagAt w 4), reservedZero w [(5, 5)])
  | 7 => .ok (.xnor (bitsAt w 20 5) (bitsAt w 15 5) (bitsAt w 10 5) (flagAt w 4), reservedZero w [(5, 5)])
  | 8 => .ok (.sll (bitsAt w 20 5) (bitsAt w 15 5) (bitsAt w 10 5) (flagAt w 4), reservedZero w [(5, 5)])
  | 9 => .ok (.srl (bitsAt w 20 5) (bitsAt w 15 5) (bitsAt w 10 5) (flagAt w 4), reservedZero w [(5, 5)])
  | 10 => .ok (.sra (bitsAt w 20 5) (bitsAt w 15 5) (bitsAt w 10 5) (flagAt w 4), reservedZero w [(5, 5)])
  | 11 => .ok (.rol (bitsAt w 20 5) (bitsAt w 15 5) (bitsAt w 10 5) (flagAt w 4), reservedZero w [(5, 5)])
  | 12 => .ok (.ror (bitsAt w 20 5) (bitsAt w 15 5) (bitsAt w 10 5) (flagAt w 4), reservedZero w [(5, 5)])
  | _ => .error .undefinedFunction

/-- Major 0x01 (R29, R30). -/
def decMajor01 (w : IWord) : RawDecode :=
  match w.toNat / 2 ^ 0 % 16 with
  | 0 => .ok (.mul (bitsAt w 20 5) (bitsAt w 15 5) (bitsAt w 10 5) (flagAt w 4), reservedZero w [(5, 5)])
  | 1 => .ok (.mulpS (bitsAt w 20 5) (bitsAt w 15 5) (bitsAt w 10 5) (flagAt w 4), reservedZero w [(5, 5)])
  | 2 => .ok (.mulpU (bitsAt w 20 5) (bitsAt w 15 5) (bitsAt w 10 5) (flagAt w 4), reservedZero w [(5, 5)])
  | 3 => .ok (.mulpSu (bitsAt w 20 5) (bitsAt w 15 5) (bitsAt w 10 5) (flagAt w 4), reservedZero w [(5, 5)])
  | 4 => .ok (.divqS (bitsAt w 20 5) (bitsAt w 15 5) (bitsAt w 10 5) (flagAt w 4), reservedZero w [(5, 5)])
  | 5 => .ok (.divqU (bitsAt w 20 5) (bitsAt w 15 5) (bitsAt w 10 5) (flagAt w 4), reservedZero w [(5, 5)])
  | 6 => .ok (.divqF (bitsAt w 20 5) (bitsAt w 15 5) (bitsAt w 10 5) (flagAt w 4), reservedZero w [(5, 5)])
  | 8 => .ok (.min (bitsAt w 20 5) (bitsAt w 15 5) (bitsAt w 10 5) (flagAt w 4), reservedZero w [(5, 5)])
  | 9 => .ok (.max (bitsAt w 20 5) (bitsAt w 15 5) (bitsAt w 10 5) (flagAt w 4), reservedZero w [(5, 5)])
  | 10 => .ok (.minu (bitsAt w 20 5) (bitsAt w 15 5) (bitsAt w 10 5) (flagAt w 4), reservedZero w [(5, 5)])
  | 11 => .ok (.maxu (bitsAt w 20 5) (bitsAt w 15 5) (bitsAt w 10 5) (flagAt w 4), reservedZero w [(5, 5)])
  | _ => .error .undefinedFunction

/-- Major 0x02 (R29, R30). -/
def decMajor02 (w : IWord) : RawDecode :=
  match w.toNat / 2 ^ 0 % 16 with
  | 0 => .ok (.bfx (bitsAt w 20 5) (bitsAt w 15 5) (bitsAt w 10 5) (flagAt w 4), reservedZero w [(5, 5)])
  | 1 => .ok (.bfxu (bitsAt w 20 5) (bitsAt w 15 5) (bitsAt w 10 5) (flagAt w 4), reservedZero w [(5, 5)])
  | 2 => .ok (.bfi (bitsAt w 20 5) (bitsAt w 15 5) (bitsAt w 10 5) (flagAt w 4), reservedZero w [(5, 5)])
  | 3 => .ok (.clz (bitsAt w 20 5) (bitsAt w 15 5) (flagAt w 4), reservedZero w [(5, 10)])
  | 4 => .ok (.ctz (bitsAt w 20 5) (bitsAt w 15 5) (flagAt w 4), reservedZero w [(5, 10)])
  | 5 => .ok (.popc (bitsAt w 20 5) (bitsAt w 15 5) (flagAt w 4), reservedZero w [(5, 10)])
  | 6 => .ok (.brev (bitsAt w 20 5) (bitsAt w 15 5) (flagAt w 4), reservedZero w [(5, 10)])
  | 7 => .ok (.bswap (bitsAt w 20 5) (bitsAt w 15 5) (flagAt w 4), reservedZero w [(5, 10)])
  | _ => .error .undefinedFunction

/-- Major 0x03 (R29, R30). -/
def decMajor03 (w : IWord) : RawDecode :=
  match w.toNat / 2 ^ 0 % 16 with
  | 0 => .ok (.seq (bitsAt w 20 5) (bitsAt w 15 5) (bitsAt w 10 5) (flagAt w 4), reservedZero w [(5, 5)])
  | 1 => .ok (.sne (bitsAt w 20 5) (bitsAt w 15 5) (bitsAt w 10 5) (flagAt w 4), reservedZero w [(5, 5)])
  | 2 => .ok (.slt (bitsAt w 20 5) (bitsAt w 15 5) (bitsAt w 10 5) (flagAt w 4), reservedZero w [(5, 5)])
  | 3 => .ok (.sge (bitsAt w 20 5) (bitsAt w 15 5) (bitsAt w 10 5) (flagAt w 4), reservedZero w [(5, 5)])
  | 4 => .ok (.sltu (bitsAt w 20 5) (bitsAt w 15 5) (bitsAt w 10 5) (flagAt w 4), reservedZero w [(5, 5)])
  | 5 => .ok (.sgeu (bitsAt w 20 5) (bitsAt w 15 5) (bitsAt w 10 5) (flagAt w 4), reservedZero w [(5, 5)])
  | 8 => .ok (.sel (bitsAt w 20 5) (bitsAt w 15 5) (bitsAt w 10 5) (bitsAt w 5 5) (flagAt w 4), true)
  | _ => .error .undefinedFunction

/-- Major 0x04/0x05 (R29, R30). -/
def decMajor04 (w : IWord) : RawDecode :=
  .ok (.addi (flagAt w 25) (bitsAt w 20 5) (bitsAt w 15 5) (bitsAt w 0 15), true)

/-- Major 0x06/0x07 (R29, R30). -/
def decMajor06 (w : IWord) : RawDecode :=
  .ok (.andi (flagAt w 25) (bitsAt w 20 5) (bitsAt w 15 5) (bitsAt w 0 15), true)

/-- Major 0x08/0x09 (R29, R30). -/
def decMajor08 (w : IWord) : RawDecode :=
  .ok (.ori (flagAt w 25) (bitsAt w 20 5) (bitsAt w 15 5) (bitsAt w 0 15), true)

/-- Major 0x0A/0x0B (R29, R30). -/
def decMajor0A (w : IWord) : RawDecode :=
  .ok (.xori (flagAt w 25) (bitsAt w 20 5) (bitsAt w 15 5) (bitsAt w 0 15), true)

/-- Major 0x0C/0x0D (R29, R30). -/
def decMajor0C (w : IWord) : RawDecode :=
  match w.toNat / 2 ^ 13 % 4 with
  | 0 => .ok (.slli (flagAt w 25) (bitsAt w 20 5) (bitsAt w 15 5) (bitsAt w 0 6), reservedZero w [(6, 7)])
  | 1 => .ok (.srli (flagAt w 25) (bitsAt w 20 5) (bitsAt w 15 5) (bitsAt w 0 6), reservedZero w [(6, 7)])
  | 2 => .ok (.srai (flagAt w 25) (bitsAt w 20 5) (bitsAt w 15 5) (bitsAt w 0 6), reservedZero w [(6, 7)])
  | _ => .error .undefinedFunction

/-- Major 0x0E/0x0F (R29, R30). -/
def decMajor0E (w : IWord) : RawDecode :=
  .ok (.slti (flagAt w 25) (bitsAt w 20 5) (bitsAt w 15 5) (bitsAt w 0 15), true)

/-- Major 0x10/0x11 (R29, R30). -/
def decMajor10 (w : IWord) : RawDecode :=
  .ok (.sltiu (flagAt w 25) (bitsAt w 20 5) (bitsAt w 15 5) (bitsAt w 0 15), true)

/-- Major 0x12 (R29, R30). -/
def decMajor12 (w : IWord) : RawDecode :=
  .ok (.li (bitsAt w 20 5) (bitsAt w 0 15), reservedZero w [(15, 5)])

/-- Major 0x13 (R29, R30). -/
def decMajor13 (w : IWord) : RawDecode :=
  .ok (.liu (bitsAt w 20 5) (bitsAt w 0 15), reservedZero w [(15, 5)])

/-- Major 0x14 (R29, R30). -/
def decMajor14 (w : IWord) : RawDecode :=
  match w.toNat / 2 ^ 0 % 16 with
  | 0 => .ok (.fadd (bitsAt w 20 5) (bitsAt w 15 5) (bitsAt w 10 5), reservedZero w [(4, 6)])
  | 1 => .ok (.fsub (bitsAt w 20 5) (bitsAt w 15 5) (bitsAt w 10 5), reservedZero w [(4, 6)])
  | 2 => .ok (.fmul (bitsAt w 20 5) (bitsAt w 15 5) (bitsAt w 10 5), reservedZero w [(4, 6)])
  | 3 => .ok (.ffma (bitsAt w 20 5) (bitsAt w 15 5) (bitsAt w 10 5) (bitsAt w 5 5), reservedZero w [(4, 1)])
  | 4 => .ok (.fmin (bitsAt w 20 5) (bitsAt w 15 5) (bitsAt w 10 5), reservedZero w [(4, 6)])
  | 5 => .ok (.fmax (bitsAt w 20 5) (bitsAt w 15 5) (bitsAt w 10 5), reservedZero w [(4, 6)])
  | 6 => .ok (.fneg (bitsAt w 20 5) (bitsAt w 15 5), reservedZero w [(4, 11)])
  | 7 => .ok (.fabs (bitsAt w 20 5) (bitsAt w 15 5), reservedZero w [(4, 11)])
  | 8 => .ok (.fmov (bitsAt w 20 5) (bitsAt w 15 5), reservedZero w [(4, 11)])
  | 9 => .ok (.fcvtSF (bitsAt w 20 5) (bitsAt w 15 5), reservedZero w [(4, 11)])
  | 10 => .ok (.fcvtFS (bitsAt w 20 5) (bitsAt w 15 5) (flagAt w 4), reservedZero w [(5, 10)])
  | 11 => .ok (.feq (bitsAt w 20 5) (bitsAt w 15 5) (bitsAt w 10 5), reservedZero w [(4, 6)])
  | 12 => .ok (.flt (bitsAt w 20 5) (bitsAt w 15 5) (bitsAt w 10 5), reservedZero w [(4, 6)])
  | 13 => .ok (.fle (bitsAt w 20 5) (bitsAt w 15 5) (bitsAt w 10 5), reservedZero w [(4, 6)])
  | 14 => .ok (.fmvSF (bitsAt w 20 5) (bitsAt w 15 5), reservedZero w [(4, 11)])
  | 15 => .ok (.fmvFS (bitsAt w 20 5) (bitsAt w 15 5) (flagAt w 4), reservedZero w [(5, 10)])
  | _ => .error .undefinedFunction

/-- Major 0x20 (R29, R30). -/
def decMajor20 (w : IWord) : RawDecode :=
  .ok (.bCond (bitsAt w 20 5) (bitsAt w 15 5) (bitsAt w 12 3) (bitsAt w 6 6) (flagAt w 5) (flagAt w 4), reservedZero w [(0, 4)])

/-- Major 0x21 (R29, R30). -/
def decMajor21 (w : IWord) : RawDecode :=
  .ok (.loop (bitsAt w 20 5) (bitsAt w 6 6) (flagAt w 5) (flagAt w 4), reservedZero w [(0, 4), (12, 8)])

/-- Major 0x22 (R29, R30). -/
def decMajor22 (w : IWord) : RawDecode :=
  .ok (.jmp (bitsAt w 6 6) (flagAt w 4), reservedZero w [(0, 4), (5, 1), (12, 13)])

/-- Major 0x23 (R29, R30). -/
def decMajor23 (w : IWord) : RawDecode :=
  .ok (.next (bitsAt w 0 15), reservedZero w [(15, 10)])

/-- Major 0x24 (R29, R30). -/
def decMajor24 (w : IWord) : RawDecode :=
  .ok (.call (bitsAt w 20 5) (bitsAt w 0 15), reservedZero w [(15, 5)])

/-- Major 0x25 (R29, R30). -/
def decMajor25 (w : IWord) : RawDecode :=
  match w.toNat / 2 ^ 0 % 16 with
  | 0 => .ok (.ret (bitsAt w 15 5) (flagAt w 4), reservedZero w [(5, 10), (20, 5)])
  | 1 => .ok (.done, reservedZero w [(4, 21)])
  | 2 => .ok (.yield, reservedZero w [(4, 21)])
  | 3 => .ok (.tret, reservedZero w [(4, 21)])
  | 4 => .ok (.nop, reservedZero w [(4, 21)])
  | 5 => .ok (.trap (bitsAt w 5 10), reservedZero w [(4, 1), (15, 10)])
  | 6 => .ok (.barr (bitsAt w 10 5), reservedZero w [(4, 6), (15, 10)])
  | 7 => .ok (.evrd (bitsAt w 20 5) (bitsAt w 5 10), reservedZero w [(4, 1), (15, 5)])
  | _ => .error .undefinedFunction

/-- Major 0x26/0x27 (R29, R30). -/
def decMajor26 (w : IWord) : RawDecode :=
  match w.toNat / 2 ^ 12 % 4 with
  | 0 => .ok (.csrr (bitsAt w 20 5) (bitsAt w 0 12), reservedZero w [(14, 6), (25, 1)])
  | 1 => .ok (.csrw (flagAt w 25) (bitsAt w 15 5) (bitsAt w 0 12), reservedZero w [(14, 1), (20, 5)])
  | 2 => .ok (.csrx (flagAt w 25) (bitsAt w 20 5) (bitsAt w 15 5) (bitsAt w 0 12), reservedZero w [(14, 1)])
  | _ => .error .undefinedFunction

/-- Major 0x30/0x31 (R29, R30). -/
def decMajor30 (w : IWord) : RawDecode :=
  .ok (.ld (flagAt w 25) (bitsAt w 20 5) (bitsAt w 15 5) (bitsAt w 12 3) (bitsAt w 0 12), true)

/-- Major 0x32/0x33 (R29, R30). -/
def decMajor32 (w : IWord) : RawDecode :=
  match w.toNat / 2 ^ 14 % 2 with
  | 0 => .ok (.st (flagAt w 25) (bitsAt w 20 5) (bitsAt w 15 5) (bitsAt w 12 2) (bitsAt w 0 12), true)
  | _ => .error .undefinedFunction

/-- Major 0x34 (R29, R30). -/
def decMajor34 (w : IWord) : RawDecode :=
  match w.toNat / 2 ^ 0 % 16 with
  | 0 => .ok (.pin (bitsAt w 20 5) (bitsAt w 15 5), reservedZero w [(4, 11)])
  | 1 => .ok (.pout (bitsAt w 20 5) (bitsAt w 15 5) (flagAt w 4), reservedZero w [(5, 10)])
  | 2 => .ok (.poutc (bitsAt w 20 5) (bitsAt w 15 5) (bitsAt w 5 3) (flagAt w 4), reservedZero w [(8, 7)])
  | 3 => .ok (.pstat (bitsAt w 20 5) (bitsAt w 15 5), reservedZero w [(4, 11)])
  | 4 => .ok (.qstat (bitsAt w 20 5) (bitsAt w 15 5), reservedZero w [(4, 11)])
  | _ => .error .undefinedFunction

/-- Major 0x35 (R29, R30). -/
def decMajor35 (w : IWord) : RawDecode :=
  match w.toNat / 2 ^ 0 % 16 with
  | 0 => .ok (.feClr (bitsAt w 20 5), reservedZero w [(4, 16)])
  | 1 => .ok (.feSet (bitsAt w 20 5), reservedZero w [(4, 16)])
  | 2 => .ok (.feTst (bitsAt w 20 5) (bitsAt w 15 5), reservedZero w [(4, 11)])
  | _ => .error .undefinedFunction

/-- Major 0x40 (R29, R30). -/
def decMajor40 (w : IWord) : RawDecode :=
  match w.toNat / 2 ^ 0 % 16 with
  | 0 => .ok (.sndCurd (bitsAt w 20 5) (bitsAt w 15 5) (bitsAt w 10 5) (flagAt w 4), reservedZero w [(5, 5)])
  | _ => .error .undefinedFunction

/-- Major 0x41 (R29, R30). -/
def decMajor41 (w : IWord) : RawDecode :=
  match w.toNat / 2 ^ 0 % 16 with
  | 0 => .ok (.rplWhey (bitsAt w 15 5) (bitsAt w 10 5) (flagAt w 4), reservedZero w [(5, 5), (20, 5)])
  | _ => .error .undefinedFunction

/-- Major 0x42 (R29, R30). -/
def decMajor42 (w : IWord) : RawDecode :=
  match w.toNat / 2 ^ 3 % 2 with
  | 0 => .ok (.fld (bitsAt w 20 5) (bitsAt w 15 5) (bitsAt w 10 5) (flagAt w 4) (bitsAt w 0 3), reservedZero w [(5, 5)])
  | _ => .error .undefinedFunction

/-- Major 0x43 (R29, R30). -/
def decMajor43 (w : IWord) : RawDecode :=
  match w.toNat / 2 ^ 2 % 4 with
  | 0 => .ok (.fst (bitsAt w 20 5) (bitsAt w 15 5) (bitsAt w 10 5) (flagAt w 4) (bitsAt w 0 2), reservedZero w [(5, 5)])
  | _ => .error .undefinedFunction

/-- Major 0x44 (R29, R30). -/
def decMajor44 (w : IWord) : RawDecode :=
  match w.toNat / 2 ^ 0 % 16 with
  | 0 => .ok (.fstbN4 (bitsAt w 20 5) (bitsAt w 15 5) (bitsAt w 10 5) (flagAt w 4), reservedZero w [(5, 5)])
  | 1 => .ok (.fstbN2 (bitsAt w 20 5) (bitsAt w 15 5) (bitsAt w 10 5) (flagAt w 4), reservedZero w [(5, 5)])
  | _ => .error .undefinedFunction

/-- Major 0x45 (R29, R30). -/
def decMajor45 (w : IWord) : RawDecode :=
  match w.toNat / 2 ^ 0 % 16 with
  | 0 => .ok (.amoAdd (bitsAt w 20 5) (bitsAt w 15 5) (bitsAt w 10 5) (flagAt w 4), reservedZero w [(5, 5)])
  | 1 => .ok (.amoAnd (bitsAt w 20 5) (bitsAt w 15 5) (bitsAt w 10 5) (flagAt w 4), reservedZero w [(5, 5)])
  | 2 => .ok (.amoOr (bitsAt w 20 5) (bitsAt w 15 5) (bitsAt w 10 5) (flagAt w 4), reservedZero w [(5, 5)])
  | 3 => .ok (.amoXor (bitsAt w 20 5) (bitsAt w 15 5) (bitsAt w 10 5) (flagAt w 4), reservedZero w [(5, 5)])
  | 4 => .ok (.amoMin (bitsAt w 20 5) (bitsAt w 15 5) (bitsAt w 10 5) (flagAt w 4), reservedZero w [(5, 5)])
  | 5 => .ok (.amoMax (bitsAt w 20 5) (bitsAt w 15 5) (bitsAt w 10 5) (flagAt w 4), reservedZero w [(5, 5)])
  | 6 => .ok (.amoMinu (bitsAt w 20 5) (bitsAt w 15 5) (bitsAt w 10 5) (flagAt w 4), reservedZero w [(5, 5)])
  | 7 => .ok (.amoMaxu (bitsAt w 20 5) (bitsAt w 15 5) (bitsAt w 10 5) (flagAt w 4), reservedZero w [(5, 5)])
  | 8 => .ok (.amoSwap (bitsAt w 20 5) (bitsAt w 15 5) (bitsAt w 10 5) (flagAt w 4), reservedZero w [(5, 5)])
  | 9 => .ok (.amoCas (bitsAt w 20 5) (bitsAt w 15 5) (bitsAt w 10 5) (bitsAt w 5 5) (flagAt w 4), true)
  | 10 => .ok (.amoFaddF32 (bitsAt w 20 5) (bitsAt w 15 5) (bitsAt w 10 5) (flagAt w 4), reservedZero w [(5, 5)])
  | 11 => .ok (.amoFaddBf16 (bitsAt w 20 5) (bitsAt w 15 5) (bitsAt w 10 5) (flagAt w 4), reservedZero w [(5, 5)])
  | _ => .error .undefinedFunction

/-- Major 0x46 (R29, R30). -/
def decMajor46 (w : IWord) : RawDecode :=
  match w.toNat / 2 ^ 0 % 16 with
  | 0 => .ok (.ocall (bitsAt w 20 5) (bitsAt w 15 5) (bitsAt w 10 5) (flagAt w 4), reservedZero w [(5, 5)])
  | _ => .error .undefinedFunction

/-- Major 0x47 (R29, R30). -/
def decMajor47 (w : IWord) : RawDecode :=
  match w.toNat / 2 ^ 0 % 16 with
  | 0 => .ok (.mcast (bitsAt w 15 5) (bitsAt w 10 5) (flagAt w 4), reservedZero w [(5, 5), (20, 5)])
  | _ => .error .undefinedFunction

/-- Major 0x48 (R29, R30). -/
def decMajor48 (w : IWord) : RawDecode :=
  match w.toNat / 2 ^ 0 % 16 with
  | 0 => .ok (.chase (bitsAt w 20 5) (bitsAt w 15 5) (bitsAt w 10 5) (flagAt w 4), reservedZero w [(5, 5)])
  | _ => .error .undefinedFunction

/-- Major 0x49 (R29, R30). -/
def decMajor49 (w : IWord) : RawDecode :=
  match w.toNat / 2 ^ 3 % 2 with
  | 0 => .ok (.fenceAcc (bitsAt w 20 5) (bitsAt w 0 3), reservedZero w [(4, 16)])
  | 1 => .ok (.fenceVis (bitsAt w 20 5) (bitsAt w 0 3), reservedZero w [(4, 16)])
  | _ => .error .undefinedFunction

/-- Major 0x50 (R29, R30). -/
def decMajor50 (w : IWord) : RawDecode :=
  match w.toNat / 2 ^ 0 % 32 with
  | 0 => .ok (.vadd (bitsAt w 20 5) (bitsAt w 15 5) (bitsAt w 10 5) (bitsAt w 7 3) (flagAt w 6), reservedZero w [(5, 1)])
  | 1 => .ok (.vsub (bitsAt w 20 5) (bitsAt w 15 5) (bitsAt w 10 5) (bitsAt w 7 3) (flagAt w 6), reservedZero w [(5, 1)])
  | 2 => .ok (.vmul (bitsAt w 20 5) (bitsAt w 15 5) (bitsAt w 10 5) (bitsAt w 7 3) (flagAt w 6), reservedZero w [(5, 1)])
  | 3 => .ok (.vmulh (bitsAt w 20 5) (bitsAt w 15 5) (bitsAt w 10 5) (bitsAt w 7 3) (flagAt w 6), reservedZero w [(5, 1)])
  | 4 => .ok (.vmin (bitsAt w 20 5) (bitsAt w 15 5) (bitsAt w 10 5) (bitsAt w 7 3) (flagAt w 6), reservedZero w [(5, 1)])
  | 5 => .ok (.vmax (bitsAt w 20 5) (bitsAt w 15 5) (bitsAt w 10 5) (bitsAt w 7 3) (flagAt w 6), reservedZero w [(5, 1)])
  | 6 => .ok (.vminu (bitsAt w 20 5) (bitsAt w 15 5) (bitsAt w 10 5) (bitsAt w 7 3) (flagAt w 6), reservedZero w [(5, 1)])
  | 7 => .ok (.vmaxu (bitsAt w 20 5) (bitsAt w 15 5) (bitsAt w 10 5) (bitsAt w 7 3) (flagAt w 6), reservedZero w [(5, 1)])
  | 8 => .ok (.vabs (bitsAt w 20 5) (bitsAt w 15 5) (bitsAt w 7 3) (flagAt w 6), reservedZero w [(5, 1), (10, 5)])
  | 9 => .ok (.vneg (bitsAt w 20 5) (bitsAt w 15 5) (bitsAt w 7 3) (flagAt w 6), reservedZero w [(5, 1), (10, 5)])
  | 10 => .ok (.vsll (bitsAt w 20 5) (bitsAt w 15 5) (bitsAt w 10 5) (bitsAt w 7 3) (flagAt w 6), reservedZero w [(5, 1)])
  | 11 => .ok (.vsrl (bitsAt w 20 5) (bitsAt w 15 5) (bitsAt w 10 5) (bitsAt w 7 3) (flagAt w 6), reservedZero w [(5, 1)])
  | 12 => .ok (.vsra (bitsAt w 20 5) (bitsAt w 15 5) (bitsAt w 10 5) (bitsAt w 7 3) (flagAt w 6), reservedZero w [(5, 1)])
  | 13 => .ok (.vadds (bitsAt w 20 5) (bitsAt w 15 5) (bitsAt w 10 5) (bitsAt w 7 3) (flagAt w 6), reservedZero w [(5, 1)])
  | 14 => .ok (.vsubs (bitsAt w 20 5) (bitsAt w 15 5) (bitsAt w 10 5) (bitsAt w 7 3) (flagAt w 6), reservedZero w [(5, 1)])
  | _ => .error .undefinedFunction

/-- Major 0x51 (R29, R30). -/
def decMajor51 (w : IWord) : RawDecode :=
  match w.toNat / 2 ^ 0 % 32 with
  | 0 => .ok (.vfadd (bitsAt w 20 5) (bitsAt w 15 5) (bitsAt w 10 5) (bitsAt w 7 3) (flagAt w 6), reservedZero w [(5, 1)])
  | 1 => .ok (.vfsub (bitsAt w 20 5) (bitsAt w 15 5) (bitsAt w 10 5) (bitsAt w 7 3) (flagAt w 6), reservedZero w [(5, 1)])
  | 2 => .ok (.vfmul (bitsAt w 20 5) (bitsAt w 15 5) (bitsAt w 10 5) (bitsAt w 7 3) (flagAt w 6), reservedZero w [(5, 1)])
  | 3 => .ok (.vfma (bitsAt w 20 5) (bitsAt w 15 5) (bitsAt w 10 5) (bitsAt w 7 3) (flagAt w 6), reservedZero w [(5, 1)])
  | 4 => .ok (.vfmin (bitsAt w 20 5) (bitsAt w 15 5) (bitsAt w 10 5) (bitsAt w 7 3) (flagAt w 6), reservedZero w [(5, 1)])
  | 5 => .ok (.vfmax (bitsAt w 20 5) (bitsAt w 15 5) (bitsAt w 10 5) (bitsAt w 7 3) (flagAt w 6), reservedZero w [(5, 1)])
  | 6 => .ok (.vfabs (bitsAt w 20 5) (bitsAt w 15 5) (bitsAt w 7 3) (flagAt w 6), reservedZero w [(5, 1), (10, 5)])
  | 7 => .ok (.vfneg (bitsAt w 20 5) (bitsAt w 15 5) (bitsAt w 7 3) (flagAt w 6), reservedZero w [(5, 1), (10, 5)])
  | _ => .error .undefinedFunction

/-- Major 0x52 (R29, R30). -/
def decMajor52 (w : IWord) : RawDecode :=
  match w.toNat / 2 ^ 0 % 32 with
  | 0 => .ok (.vand (bitsAt w 20 5) (bitsAt w 15 5) (bitsAt w 10 5) (bitsAt w 7 3) (flagAt w 6), reservedZero w [(5, 1)])
  | 1 => .ok (.vor (bitsAt w 20 5) (bitsAt w 15 5) (bitsAt w 10 5) (bitsAt w 7 3) (flagAt w 6), reservedZero w [(5, 1)])
  | 2 => .ok (.vxor (bitsAt w 20 5) (bitsAt w 15 5) (bitsAt w 10 5) (bitsAt w 7 3) (flagAt w 6), reservedZero w [(5, 1)])
  | 3 => .ok (.vandn (bitsAt w 20 5) (bitsAt w 15 5) (bitsAt w 10 5) (bitsAt w 7 3) (flagAt w 6), reservedZero w [(5, 1)])
  | 4 => .ok (.vnot (bitsAt w 20 5) (bitsAt w 15 5) (bitsAt w 7 3) (flagAt w 6), reservedZero w [(5, 1), (10, 5)])
  | 5 => .ok (.vmov (bitsAt w 20 5) (bitsAt w 15 5) (bitsAt w 7 3) (flagAt w 6), reservedZero w [(5, 1), (10, 5)])
  | _ => .error .undefinedFunction

/-- Major 0x53 (R29, R30). -/
def decMajor53 (w : IWord) : RawDecode :=
  match w.toNat / 2 ^ 0 % 32 with
  | 0 => .ok (.vcmpEq (bitsAt w 20 5) (bitsAt w 15 5) (bitsAt w 10 5) (bitsAt w 7 3) (flagAt w 6), reservedZero w [(5, 1)])
  | 1 => .ok (.vcmpNe (bitsAt w 20 5) (bitsAt w 15 5) (bitsAt w 10 5) (bitsAt w 7 3) (flagAt w 6), reservedZero w [(5, 1)])
  | 2 => .ok (.vcmpLt (bitsAt w 20 5) (bitsAt w 15 5) (bitsAt w 10 5) (bitsAt w 7 3) (flagAt w 6), reservedZero w [(5, 1)])
  | 3 => .ok (.vcmpLe (bitsAt w 20 5) (bitsAt w 15 5) (bitsAt w 10 5) (bitsAt w 7 3) (flagAt w 6), reservedZero w [(5, 1)])
  | 4 => .ok (.vcmpLtu (bitsAt w 20 5) (bitsAt w 15 5) (bitsAt w 10 5) (bitsAt w 7 3) (flagAt w 6), reservedZero w [(5, 1)])
  | 5 => .ok (.vcmpLeu (bitsAt w 20 5) (bitsAt w 15 5) (bitsAt w 10 5) (bitsAt w 7 3) (flagAt w 6), reservedZero w [(5, 1)])
  | 6 => .ok (.vfcmpEq (bitsAt w 20 5) (bitsAt w 15 5) (bitsAt w 10 5) (bitsAt w 7 3) (flagAt w 6), reservedZero w [(5, 1)])
  | 7 => .ok (.vfcmpLt (bitsAt w 20 5) (bitsAt w 15 5) (bitsAt w 10 5) (bitsAt w 7 3) (flagAt w 6), reservedZero w [(5, 1)])
  | 8 => .ok (.vfcmpLe (bitsAt w 20 5) (bitsAt w 15 5) (bitsAt w 10 5) (bitsAt w 7 3) (flagAt w 6), reservedZero w [(5, 1)])
  | 9 => .ok (.vfcmpUn (bitsAt w 20 5) (bitsAt w 15 5) (bitsAt w 10 5) (bitsAt w 7 3) (flagAt w 6), reservedZero w [(5, 1)])
  | _ => .error .undefinedFunction

/-- Major 0x54 (R29, R30). -/
def decMajor54 (w : IWord) : RawDecode :=
  match w.toNat / 2 ^ 0 % 32 with
  | 0 => .ok (.vsel (bitsAt w 20 5) (bitsAt w 15 5) (bitsAt w 10 5) (bitsAt w 7 3), reservedZero w [(5, 2)])
  | 1 => .ok (.vrot (bitsAt w 20 5) (bitsAt w 15 5) (bitsAt w 10 5) (bitsAt w 7 3) (flagAt w 6), reservedZero w [(5, 1)])
  | 2 => .ok (.vshup (bitsAt w 20 5) (bitsAt w 15 5) (bitsAt w 10 5) (bitsAt w 7 3) (flagAt w 6), reservedZero w [(5, 1)])
  | 3 => .ok (.vshdn (bitsAt w 20 5) (bitsAt w 15 5) (bitsAt w 10 5) (bitsAt w 7 3) (flagAt w 6), reservedZero w [(5, 1)])
  | 4 => .ok (.vbcast (bitsAt w 20 5) (bitsAt w 15 5) (bitsAt w 7 3) (flagAt w 6) (flagAt w 5), reservedZero w [(10, 5)])
  | 5 => .ok (.vmvSV (bitsAt w 20 5) (bitsAt w 15 5) (bitsAt w 10 5), reservedZero w [(5, 5)])
  | 6 => .ok (.vmvVS (bitsAt w 20 5) (bitsAt w 15 5) (bitsAt w 10 5) (flagAt w 5), reservedZero w [(6, 4)])
  | _ => .error .undefinedFunction

/-- Major 0x55 (R29, R30). -/
def decMajor55 (w : IWord) : RawDecode :=
  match w.toNat / 2 ^ 0 % 32 with
  | 0 => .ok (.vredAdd (bitsAt w 20 5) (bitsAt w 15 5) (bitsAt w 7 3), reservedZero w [(5, 2), (10, 5)])
  | 1 => .ok (.vredFadd (bitsAt w 20 5) (bitsAt w 15 5) (bitsAt w 7 3), reservedZero w [(5, 2), (10, 5)])
  | 2 => .ok (.vredMax (bitsAt w 20 5) (bitsAt w 15 5) (bitsAt w 7 3), reservedZero w [(5, 2), (10, 5)])
  | 3 => .ok (.vredMin (bitsAt w 20 5) (bitsAt w 15 5) (bitsAt w 7 3), reservedZero w [(5, 2), (10, 5)])
  | 4 => .ok (.vredFmax (bitsAt w 20 5) (bitsAt w 15 5) (bitsAt w 7 3), reservedZero w [(5, 2), (10, 5)])
  | 5 => .ok (.vscanAdd (bitsAt w 20 5) (bitsAt w 15 5) (bitsAt w 7 3) (flagAt w 6), reservedZero w [(5, 1), (10, 5)])
  | 6 => .ok (.vscanFadd (bitsAt w 20 5) (bitsAt w 15 5) (bitsAt w 7 3) (flagAt w 6), reservedZero w [(5, 1), (10, 5)])
  | _ => .error .undefinedFunction

/-- Major 0x56 (R29, R30). -/
def decMajor56 (w : IWord) : RawDecode :=
  match w.toNat / 2 ^ 0 % 32 with
  | 0 => .ok (.vld (bitsAt w 20 5) (bitsAt w 15 5) (bitsAt w 10 5) (bitsAt w 7 3) (flagAt w 6) (flagAt w 5), true)
  | 1 => .ok (.vst (bitsAt w 20 5) (bitsAt w 15 5) (bitsAt w 10 5) (bitsAt w 7 3) (flagAt w 5), reservedZero w [(6, 1)])
  | 2 => .ok (.vgat (bitsAt w 20 5) (bitsAt w 15 5) (bitsAt w 10 5) (bitsAt w 7 3) (flagAt w 6) (flagAt w 5), true)
  | 3 => .ok (.vsct (bitsAt w 20 5) (bitsAt w 15 5) (bitsAt w 10 5) (bitsAt w 7 3) (flagAt w 5), reservedZero w [(6, 1)])
  | _ => .error .undefinedFunction

/-- Major 0x57 (R29, R30). -/
def decMajor57 (w : IWord) : RawDecode :=
  match w.toNat / 2 ^ 0 % 32 with
  | 0 => .ok (.vcvt (bitsAt w 20 5) (bitsAt w 15 5) (bitsAt w 10 5) (bitsAt w 7 3) (flagAt w 6), reservedZero w [(5, 1)])
  | 1 => .ok (.vscvt (bitsAt w 20 5) (bitsAt w 15 5) (bitsAt w 10 5) (bitsAt w 7 3) (flagAt w 6), reservedZero w [(5, 1)])
  | 2 => .ok (.vpack (bitsAt w 20 5) (bitsAt w 15 5) (bitsAt w 10 5), reservedZero w [(5, 5)])
  | 3 => .ok (.vunpk (bitsAt w 20 5) (bitsAt w 15 5) (bitsAt w 10 5), reservedZero w [(5, 5)])
  | _ => .error .undefinedFunction

/-- Major 0x58 (R29, R30). -/
def decMajor58 (w : IWord) : RawDecode :=
  match w.toNat / 2 ^ 0 % 32 with
  | 0 => .ok (.kand (bitsAt w 20 5) (bitsAt w 15 5) (bitsAt w 10 5), reservedZero w [(5, 5)])
  | 1 => .ok (.kor (bitsAt w 20 5) (bitsAt w 15 5) (bitsAt w 10 5), reservedZero w [(5, 5)])
  | 2 => .ok (.kxor (bitsAt w 20 5) (bitsAt w 15 5) (bitsAt w 10 5), reservedZero w [(5, 5)])
  | 3 => .ok (.knot (bitsAt w 20 5) (bitsAt w 15 5), reservedZero w [(5, 10)])
  | 4 => .ok (.kmov (bitsAt w 20 5) (bitsAt w 15 5), reservedZero w [(5, 10)])
  | 5 => .ok (.kpopc (bitsAt w 20 5) (bitsAt w 15 5), reservedZero w [(5, 10)])
  | 6 => .ok (.kfrom (bitsAt w 20 5) (bitsAt w 15 5) (flagAt w 5), reservedZero w [(6, 9)])
  | _ => .error .undefinedFunction

/-- Major 0x59 (R29, R30). -/
def decMajor59 (w : IWord) : RawDecode :=
  match w.toNat / 2 ^ 0 % 32 with
  | 0 => .ok (.vcfg (bitsAt w 20 5) (bitsAt w 15 5) (flagAt w 5), reservedZero w [(6, 9)])
  | 1 => .ok (.vrun (bitsAt w 10 5) (bitsAt w 7 3) (flagAt w 6), reservedZero w [(5, 1), (15, 10)])
  | 2 => .ok (.vpark (bitsAt w 20 5) (bitsAt w 15 5) (bitsAt w 7 3) (flagAt w 5), reservedZero w [(6, 1), (10, 5)])
  | 3 => .ok (.vunpark (bitsAt w 20 5) (bitsAt w 15 5) (bitsAt w 7 3) (flagAt w 6) (flagAt w 5), reservedZero w [(10, 5)])
  | _ => .error .undefinedFunction

/-- Major 0x60 (R29, R30). -/
def decMajor60 (w : IWord) : RawDecode :=
  match w.toNat / 2 ^ 0 % 16 with
  | 0 => .ok (.tshp (bitsAt w 20 5) (bitsAt w 15 5) (flagAt w 4), reservedZero w [(5, 10)])
  | 1 => .ok (.tclr (bitsAt w 20 5), reservedZero w [(4, 16)])
  | 2 => .ok (.tsave (bitsAt w 20 5), reservedZero w [(4, 16)])
  | 3 => .ok (.trest (bitsAt w 20 5), reservedZero w [(4, 16)])
  | 4 => .ok (.pstatus (bitsAt w 20 5), reservedZero w [(4, 16)])
  | 5 => .ok (.arst (bitsAt w 20 5), reservedZero w [(4, 16)])
  | _ => .error .undefinedFunction

/-- Major 0x61 (R29, R30). -/
def decMajor61 (w : IWord) : RawDecode :=
  match w.toNat / 2 ^ 0 % 16 with
  | 0 => .ok (.mcfg (bitsAt w 15 5) (flagAt w 4), reservedZero w [(5, 10), (20, 5)])
  | _ => .error .undefinedFunction

/-- Major 0x62 (R29, R30). -/
def decMajor62 (w : IWord) : RawDecode :=
  match w.toNat / 2 ^ 0 % 16 with
  | 0 => .ok (.plda (bitsAt w 15 5), reservedZero w [(4, 11), (20, 5)])
  | 1 => .ok (.pldb (bitsAt w 15 5), reservedZero w [(4, 11), (20, 5)])
  | _ => .error .undefinedFunction

/-- Major 0x63 (R29, R30). -/
def decMajor63 (w : IWord) : RawDecode :=
  match w.toNat / 2 ^ 0 % 16 with
  | 0 => .ok (.pmm (bitsAt w 20 5) (bitsAt w 15 5) (bitsAt w 10 5) (bitsAt w 5 5) (flagAt w 4), true)
  | 1 => .ok (.tnorm (bitsAt w 20 5) (bitsAt w 15 5) (bitsAt w 10 5) (flagAt w 5), reservedZero w [(4, 1), (6, 4)])
  | _ => .error .undefinedFunction

/-- Major 0x64 (R29, R30). -/
def decMajor64 (w : IWord) : RawDecode :=
  match w.toNat / 2 ^ 0 % 16 with
  | 0 => .ok (.trowRd (bitsAt w 20 5) (bitsAt w 15 5) (bitsAt w 10 5) (flagAt w 4), reservedZero w [(5, 5)])
  | 1 => .ok (.trowWr (bitsAt w 20 5) (bitsAt w 15 5) (bitsAt w 10 5) (flagAt w 4), reservedZero w [(5, 5)])
  | 2 => .ok (.tcolRd (bitsAt w 20 5) (bitsAt w 15 5) (bitsAt w 10 5) (flagAt w 4), reservedZero w [(5, 5)])
  | 3 => .ok (.tcolWr (bitsAt w 20 5) (bitsAt w 15 5) (bitsAt w 10 5) (flagAt w 4), reservedZero w [(5, 5)])
  | _ => .error .undefinedFunction

/-- Major 0x65 (R29, R30). -/
def decMajor65 (w : IWord) : RawDecode :=
  match w.toNat / 2 ^ 0 % 16 with
  | 0 => .ok (.tld (bitsAt w 20 5) (bitsAt w 15 5) (bitsAt w 10 5) (flagAt w 4), reservedZero w [(5, 5)])
  | 1 => .ok (.tst (bitsAt w 20 5) (bitsAt w 15 5) (bitsAt w 10 5) (flagAt w 4), reservedZero w [(5, 5)])
  | _ => .error .undefinedFunction

/-- Major 0x68 (R29, R30). -/
def decMajor68 (w : IWord) : RawDecode :=
  match w.toNat / 2 ^ 0 % 16 with
  | 0 => .ok (.sopen (bitsAt w 20 5) (bitsAt w 15 5) (flagAt w 4), reservedZero w [(5, 10)])
  | 1 => .ok (.sgo (bitsAt w 20 5) (bitsAt w 15 5), reservedZero w [(4, 11)])
  | 2 => .ok (.sstop (bitsAt w 20 5), reservedZero w [(4, 16)])
  | 3 => .ok (.sstat (bitsAt w 20 5) (bitsAt w 15 5), reservedZero w [(4, 11)])
  | 4 => .ok (.sparm (bitsAt w 20 5) (bitsAt w 15 5) (flagAt w 4), reservedZero w [(5, 10)])
  | _ => .error .undefinedFunction

/-- Major 0x69 (R29, R30). -/
def decMajor69 (w : IWord) : RawDecode :=
  match w.toNat / 2 ^ 0 % 16 with
  | 0 => .ok (.xcopy (bitsAt w 20 5) (bitsAt w 15 5) (bitsAt w 10 5) (flagAt w 4), reservedZero w [(5, 5)])
  | 1 => .ok (.xfill (bitsAt w 20 5) (bitsAt w 15 5) (bitsAt w 10 5) (flagAt w 4), reservedZero w [(5, 5)])
  | 2 => .ok (.xsplice (bitsAt w 20 5) (bitsAt w 15 5) (bitsAt w 10 5) (flagAt w 4), reservedZero w [(5, 5)])
  | _ => .error .undefinedFunction

/-- Major 0x70 (R29, R30). -/
def decMajor70 (w : IWord) : RawDecode :=
  match w.toNat / 2 ^ 0 % 16 with
  | 0 => .ok (.eadd (bitsAt w 20 5) (bitsAt w 15 5) (bitsAt w 10 5), reservedZero w [(4, 6)])
  | 1 => .ok (.esub (bitsAt w 20 5) (bitsAt w 15 5) (bitsAt w 10 5), reservedZero w [(4, 6)])
  | 2 => .ok (.emul (bitsAt w 20 5) (bitsAt w 15 5) (bitsAt w 10 5), reservedZero w [(4, 6)])
  | 3 => .ok (.efma (bitsAt w 20 5) (bitsAt w 15 5) (bitsAt w 10 5) (bitsAt w 5 5), reservedZero w [(4, 1)])
  | 4 => .ok (.ediv (bitsAt w 20 5) (bitsAt w 15 5) (bitsAt w 10 5), reservedZero w [(4, 6)])
  | 5 => .ok (.esqrt (bitsAt w 20 5) (bitsAt w 15 5), reservedZero w [(4, 11)])
  | 6 => .ok (.eneg (bitsAt w 20 5) (bitsAt w 15 5), reservedZero w [(4, 11)])
  | 7 => .ok (.eabs (bitsAt w 20 5) (bitsAt w 15 5), reservedZero w [(4, 11)])
  | 8 => .ok (.ecmp (bitsAt w 20 5) (bitsAt w 15 5) (bitsAt w 10 5), reservedZero w [(4, 6)])
  | 9 => .ok (.emov (bitsAt w 20 5) (bitsAt w 15 5), reservedZero w [(4, 11)])
  | 10 => .ok (.ernd (bitsAt w 20 5) (bitsAt w 15 5) (bitsAt w 5 10), reservedZero w [(4, 1)])
  | 11 => .ok (.elen (bitsAt w 20 5) (bitsAt w 15 5), reservedZero w [(4, 11)])
  | _ => .error .undefinedFunction

/-- Major 0x71 (R29, R30). -/
def decMajor71 (w : IWord) : RawDecode :=
  match w.toNat / 2 ^ 0 % 16 with
  | 0 => .ok (.ecvtEI (bitsAt w 20 5) (bitsAt w 15 5) (flagAt w 5) (flagAt w 4), reservedZero w [(6, 9)])
  | 1 => .ok (.ecvtEF (bitsAt w 20 5) (bitsAt w 15 5), reservedZero w [(4, 11)])
  | 2 => .ok (.ecvtED (bitsAt w 20 5) (bitsAt w 15 5) (flagAt w 4), reservedZero w [(5, 10)])
  | 3 => .ok (.ecvtIE (bitsAt w 20 5) (bitsAt w 15 5) (flagAt w 5), reservedZero w [(4, 1), (6, 9)])
  | 4 => .ok (.ecvtFE (bitsAt w 20 5) (bitsAt w 15 5), reservedZero w [(4, 11)])
  | 5 => .ok (.ecvtDE (bitsAt w 20 5) (bitsAt w 15 5), reservedZero w [(4, 11)])
  | _ => .error .undefinedFunction

/-- Major 0x72/0x73 (R29, R30). -/
def decMajor72 (w : IWord) : RawDecode :=
  .ok (.eprec (flagAt w 25) (bitsAt w 20 5) (bitsAt w 15 5) (bitsAt w 0 8), reservedZero w [(8, 7)])

/-- Major 0x74/0x75 (R29, R30). -/
def decMajor74 (w : IWord) : RawDecode :=
  match w.toNat / 2 ^ 13 % 4 with
  | 0 => .ok (.eld (flagAt w 25) (bitsAt w 20 5) (bitsAt w 15 5) (bitsAt w 0 8), reservedZero w [(8, 5)])
  | 1 => .ok (.est (flagAt w 25) (bitsAt w 20 5) (bitsAt w 15 5) (bitsAt w 8 5) (bitsAt w 0 8), true)
  | 2 => .ok (.eldInc (flagAt w 25) (bitsAt w 20 5) (bitsAt w 15 5) (bitsAt w 0 8), reservedZero w [(8, 5)])
  | 3 => .ok (.estInc (flagAt w 25) (bitsAt w 20 5) (bitsAt w 15 5) (bitsAt w 8 5) (bitsAt w 0 8), true)
  | _ => .error .undefinedFunction

/-- Major 0x78 (R29, R30). -/
def decMajor78 (w : IWord) : RawDecode :=
  .ok (.ext (bitsAt w 0 25), true)

/-- Major 0x79 (R29, R30). -/
def decMajor79 (w : IWord) : RawDecode :=
  .ok (.fmt (bitsAt w 20 5) (bitsAt w 15 5) (bitsAt w 10 5) (bitsAt w 7 3), reservedZero w [(0, 7)])

/-- Major 0x7A (R29, R30). -/
def decMajor7A (w : IWord) : RawDecode :=
  .ok (.scl (bitsAt w 20 5) (bitsAt w 10 10) (bitsAt w 8 2) (bitsAt w 3 5) (flagAt w 2), reservedZero w [(0, 2)])

/-- Major 0x7B (R29, R30). -/
def decMajor7B (w : IWord) : RawDecode :=
  .ok (.rnd (bitsAt w 22 3) (bitsAt w 20 2), reservedZero w [(0, 20)])

/-- The form that a word's major names (R29). -/
def decodeRaw (w : IWord) : RawDecode :=
  match w.toNat / 2 ^ 25 % 128 with
  | 0x00 => decMajor00 w
  | 0x01 => decMajor01 w
  | 0x02 => decMajor02 w
  | 0x03 => decMajor03 w
  | 0x04 | 0x05 => decMajor04 w
  | 0x06 | 0x07 => decMajor06 w
  | 0x08 | 0x09 => decMajor08 w
  | 0x0A | 0x0B => decMajor0A w
  | 0x0C | 0x0D => decMajor0C w
  | 0x0E | 0x0F => decMajor0E w
  | 0x10 | 0x11 => decMajor10 w
  | 0x12 => decMajor12 w
  | 0x13 => decMajor13 w
  | 0x14 => decMajor14 w
  | 0x20 => decMajor20 w
  | 0x21 => decMajor21 w
  | 0x22 => decMajor22 w
  | 0x23 => decMajor23 w
  | 0x24 => decMajor24 w
  | 0x25 => decMajor25 w
  | 0x26 | 0x27 => decMajor26 w
  | 0x30 | 0x31 => decMajor30 w
  | 0x32 | 0x33 => decMajor32 w
  | 0x34 => decMajor34 w
  | 0x35 => decMajor35 w
  | 0x40 => decMajor40 w
  | 0x41 => decMajor41 w
  | 0x42 => decMajor42 w
  | 0x43 => decMajor43 w
  | 0x44 => decMajor44 w
  | 0x45 => decMajor45 w
  | 0x46 => decMajor46 w
  | 0x47 => decMajor47 w
  | 0x48 => decMajor48 w
  | 0x49 => decMajor49 w
  | 0x50 => decMajor50 w
  | 0x51 => decMajor51 w
  | 0x52 => decMajor52 w
  | 0x53 => decMajor53 w
  | 0x54 => decMajor54 w
  | 0x55 => decMajor55 w
  | 0x56 => decMajor56 w
  | 0x57 => decMajor57 w
  | 0x58 => decMajor58 w
  | 0x59 => decMajor59 w
  | 0x60 => decMajor60 w
  | 0x61 => decMajor61 w
  | 0x62 => decMajor62 w
  | 0x63 => decMajor63 w
  | 0x64 => decMajor64 w
  | 0x65 => decMajor65 w
  | 0x68 => decMajor68 w
  | 0x69 => decMajor69 w
  | 0x70 => decMajor70 w
  | 0x71 => decMajor71 w
  | 0x72 | 0x73 => decMajor72 w
  | 0x74 | 0x75 => decMajor74 w
  | 0x78 => decMajor78 w
  | 0x79 => decMajor79 w
  | 0x7A => decMajor7A w
  | 0x7B => decMajor7B w
  | _ => .error .reservedMajor

/-- The instruction of a word, or the encoding fault that stands first in the table of R34. -/
def decodeWord (w : IWord) : Except DecodeError Instr :=
  if w = 0 then .error .allZero else
  match decodeRaw w with
  | .error e => .error e
  | .ok (i, resv) =>
    match fieldFault i with
    | some .undefinedFunction => .error .undefinedFunction
    | some e => if resv then .error e else .error .reservedField
    | none => if resv then .ok i else .error .reservedField

/-- The decoder over bytes: one little-endian word (R97), and the bytes after it. -/
def decode : List Byte → Option (Except DecodeError Instr × List Byte)
  | b0 :: b1 :: b2 :: b3 :: rest => some (decodeWord (b3 ++ b2 ++ b1 ++ b0), rest)
  | _ => none

/-- A word's fixed bits with each field's value added at its low bit. -/
def pack (fixed : Nat) : List (Nat × Nat) → Nat
  | [] => fixed
  | (x, lo) :: rest => x * 2 ^ lo + pack fixed rest

/-- The bits of a coded instruction's word, each field at its place in the table "Instruction formats" (R27); an
event has no word and answers 0, the all-zero word, which is no instruction. -/
def encodeNat : Instr → Nat
  | .add d a b w => pack 0x00000000 [(d.toNat, 20), (a.toNat, 15), (b.toNat, 10), (w.toNat, 4)]
  | .sub d a b w => pack 0x00000001 [(d.toNat, 20), (a.toNat, 15), (b.toNat, 10), (w.toNat, 4)]
  | .and d a b w => pack 0x00000002 [(d.toNat, 20), (a.toNat, 15), (b.toNat, 10), (w.toNat, 4)]
  | .or d a b w => pack 0x00000003 [(d.toNat, 20), (a.toNat, 15), (b.toNat, 10), (w.toNat, 4)]
  | .xor d a b w => pack 0x00000004 [(d.toNat, 20), (a.toNat, 15), (b.toNat, 10), (w.toNat, 4)]
  | .andn d a b w => pack 0x00000005 [(d.toNat, 20), (a.toNat, 15), (b.toNat, 10), (w.toNat, 4)]
  | .orn d a b w => pack 0x00000006 [(d.toNat, 20), (a.toNat, 15), (b.toNat, 10), (w.toNat, 4)]
  | .xnor d a b w => pack 0x00000007 [(d.toNat, 20), (a.toNat, 15), (b.toNat, 10), (w.toNat, 4)]
  | .sll d a b w => pack 0x00000008 [(d.toNat, 20), (a.toNat, 15), (b.toNat, 10), (w.toNat, 4)]
  | .srl d a b w => pack 0x00000009 [(d.toNat, 20), (a.toNat, 15), (b.toNat, 10), (w.toNat, 4)]
  | .sra d a b w => pack 0x0000000A [(d.toNat, 20), (a.toNat, 15), (b.toNat, 10), (w.toNat, 4)]
  | .rol d a b w => pack 0x0000000B [(d.toNat, 20), (a.toNat, 15), (b.toNat, 10), (w.toNat, 4)]
  | .ror d a b w => pack 0x0000000C [(d.toNat, 20), (a.toNat, 15), (b.toNat, 10), (w.toNat, 4)]
  | .mul d a b w => pack 0x02000000 [(d.toNat, 20), (a.toNat, 15), (b.toNat, 10), (w.toNat, 4)]
  | .mulpS d a b w => pack 0x02000001 [(d.toNat, 20), (a.toNat, 15), (b.toNat, 10), (w.toNat, 4)]
  | .mulpU d a b w => pack 0x02000002 [(d.toNat, 20), (a.toNat, 15), (b.toNat, 10), (w.toNat, 4)]
  | .mulpSu d a b w => pack 0x02000003 [(d.toNat, 20), (a.toNat, 15), (b.toNat, 10), (w.toNat, 4)]
  | .divqS d a b w => pack 0x02000004 [(d.toNat, 20), (a.toNat, 15), (b.toNat, 10), (w.toNat, 4)]
  | .divqU d a b w => pack 0x02000005 [(d.toNat, 20), (a.toNat, 15), (b.toNat, 10), (w.toNat, 4)]
  | .divqF d a b w => pack 0x02000006 [(d.toNat, 20), (a.toNat, 15), (b.toNat, 10), (w.toNat, 4)]
  | .min d a b w => pack 0x02000008 [(d.toNat, 20), (a.toNat, 15), (b.toNat, 10), (w.toNat, 4)]
  | .max d a b w => pack 0x02000009 [(d.toNat, 20), (a.toNat, 15), (b.toNat, 10), (w.toNat, 4)]
  | .minu d a b w => pack 0x0200000A [(d.toNat, 20), (a.toNat, 15), (b.toNat, 10), (w.toNat, 4)]
  | .maxu d a b w => pack 0x0200000B [(d.toNat, 20), (a.toNat, 15), (b.toNat, 10), (w.toNat, 4)]
  | .bfx d a b w => pack 0x04000000 [(d.toNat, 20), (a.toNat, 15), (b.toNat, 10), (w.toNat, 4)]
  | .bfxu d a b w => pack 0x04000001 [(d.toNat, 20), (a.toNat, 15), (b.toNat, 10), (w.toNat, 4)]
  | .bfi d a b w => pack 0x04000002 [(d.toNat, 20), (a.toNat, 15), (b.toNat, 10), (w.toNat, 4)]
  | .clz d a w => pack 0x04000003 [(d.toNat, 20), (a.toNat, 15), (w.toNat, 4)]
  | .ctz d a w => pack 0x04000004 [(d.toNat, 20), (a.toNat, 15), (w.toNat, 4)]
  | .popc d a w => pack 0x04000005 [(d.toNat, 20), (a.toNat, 15), (w.toNat, 4)]
  | .brev d a w => pack 0x04000006 [(d.toNat, 20), (a.toNat, 15), (w.toNat, 4)]
  | .bswap d a w => pack 0x04000007 [(d.toNat, 20), (a.toNat, 15), (w.toNat, 4)]
  | .seq d a b w => pack 0x06000000 [(d.toNat, 20), (a.toNat, 15), (b.toNat, 10), (w.toNat, 4)]
  | .sne d a b w => pack 0x06000001 [(d.toNat, 20), (a.toNat, 15), (b.toNat, 10), (w.toNat, 4)]
  | .slt d a b w => pack 0x06000002 [(d.toNat, 20), (a.toNat, 15), (b.toNat, 10), (w.toNat, 4)]
  | .sge d a b w => pack 0x06000003 [(d.toNat, 20), (a.toNat, 15), (b.toNat, 10), (w.toNat, 4)]
  | .sltu d a b w => pack 0x06000004 [(d.toNat, 20), (a.toNat, 15), (b.toNat, 10), (w.toNat, 4)]
  | .sgeu d a b w => pack 0x06000005 [(d.toNat, 20), (a.toNat, 15), (b.toNat, 10), (w.toNat, 4)]
  | .sel d a b c w => pack 0x06000008 [(d.toNat, 20), (a.toNat, 15), (b.toNat, 10), (c.toNat, 5), (w.toNat, 4)]
  | .addi w d a i => pack 0x08000000 [(w.toNat, 25), (d.toNat, 20), (a.toNat, 15), (i.toNat, 0)]
  | .andi w d a i => pack 0x0C000000 [(w.toNat, 25), (d.toNat, 20), (a.toNat, 15), (i.toNat, 0)]
  | .ori w d a i => pack 0x10000000 [(w.toNat, 25), (d.toNat, 20), (a.toNat, 15), (i.toNat, 0)]
  | .xori w d a i => pack 0x14000000 [(w.toNat, 25), (d.toNat, 20), (a.toNat, 15), (i.toNat, 0)]
  | .slli w d a s => pack 0x18000000 [(w.toNat, 25), (d.toNat, 20), (a.toNat, 15), (s.toNat, 0)]
  | .srli w d a s => pack 0x18002000 [(w.toNat, 25), (d.toNat, 20), (a.toNat, 15), (s.toNat, 0)]
  | .srai w d a s => pack 0x18004000 [(w.toNat, 25), (d.toNat, 20), (a.toNat, 15), (s.toNat, 0)]
  | .slti w d a i => pack 0x1C000000 [(w.toNat, 25), (d.toNat, 20), (a.toNat, 15), (i.toNat, 0)]
  | .sltiu w d a i => pack 0x20000000 [(w.toNat, 25), (d.toNat, 20), (a.toNat, 15), (i.toNat, 0)]
  | .li d i => pack 0x24000000 [(d.toNat, 20), (i.toNat, 0)]
  | .liu d i => pack 0x26000000 [(d.toNat, 20), (i.toNat, 0)]
  | .fadd d a b => pack 0x28000000 [(d.toNat, 20), (a.toNat, 15), (b.toNat, 10)]
  | .fsub d a b => pack 0x28000001 [(d.toNat, 20), (a.toNat, 15), (b.toNat, 10)]
  | .fmul d a b => pack 0x28000002 [(d.toNat, 20), (a.toNat, 15), (b.toNat, 10)]
  | .ffma d a b c => pack 0x28000003 [(d.toNat, 20), (a.toNat, 15), (b.toNat, 10), (c.toNat, 5)]
  | .fmin d a b => pack 0x28000004 [(d.toNat, 20), (a.toNat, 15), (b.toNat, 10)]
  | .fmax d a b => pack 0x28000005 [(d.toNat, 20), (a.toNat, 15), (b.toNat, 10)]
  | .fneg d a => pack 0x28000006 [(d.toNat, 20), (a.toNat, 15)]
  | .fabs d a => pack 0x28000007 [(d.toNat, 20), (a.toNat, 15)]
  | .fmov d a => pack 0x28000008 [(d.toNat, 20), (a.toNat, 15)]
  | .fcvtSF d a => pack 0x28000009 [(d.toNat, 20), (a.toNat, 15)]
  | .fcvtFS d a w => pack 0x2800000A [(d.toNat, 20), (a.toNat, 15), (w.toNat, 4)]
  | .feq d a b => pack 0x2800000B [(d.toNat, 20), (a.toNat, 15), (b.toNat, 10)]
  | .flt d a b => pack 0x2800000C [(d.toNat, 20), (a.toNat, 15), (b.toNat, 10)]
  | .fle d a b => pack 0x2800000D [(d.toNat, 20), (a.toNat, 15), (b.toNat, 10)]
  | .fmvSF d a => pack 0x2800000E [(d.toNat, 20), (a.toNat, 15)]
  | .fmvFS d a w => pack 0x2800000F [(d.toNat, 20), (a.toNat, 15), (w.toNat, 4)]
  | .bCond a b c t w p => pack 0x40000000 [(a.toNat, 20), (b.toNat, 15), (c.toNat, 12), (t.toNat, 6), (w.toNat, 5), (p.toNat, 4)]
  | .loop a t w p => pack 0x42000000 [(a.toNat, 20), (t.toNat, 6), (w.toNat, 5), (p.toNat, 4)]
  | .jmp t p => pack 0x44000000 [(t.toNat, 6), (p.toNat, 4)]
  | .next h => pack 0x46000000 [(h.toNat, 0)]
  | .call d h => pack 0x48000000 [(d.toNat, 20), (h.toNat, 0)]
  | .ret a w => pack 0x4A000000 [(a.toNat, 15), (w.toNat, 4)]
  | .done => pack 0x4A000001 []
  | .yield => pack 0x4A000002 []
  | .tret => pack 0x4A000003 []
  | .nop => pack 0x4A000004 []
  | .trap n => pack 0x4A000005 [(n.toNat, 5)]
  | .barr b => pack 0x4A000006 [(b.toNat, 10)]
  | .evrd d n => pack 0x4A000007 [(d.toNat, 20), (n.toNat, 5)]
  | .csrr d n => pack 0x4C000000 [(d.toNat, 20), (n.toNat, 0)]
  | .csrw w a n => pack 0x4C001000 [(w.toNat, 25), (a.toNat, 15), (n.toNat, 0)]
  | .csrx w d a n => pack 0x4C002000 [(w.toNat, 25), (d.toNat, 20), (a.toNat, 15), (n.toNat, 0)]
  | .ld w d a z o => pack 0x60000000 [(w.toNat, 25), (d.toNat, 20), (a.toNat, 15), (z.toNat, 12), (o.toNat, 0)]
  | .st w d a z o => pack 0x64000000 [(w.toNat, 25), (d.toNat, 20), (a.toNat, 15), (z.toNat, 12), (o.toNat, 0)]
  | .pin d p => pack 0x68000000 [(d.toNat, 20), (p.toNat, 15)]
  | .pout q a w => pack 0x68000001 [(q.toNat, 20), (a.toNat, 15), (w.toNat, 4)]
  | .poutc q a k w => pack 0x68000002 [(q.toNat, 20), (a.toNat, 15), (k.toNat, 5), (w.toNat, 4)]
  | .pstat d p => pack 0x68000003 [(d.toNat, 20), (p.toNat, 15)]
  | .qstat d p => pack 0x68000004 [(d.toNat, 20), (p.toNat, 15)]
  | .feClr d => pack 0x6A000000 [(d.toNat, 20)]
  | .feSet d => pack 0x6A000001 [(d.toNat, 20)]
  | .feTst d a => pack 0x6A000002 [(d.toNat, 20), (a.toNat, 15)]
  | .sndCurd d a b w => pack 0x80000000 [(d.toNat, 20), (a.toNat, 15), (b.toNat, 10), (w.toNat, 4)]
  | .rplWhey a b w => pack 0x82000000 [(a.toNat, 15), (b.toNat, 10), (w.toNat, 4)]
  | .fld d a b w s => pack 0x84000000 [(d.toNat, 20), (a.toNat, 15), (b.toNat, 10), (w.toNat, 4), (s.toNat, 0)]
  | .fst d a b w s => pack 0x86000000 [(d.toNat, 20), (a.toNat, 15), (b.toNat, 10), (w.toNat, 4), (s.toNat, 0)]
  | .fstbN4 d a b w => pack 0x88000000 [(d.toNat, 20), (a.toNat, 15), (b.toNat, 10), (w.toNat, 4)]
  | .fstbN2 d a b w => pack 0x88000001 [(d.toNat, 20), (a.toNat, 15), (b.toNat, 10), (w.toNat, 4)]
  | .amoAdd d a b w => pack 0x8A000000 [(d.toNat, 20), (a.toNat, 15), (b.toNat, 10), (w.toNat, 4)]
  | .amoAnd d a b w => pack 0x8A000001 [(d.toNat, 20), (a.toNat, 15), (b.toNat, 10), (w.toNat, 4)]
  | .amoOr d a b w => pack 0x8A000002 [(d.toNat, 20), (a.toNat, 15), (b.toNat, 10), (w.toNat, 4)]
  | .amoXor d a b w => pack 0x8A000003 [(d.toNat, 20), (a.toNat, 15), (b.toNat, 10), (w.toNat, 4)]
  | .amoMin d a b w => pack 0x8A000004 [(d.toNat, 20), (a.toNat, 15), (b.toNat, 10), (w.toNat, 4)]
  | .amoMax d a b w => pack 0x8A000005 [(d.toNat, 20), (a.toNat, 15), (b.toNat, 10), (w.toNat, 4)]
  | .amoMinu d a b w => pack 0x8A000006 [(d.toNat, 20), (a.toNat, 15), (b.toNat, 10), (w.toNat, 4)]
  | .amoMaxu d a b w => pack 0x8A000007 [(d.toNat, 20), (a.toNat, 15), (b.toNat, 10), (w.toNat, 4)]
  | .amoSwap d a b w => pack 0x8A000008 [(d.toNat, 20), (a.toNat, 15), (b.toNat, 10), (w.toNat, 4)]
  | .amoCas d a b c w => pack 0x8A000009 [(d.toNat, 20), (a.toNat, 15), (b.toNat, 10), (c.toNat, 5), (w.toNat, 4)]
  | .amoFaddF32 d a b w => pack 0x8A00000A [(d.toNat, 20), (a.toNat, 15), (b.toNat, 10), (w.toNat, 4)]
  | .amoFaddBf16 d a b w => pack 0x8A00000B [(d.toNat, 20), (a.toNat, 15), (b.toNat, 10), (w.toNat, 4)]
  | .ocall d a b w => pack 0x8C000000 [(d.toNat, 20), (a.toNat, 15), (b.toNat, 10), (w.toNat, 4)]
  | .mcast a b w => pack 0x8E000000 [(a.toNat, 15), (b.toNat, 10), (w.toNat, 4)]
  | .chase d a b w => pack 0x90000000 [(d.toNat, 20), (a.toNat, 15), (b.toNat, 10), (w.toNat, 4)]
  | .fenceAcc d s => pack 0x92000000 [(d.toNat, 20), (s.toNat, 0)]
  | .fenceVis d s => pack 0x92000008 [(d.toNat, 20), (s.toNat, 0)]
  | .vadd d a b k z => pack 0xA0000000 [(d.toNat, 20), (a.toNat, 15), (b.toNat, 10), (k.toNat, 7), (z.toNat, 6)]
  | .vsub d a b k z => pack 0xA0000001 [(d.toNat, 20), (a.toNat, 15), (b.toNat, 10), (k.toNat, 7), (z.toNat, 6)]
  | .vmul d a b k z => pack 0xA0000002 [(d.toNat, 20), (a.toNat, 15), (b.toNat, 10), (k.toNat, 7), (z.toNat, 6)]
  | .vmulh d a b k z => pack 0xA0000003 [(d.toNat, 20), (a.toNat, 15), (b.toNat, 10), (k.toNat, 7), (z.toNat, 6)]
  | .vmin d a b k z => pack 0xA0000004 [(d.toNat, 20), (a.toNat, 15), (b.toNat, 10), (k.toNat, 7), (z.toNat, 6)]
  | .vmax d a b k z => pack 0xA0000005 [(d.toNat, 20), (a.toNat, 15), (b.toNat, 10), (k.toNat, 7), (z.toNat, 6)]
  | .vminu d a b k z => pack 0xA0000006 [(d.toNat, 20), (a.toNat, 15), (b.toNat, 10), (k.toNat, 7), (z.toNat, 6)]
  | .vmaxu d a b k z => pack 0xA0000007 [(d.toNat, 20), (a.toNat, 15), (b.toNat, 10), (k.toNat, 7), (z.toNat, 6)]
  | .vabs d a k z => pack 0xA0000008 [(d.toNat, 20), (a.toNat, 15), (k.toNat, 7), (z.toNat, 6)]
  | .vneg d a k z => pack 0xA0000009 [(d.toNat, 20), (a.toNat, 15), (k.toNat, 7), (z.toNat, 6)]
  | .vsll d a b k z => pack 0xA000000A [(d.toNat, 20), (a.toNat, 15), (b.toNat, 10), (k.toNat, 7), (z.toNat, 6)]
  | .vsrl d a b k z => pack 0xA000000B [(d.toNat, 20), (a.toNat, 15), (b.toNat, 10), (k.toNat, 7), (z.toNat, 6)]
  | .vsra d a b k z => pack 0xA000000C [(d.toNat, 20), (a.toNat, 15), (b.toNat, 10), (k.toNat, 7), (z.toNat, 6)]
  | .vadds d a b k z => pack 0xA000000D [(d.toNat, 20), (a.toNat, 15), (b.toNat, 10), (k.toNat, 7), (z.toNat, 6)]
  | .vsubs d a b k z => pack 0xA000000E [(d.toNat, 20), (a.toNat, 15), (b.toNat, 10), (k.toNat, 7), (z.toNat, 6)]
  | .vfadd d a b k z => pack 0xA2000000 [(d.toNat, 20), (a.toNat, 15), (b.toNat, 10), (k.toNat, 7), (z.toNat, 6)]
  | .vfsub d a b k z => pack 0xA2000001 [(d.toNat, 20), (a.toNat, 15), (b.toNat, 10), (k.toNat, 7), (z.toNat, 6)]
  | .vfmul d a b k z => pack 0xA2000002 [(d.toNat, 20), (a.toNat, 15), (b.toNat, 10), (k.toNat, 7), (z.toNat, 6)]
  | .vfma d a b k z => pack 0xA2000003 [(d.toNat, 20), (a.toNat, 15), (b.toNat, 10), (k.toNat, 7), (z.toNat, 6)]
  | .vfmin d a b k z => pack 0xA2000004 [(d.toNat, 20), (a.toNat, 15), (b.toNat, 10), (k.toNat, 7), (z.toNat, 6)]
  | .vfmax d a b k z => pack 0xA2000005 [(d.toNat, 20), (a.toNat, 15), (b.toNat, 10), (k.toNat, 7), (z.toNat, 6)]
  | .vfabs d a k z => pack 0xA2000006 [(d.toNat, 20), (a.toNat, 15), (k.toNat, 7), (z.toNat, 6)]
  | .vfneg d a k z => pack 0xA2000007 [(d.toNat, 20), (a.toNat, 15), (k.toNat, 7), (z.toNat, 6)]
  | .vand d a b k z => pack 0xA4000000 [(d.toNat, 20), (a.toNat, 15), (b.toNat, 10), (k.toNat, 7), (z.toNat, 6)]
  | .vor d a b k z => pack 0xA4000001 [(d.toNat, 20), (a.toNat, 15), (b.toNat, 10), (k.toNat, 7), (z.toNat, 6)]
  | .vxor d a b k z => pack 0xA4000002 [(d.toNat, 20), (a.toNat, 15), (b.toNat, 10), (k.toNat, 7), (z.toNat, 6)]
  | .vandn d a b k z => pack 0xA4000003 [(d.toNat, 20), (a.toNat, 15), (b.toNat, 10), (k.toNat, 7), (z.toNat, 6)]
  | .vnot d a k z => pack 0xA4000004 [(d.toNat, 20), (a.toNat, 15), (k.toNat, 7), (z.toNat, 6)]
  | .vmov d a k z => pack 0xA4000005 [(d.toNat, 20), (a.toNat, 15), (k.toNat, 7), (z.toNat, 6)]
  | .vcmpEq d a b k z => pack 0xA6000000 [(d.toNat, 20), (a.toNat, 15), (b.toNat, 10), (k.toNat, 7), (z.toNat, 6)]
  | .vcmpNe d a b k z => pack 0xA6000001 [(d.toNat, 20), (a.toNat, 15), (b.toNat, 10), (k.toNat, 7), (z.toNat, 6)]
  | .vcmpLt d a b k z => pack 0xA6000002 [(d.toNat, 20), (a.toNat, 15), (b.toNat, 10), (k.toNat, 7), (z.toNat, 6)]
  | .vcmpLe d a b k z => pack 0xA6000003 [(d.toNat, 20), (a.toNat, 15), (b.toNat, 10), (k.toNat, 7), (z.toNat, 6)]
  | .vcmpLtu d a b k z => pack 0xA6000004 [(d.toNat, 20), (a.toNat, 15), (b.toNat, 10), (k.toNat, 7), (z.toNat, 6)]
  | .vcmpLeu d a b k z => pack 0xA6000005 [(d.toNat, 20), (a.toNat, 15), (b.toNat, 10), (k.toNat, 7), (z.toNat, 6)]
  | .vfcmpEq d a b k z => pack 0xA6000006 [(d.toNat, 20), (a.toNat, 15), (b.toNat, 10), (k.toNat, 7), (z.toNat, 6)]
  | .vfcmpLt d a b k z => pack 0xA6000007 [(d.toNat, 20), (a.toNat, 15), (b.toNat, 10), (k.toNat, 7), (z.toNat, 6)]
  | .vfcmpLe d a b k z => pack 0xA6000008 [(d.toNat, 20), (a.toNat, 15), (b.toNat, 10), (k.toNat, 7), (z.toNat, 6)]
  | .vfcmpUn d a b k z => pack 0xA6000009 [(d.toNat, 20), (a.toNat, 15), (b.toNat, 10), (k.toNat, 7), (z.toNat, 6)]
  | .vsel d a b k => pack 0xA8000000 [(d.toNat, 20), (a.toNat, 15), (b.toNat, 10), (k.toNat, 7)]
  | .vrot d a n k z => pack 0xA8000001 [(d.toNat, 20), (a.toNat, 15), (n.toNat, 10), (k.toNat, 7), (z.toNat, 6)]
  | .vshup d a n k z => pack 0xA8000002 [(d.toNat, 20), (a.toNat, 15), (n.toNat, 10), (k.toNat, 7), (z.toNat, 6)]
  | .vshdn d a n k z => pack 0xA8000003 [(d.toNat, 20), (a.toNat, 15), (n.toNat, 10), (k.toNat, 7), (z.toNat, 6)]
  | .vbcast d a k z w => pack 0xA8000004 [(d.toNat, 20), (a.toNat, 15), (k.toNat, 7), (z.toNat, 6), (w.toNat, 5)]
  | .vmvSV d a l => pack 0xA8000005 [(d.toNat, 20), (a.toNat, 15), (l.toNat, 10)]
  | .vmvVS d a l w => pack 0xA8000006 [(d.toNat, 20), (a.toNat, 15), (l.toNat, 10), (w.toNat, 5)]
  | .vredAdd d a k => pack 0xAA000000 [(d.toNat, 20), (a.toNat, 15), (k.toNat, 7)]
  | .vredFadd d a k => pack 0xAA000001 [(d.toNat, 20), (a.toNat, 15), (k.toNat, 7)]
  | .vredMax d a k => pack 0xAA000002 [(d.toNat, 20), (a.toNat, 15), (k.toNat, 7)]
  | .vredMin d a k => pack 0xAA000003 [(d.toNat, 20), (a.toNat, 15), (k.toNat, 7)]
  | .vredFmax d a k => pack 0xAA000004 [(d.toNat, 20), (a.toNat, 15), (k.toNat, 7)]
  | .vscanAdd d a k z => pack 0xAA000005 [(d.toNat, 20), (a.toNat, 15), (k.toNat, 7), (z.toNat, 6)]
  | .vscanFadd d a k z => pack 0xAA000006 [(d.toNat, 20), (a.toNat, 15), (k.toNat, 7), (z.toNat, 6)]
  | .vld d a o k z w => pack 0xAC000000 [(d.toNat, 20), (a.toNat, 15), (o.toNat, 10), (k.toNat, 7), (z.toNat, 6), (w.toNat, 5)]
  | .vst d a o k w => pack 0xAC000001 [(d.toNat, 20), (a.toNat, 15), (o.toNat, 10), (k.toNat, 7), (w.toNat, 5)]
  | .vgat d a b k z w => pack 0xAC000002 [(d.toNat, 20), (a.toNat, 15), (b.toNat, 10), (k.toNat, 7), (z.toNat, 6), (w.toNat, 5)]
  | .vsct d a b k w => pack 0xAC000003 [(d.toNat, 20), (a.toNat, 15), (b.toNat, 10), (k.toNat, 7), (w.toNat, 5)]
  | .vcvt d a f k z => pack 0xAE000000 [(d.toNat, 20), (a.toNat, 15), (f.toNat, 10), (k.toNat, 7), (z.toNat, 6)]
  | .vscvt d a f k z => pack 0xAE000001 [(d.toNat, 20), (a.toNat, 15), (f.toNat, 10), (k.toNat, 7), (z.toNat, 6)]
  | .vpack d a f => pack 0xAE000002 [(d.toNat, 20), (a.toNat, 15), (f.toNat, 10)]
  | .vunpk d a f => pack 0xAE000003 [(d.toNat, 20), (a.toNat, 15), (f.toNat, 10)]
  | .kand d a b => pack 0xB0000000 [(d.toNat, 20), (a.toNat, 15), (b.toNat, 10)]
  | .kor d a b => pack 0xB0000001 [(d.toNat, 20), (a.toNat, 15), (b.toNat, 10)]
  | .kxor d a b => pack 0xB0000002 [(d.toNat, 20), (a.toNat, 15), (b.toNat, 10)]
  | .knot d a => pack 0xB0000003 [(d.toNat, 20), (a.toNat, 15)]
  | .kmov d a => pack 0xB0000004 [(d.toNat, 20), (a.toNat, 15)]
  | .kpopc d a => pack 0xB0000005 [(d.toNat, 20), (a.toNat, 15)]
  | .kfrom d a w => pack 0xB0000006 [(d.toNat, 20), (a.toNat, 15), (w.toNat, 5)]
  | .vcfg n a w => pack 0xB2000000 [(n.toNat, 20), (a.toNat, 15), (w.toNat, 5)]
  | .vrun b k z => pack 0xB2000001 [(b.toNat, 10), (k.toNat, 7), (z.toNat, 6)]
  | .vpark d a k w => pack 0xB2000002 [(d.toNat, 20), (a.toNat, 15), (k.toNat, 7), (w.toNat, 5)]
  | .vunpark d a k z w => pack 0xB2000003 [(d.toNat, 20), (a.toNat, 15), (k.toNat, 7), (z.toNat, 6), (w.toNat, 5)]
  | .tshp d a w => pack 0xC0000000 [(d.toNat, 20), (a.toNat, 15), (w.toNat, 4)]
  | .tclr d => pack 0xC0000001 [(d.toNat, 20)]
  | .tsave d => pack 0xC0000002 [(d.toNat, 20)]
  | .trest d => pack 0xC0000003 [(d.toNat, 20)]
  | .pstatus d => pack 0xC0000004 [(d.toNat, 20)]
  | .arst d => pack 0xC0000005 [(d.toNat, 20)]
  | .mcfg a w => pack 0xC2000000 [(a.toNat, 15), (w.toNat, 4)]
  | .plda a => pack 0xC4000000 [(a.toNat, 15)]
  | .pldb a => pack 0xC4000001 [(a.toNat, 15)]
  | .pmm d a b c w => pack 0xC6000000 [(d.toNat, 20), (a.toNat, 15), (b.toNat, 10), (c.toNat, 5), (w.toNat, 4)]
  | .tnorm d a b z => pack 0xC6000001 [(d.toNat, 20), (a.toNat, 15), (b.toNat, 10), (z.toNat, 5)]
  | .trowRd d a b w => pack 0xC8000000 [(d.toNat, 20), (a.toNat, 15), (b.toNat, 10), (w.toNat, 4)]
  | .trowWr d a b w => pack 0xC8000001 [(d.toNat, 20), (a.toNat, 15), (b.toNat, 10), (w.toNat, 4)]
  | .tcolRd d a b w => pack 0xC8000002 [(d.toNat, 20), (a.toNat, 15), (b.toNat, 10), (w.toNat, 4)]
  | .tcolWr d a b w => pack 0xC8000003 [(d.toNat, 20), (a.toNat, 15), (b.toNat, 10), (w.toNat, 4)]
  | .tld d a b w => pack 0xCA000000 [(d.toNat, 20), (a.toNat, 15), (b.toNat, 10), (w.toNat, 4)]
  | .tst d a b w => pack 0xCA000001 [(d.toNat, 20), (a.toNat, 15), (b.toNat, 10), (w.toNat, 4)]
  | .sopen d a w => pack 0xD0000000 [(d.toNat, 20), (a.toNat, 15), (w.toNat, 4)]
  | .sgo d a => pack 0xD0000001 [(d.toNat, 20), (a.toNat, 15)]
  | .sstop d => pack 0xD0000002 [(d.toNat, 20)]
  | .sstat d a => pack 0xD0000003 [(d.toNat, 20), (a.toNat, 15)]
  | .sparm d a w => pack 0xD0000004 [(d.toNat, 20), (a.toNat, 15), (w.toNat, 4)]
  | .xcopy d a b w => pack 0xD2000000 [(d.toNat, 20), (a.toNat, 15), (b.toNat, 10), (w.toNat, 4)]
  | .xfill d a b w => pack 0xD2000001 [(d.toNat, 20), (a.toNat, 15), (b.toNat, 10), (w.toNat, 4)]
  | .xsplice d a b w => pack 0xD2000002 [(d.toNat, 20), (a.toNat, 15), (b.toNat, 10), (w.toNat, 4)]
  | .eadd d a b => pack 0xE0000000 [(d.toNat, 20), (a.toNat, 15), (b.toNat, 10)]
  | .esub d a b => pack 0xE0000001 [(d.toNat, 20), (a.toNat, 15), (b.toNat, 10)]
  | .emul d a b => pack 0xE0000002 [(d.toNat, 20), (a.toNat, 15), (b.toNat, 10)]
  | .efma d a b c => pack 0xE0000003 [(d.toNat, 20), (a.toNat, 15), (b.toNat, 10), (c.toNat, 5)]
  | .ediv d a b => pack 0xE0000004 [(d.toNat, 20), (a.toNat, 15), (b.toNat, 10)]
  | .esqrt d a => pack 0xE0000005 [(d.toNat, 20), (a.toNat, 15)]
  | .eneg d a => pack 0xE0000006 [(d.toNat, 20), (a.toNat, 15)]
  | .eabs d a => pack 0xE0000007 [(d.toNat, 20), (a.toNat, 15)]
  | .ecmp d a b => pack 0xE0000008 [(d.toNat, 20), (a.toNat, 15), (b.toNat, 10)]
  | .emov d a => pack 0xE0000009 [(d.toNat, 20), (a.toNat, 15)]
  | .ernd d a l => pack 0xE000000A [(d.toNat, 20), (a.toNat, 15), (l.toNat, 5)]
  | .elen d a => pack 0xE000000B [(d.toNat, 20), (a.toNat, 15)]
  | .ecvtEI d a u w => pack 0xE2000000 [(d.toNat, 20), (a.toNat, 15), (u.toNat, 5), (w.toNat, 4)]
  | .ecvtEF d a => pack 0xE2000001 [(d.toNat, 20), (a.toNat, 15)]
  | .ecvtED d a w => pack 0xE2000002 [(d.toNat, 20), (a.toNat, 15), (w.toNat, 4)]
  | .ecvtIE d a u => pack 0xE2000003 [(d.toNat, 20), (a.toNat, 15), (u.toNat, 5)]
  | .ecvtFE d a => pack 0xE2000004 [(d.toNat, 20), (a.toNat, 15)]
  | .ecvtDE d a => pack 0xE2000005 [(d.toNat, 20), (a.toNat, 15)]
  | .eprec w d a i => pack 0xE4000000 [(w.toNat, 25), (d.toNat, 20), (a.toNat, 15), (i.toNat, 0)]
  | .eld w d a o => pack 0xE8000000 [(w.toNat, 25), (d.toNat, 20), (a.toNat, 15), (o.toNat, 0)]
  | .est w d a n o => pack 0xE8002000 [(w.toNat, 25), (d.toNat, 20), (a.toNat, 15), (n.toNat, 8), (o.toNat, 0)]
  | .eldInc w d a o => pack 0xE8004000 [(w.toNat, 25), (d.toNat, 20), (a.toNat, 15), (o.toNat, 0)]
  | .estInc w d a n o => pack 0xE8006000 [(w.toNat, 25), (d.toNat, 20), (a.toNat, 15), (n.toNat, 8), (o.toNat, 0)]
  | .ext h => pack 0xF0000000 [(h.toNat, 0)]
  | .fmt d a b e => pack 0xF2000000 [(d.toNat, 20), (a.toNat, 15), (b.toNat, 10), (e.toNat, 7)]
  | .scl b o g f z => pack 0xF4000000 [(b.toNat, 20), (o.toNat, 10), (g.toNat, 8), (f.toNat, 3), (z.toNat, 2)]
  | .rnd m s => pack 0xF6000000 [(m.toNat, 22), (s.toNat, 20)]
  | .selection _ | .endOfInvocationStep _ _ | .tokenInjection _ | .tokenArrival _ | .creditReturn _
  | .creditArrival _ | .limiterWindow _ | .sendQueueEntryFree _ | .serviceRequestDelivery _ | .ownerPortAccess _
  | .replyArrival _ | .fenceCompletion _ | .multicastReplication _ | .barrierEpisodeComplete _ | .barrierRelease _ _
  | .chaseHop _ | .chaseSpillReturn _ | .chaseReply _ | .hubMiss _ | .hubQueueRetry _ | .walkLevelRead _ _
  | .invalidationComplete | .engineElement _ _ | .engineRoundBoundary _ _ | .engineCommandEnd _ _
  | .pressCommandStart _ | .pressPassEnd _ _ | .pressCommitEnd _ | .tileSaveCopy _ _ | .tileRestoreCopy _ _ _
  | .regionConfigured _ | .regionQuiescent _ | .regionSaved _ | .loadImage _ _ | .launch _ _ | .edit _ _
  | .preemptCooperative _ _ | .preemptForced _ _ | .resume _ _ | .unload _ _ | .tableReconfigure _ _
  | .multicastEntryWrite _ _ | .reqReservedOperation _ _ _ | .replay _ | .tlbInvalidate _ | .tlbInvalidateRetire _
  | .windowPush _ _ _ | .windowPop _ _ | .rawTokenWrite _ _ _ | .counterSelectWrite _ _ | .hostRegisterWrite _ _
  | .powerOn _ | .powerOff _ | .coldStart _ | .warmStart _ | .failedStart | .clearServiceHold _ | .setStep _
  | .coreRailSettled | .waveCountReached _ | .stepChangeAcknowledged | .writeFrate _ | .mgmtTableReconfigure _
  | .setImagePolicy _ | .enrolOperatorKey _ | .setSystemWaferNumber _ | .mgmtWriteCounterSelect _ | .readStatus _
  | .readLog _ | .readCounters _ | .readRemapViews _ | .attestation _ | .mgmtRecordRefused _ | .throttling _ _ _
  | .recovery _ _ _ | .thermalTrip _ _ | .powerFault _ | .clockStretches _ | .retrainingDue _
  | .retrainingDeferralLimit _ | .retrainingEnd _ _ | .refresh _ | .patrolScrub _ _ _ | .linkRetries _
  | .routerFailed _ | .undefinedEncoding _ _ _ | .controlLineDisagreement _ _ => 0

/-- The word of a coded instruction (R27). -/
def encode (i : Instr) : IWord := BitVec.ofNat 32 (encodeNat i)

/-- The little-endian bytes of an instruction's word (R97). -/
def encodeBytes (i : Instr) : List Byte :=
  let w := encode i
  [w.extractLsb' 0 8, w.extractLsb' 8 8, w.extractLsb' 16 8, w.extractLsb' 24 8]

/-- The instruction whose bits are `w`, numbered as spec/opcode_table.json numbers them: one 32-bit word laid out in
memory as the W1 stores it and given to the decoder (none where it refuses, or where no word is given). -/
def decodeTableWord (nbits w : Nat) : Option Instr :=
  if nbits = 0 then none else
  let v : IWord := BitVec.ofNat 32 (w % 2 ^ nbits)
  match decode [v.extractLsb' 0 8, v.extractLsb' 8 8, v.extractLsb' 16 8, v.extractLsb' 24 8] with
  | some (.ok i, _) => some i
  | _ => none

end Sys2Proof
end

