-- ==== Sys2Proof/Config.lean ====
section
/-!
DEFINITION. Sys2Proof/Config.lean: what a W1 fixes (capacities and places the spec states) and the free values: what
the spec leaves open, as constants with no body, so that no proof can know them (log entries 2, 5, 6 and 7).
-/

namespace Sys2Proof.Config

/-- Bytes of a pool: 48 units of 16 KiB (R22, R23). -/
def poolBytes : Nat := 0xC0000

/-- Bytes of a pool unit (R22). -/
def poolUnit : Nat := 16384

/-- Bytes of a DRAM column: four layers of 16 MiB (R5, R249). -/
def columnBytes : Nat := 0x4000000

/-- Entries of each send queue (R77). -/
def sendQueueDepth : Nat := 16

/-- Entries of a core's data TLB (R293). -/
def coreTlbSize : Nat := 32

/-- Entries of a hub's second-level TLB (R293). -/
def hubTlbSize : Nat := 2048

/-- Pages that may wait for a free walker (R295). -/
def walkQueueSize : Nat := 64

/-- Walkers of a hub (R295). -/
def walkers : Nat := 4

/-- Entries of a fault buffer (R297). -/
def faultEntries : Nat := 8

/-- Entries of a chase station and of its spill area (R377). -/
def stationSize : Nat := 16
def spillSize : Nat := 4096

/-- Chases a core may have outstanding (R376). -/
def chaseLimit : Nat := 8

/-- Entries of a reply buffer (R84). -/
def replyBufferSize : Nat := 16

/-- Records the log holds (R268). -/
def logSize : Nat := 960

/-- FREE VALUE: cycles that pass for an idle core in a step, by time and core (R165; log entry 2). -/
opaque idle : Nat → Nat → Nat

/-- FREE VALUE: periods of the clock of a field, and of the wave counters (field number 2,048), in a step (R254, R257; log entry
2). -/
opaque periods : Nat → Nat → Nat

/-- FREE VALUE: cycles after which a result that no table of latencies lists is available (R72; log entry 94). -/
opaque latency : Nat → Nat

/-- FREE VALUE: stream stalls of an engine at work in the time of a step (R252, R270; log entry 36). -/
opaque streamStall : Nat → Nat → Nat

/-- FREE VALUE: which entry of a full TLB a fill replaces (R293: no promised order; log entry 6). -/
opaque victim : Nat → Nat

/-- FREE VALUE: which set of a hub's TLB an entry belongs to, by ASN, page number and level (R293; log entry 6). -/
opaque tlbSet : Nat → Nat → Nat → Nat

/-- Rind ports of a wafer: 32 on each edge (R278). -/
def rindPorts : Nat := 128

/-- FREE VALUE: which of the eight edge routers of its field a rind port is attached to (R278; log entry 79). -/
opaque rindPlace : Nat → Nat

/-- FREE VALUE: which trained port to a wafer the loader joins a barrier's trees through (R202; log entry 79). -/
opaque rindPick : Nat → Nat

/-- FREE VALUE: what becomes of an item in flight on a way whose link or router fails, by time and item: it was there and is
lost (0), has passed it (1), or has not come to it (R207, R247; log entry 10). -/
opaque fate : Nat → Nat → Nat

/-- FREE VALUE: which free place of the spill area a chase packet is written to (R377 gives its bytes; log entry 76). -/
opaque spillSlot : Nat → Nat

/-- FREE VALUE: bytes of the bank and of the firing state in a save frame, whose layout R178 does not give (log entry 7). -/
opaque frameByte : Nat → Byte

/-- FREE VALUE: item n of the bank, or of the firing state, that a resume reads from bytes of a save frame which are not those that
the save wrote (R178, R180; log entry 7). -/
opaque frameItem : List Byte → Nat → Nat

/-- FREE VALUE: the device identity key's ML-DSA-65 signature of a report (R277; log entry 5). -/
opaque deviceSign : List Byte → List Byte

/-- FREE VALUE: the firmware image that a start measures (R276; log entry 5). -/
opaque firmware : List Byte

/-- FREE VALUE: the module serial (R273, R277; log entry 5). -/
opaque serial : BitVec 128

/-- FREE VALUE: what a 32-bit lane or a 64-bit word token holds of an element wider than it (R216 gives lane form only
to elements that fit; log entry 11). -/
opaque wide : Nat → Nat

/-- FREE VALUE: the status of a request that the table of R172 lists for no state and gives no status (by operation and
region state), and of a start while the rails are off (log entry 13). -/
opaque refusedStatus : Nat → Nat → BitVec 7

/-- FREE VALUE: have 100 µs passed since a step change was acknowledged (R254; time is not modelled, log entry 14)? -/
opaque settled : Nat → Bool

/-- FREE VALUE: the answer of "read status", whose layout R273 does not give: from MSTATE, the failed cold starts and
the step last set (log entry 15). -/
opaque statusAnswer : Word → Nat → Nat → List Byte

/-- FREE VALUE: the bytes of an attestation report, whose layout R277 does not give: from the nonce, M0 to M2, the step,
the starts, and number and digest of each loaded region (log entry 15). -/
opaque reportBytes : List Byte → List (BitVec 512) → Nat → Nat → List (Nat × BitVec 512) → List Byte

/-- FREE VALUE: the stored form of the remap tables, which a start measures and signs (R274, R276; log entry 15). -/
opaque storedTables : List Word → List Byte

/-- What a change list of a table reconfigure may ask for (R246), in logical numbers. -/
inductive TableChange where
  /-- field n out of service -/
  | outField (n : Nat)
  /-- a cluster (field × 64 + cluster) out of service -/
  | outCluster (cl : Nat)
  /-- the slot of a logical core (16-bit number) out of service: the core moves to the spare slot where that is free,
  else the cluster goes -/
  | outSlot (core : Nat)
  /-- the spare slot of a cluster (field × 64 + cluster) out of service: where a core lies in it, the cluster goes -/
  | outSpare (cl : Nat)
  /-- the side steps of an out-of-service cluster -/
  | sideStep (cl : Nat) (xstep ystep : Bool)
  /-- a DRAM region of a logical core's column found bad: layer, region (R249) -/
  | badRegion (core layer region : Nat)
  deriving DecidableEq, Repr

/-- FREE VALUE: what the bytes of a change list ask for; R246 gives no layout (log entry 12). -/
opaque changeList : List Byte → List TableChange

end Sys2Proof.Config
end

