-- ==== Sys2Proof/Machine/Shake.lean ====
section
/-!
DEFINITION. Sys2Proof/Machine/Shake.lean: the hash SHAKE256 of FIPS 202, by which R276 measures and signs, and SHAKE128,
from which FIPS 204 draws its matrix.
-/

namespace Sys2Proof.Machine

/-- The rotation of lane x + 5y (FIPS 202, rho). -/
def keccakRotations : List Nat :=
  [0, 1, 62, 28, 27, 36, 44, 6, 55, 20, 3, 10, 43, 25, 39, 41, 45, 15, 21, 8, 18, 2, 61, 56, 14]

/-- The round constants (FIPS 202, iota). -/
def keccakConstants : List (BitVec 64) :=
  [0x0000000000000001, 0x0000000000008082, 0x800000000000808A, 0x8000000080008000, 0x000000000000808B, 0x0000000080000001,
   0x8000000080008081, 0x8000000000008009, 0x000000000000008A, 0x0000000000000088, 0x0000000080008009, 0x000000008000000A]
  ++ [0x000000008000808B, 0x800000000000008B, 0x8000000000008089, 0x8000000000008003, 0x8000000000008002, 0x8000000000000080,
   0x000000000000800A, 0x800000008000000A, 0x8000000080008081, 0x8000000000008080, 0x0000000080000001, 0x8000000080008008]

/-- One round on the 25 lanes. -/
def keccakRound (st : List (BitVec 64)) (rc : BitVec 64) : List (BitVec 64) :=
  let a := fun (i : Nat) => st.getD i 0
  let c := (List.range 5).map fun x => a x ^^^ a (x + 5) ^^^ a (x + 10) ^^^ a (x + 15) ^^^ a (x + 20)
  let d := (List.range 5).map fun x => c.getD ((x + 4) % 5) 0 ^^^ (c.getD ((x + 1) % 5) 0).rotateLeft 1
  let b := (List.range 25).map fun i =>
    let src := (i % 5 + 3 * (i / 5)) % 5 + 5 * (i % 5)
    (a src ^^^ d.getD (src % 5) 0).rotateLeft (keccakRotations.getD src 0)
  (List.range 25).map fun i =>
    let y := i / 5 * 5
    (b.getD i 0 ^^^ (~~~(b.getD ((i + 1) % 5 + y) 0) &&& b.getD ((i + 2) % 5 + y) 0)) ^^^ if i = 0 then rc else 0

/-- The permutation Keccak-f[1600]. -/
def keccakF (st : List (BitVec 64)) : List (BitVec 64) := keccakConstants.foldl keccakRound st

/-- Eight bytes as a lane. -/
def laneOfBytes : List Byte → BitVec 64
  | [] => 0
  | b :: rest => b.setWidth 64 ||| laneOfBytes rest <<< 8

/-- A block of bytes combined into the lanes. -/
def keccakMix (st : List (BitVec 64)) (block : List Byte) : List (BitVec 64) :=
  (List.range 25).map fun i => st.getD i 0 ^^^ laneOfBytes ((block.drop (8 * i)).take 8)

/-- Whole blocks of `rate` bytes absorbed, at most `fuel` of them. -/
def keccakAbsorb (rate : Nat) : Nat → List (BitVec 64) → List Byte → List (BitVec 64)
  | 0, st, _ => st
  | fuel + 1, st, l => if l.isEmpty then st else keccakAbsorb rate fuel (keccakF (keccakMix st (l.take rate))) (l.drop rate)

/-- A message padded to whole blocks with the suffix of the SHAKE functions. -/
def shakePad (rate : Nat) (m : List Byte) : List Byte :=
  let n := rate - m.length % rate
  m ++ (if n = 1 then [0x9F] else 0x1F :: List.replicate (n - 2) 0 ++ [0x80])

/-- The first `rate` bytes of the lanes. -/
def keccakBytes (rate : Nat) (st : List (BitVec 64)) : List Byte :=
  (List.range rate).map fun i => (st.getD (i / 8) 0).extractLsb' (8 * (i % 8)) 8

/-- Blocks squeezed out. -/
def keccakSqueeze (rate : Nat) : Nat → List (BitVec 64) → List Byte
  | 0, _ => []
  | n + 1, st => keccakBytes rate st ++ keccakSqueeze rate n (keccakF st)

/-- `n` bytes of a SHAKE function with blocks of `rate` bytes. -/
def shake (rate : Nat) (m : List Byte) (n : Nat) : List Byte :=
  let l := shakePad rate m
  (keccakSqueeze rate ((n + rate - 1) / rate) (keccakAbsorb rate (l.length / rate) (List.replicate 25 0) l)).take n

/-- SHAKE128 and SHAKE256 (FIPS 202). -/
def shake128 (m : List Byte) (n : Nat) : List Byte := shake 168 m n
def shake256 (m : List Byte) (n : Nat) : List Byte := shake 136 m n

/-- Bytes as a little-endian number, the first byte lowest. -/
def natOfBytes : List Byte → Nat
  | [] => 0
  | b :: rest => b.toNat + 256 * natOfBytes rest

/-- The 64-byte SHAKE256 digest of bytes (R276). -/
def digest (m : List Byte) : BitVec 512 := BitVec.ofNat 512 (natOfBytes (shake256 m 64))

/-- The bytes of a digest, its first byte in bits 7:0. -/
def digestBytes (d : BitVec 512) : List Byte := (List.range 64).map fun i => d.extractLsb' (8 * i) 8

/-- A measurement extended with the digest of bytes: M ← SHAKE256(M ‖ digest) (R276). -/
def measure (m : BitVec 512) (bytes : List Byte) : BitVec 512 := digest (digestBytes m ++ digestBytes (digest bytes))

end Sys2Proof.Machine
end

