-- ==== Sys2Proof/Machine/Sign.lean ====
section
/-!
DEFINITION. Sys2Proof/Machine/Sign.lean: the verification of ML-DSA-65 signatures (FIPS 204), which R276 asks for. The
transforms are written as the evaluations that they compute (log entry 5).
-/

namespace Sys2Proof.Machine

/-- The modulus q of FIPS 204. -/
def dsaQ : Nat := 8380417

/-- A power of the root of unity 1753 modulo q. -/
def dsaRoot (n : Nat) : Nat := 1753 ^ n % dsaQ

/-- The eight bits of an index reversed. -/
def bitRev8 (i : Nat) : Nat := (List.range 8).foldl (fun a k => 2 * a + i / 2 ^ k % 2) 0

/-- A polynomial (coefficients from x⁰ on) at a point, modulo q. -/
def polyAt (w : List Nat) (x : Nat) : Nat := w.foldr (fun c a => (c + x * a) % dsaQ) 0

/-- The transform of a polynomial: its values at the odd powers of the root, in bit-reversed order. -/
def ntt (w : List Nat) : List Nat := (List.range 256).map fun i => polyAt w (dsaRoot (2 * bitRev8 i + 1))

/-- The polynomial of a transform; 8347681 is 1/256 modulo q. -/
def nttInverse (v : List Nat) : List Nat :=
  let u := (List.range 256).map fun i => v.getD (bitRev8 i) 0
  (List.range 256).map fun j =>
    let y := dsaRoot (512 - j)
    8347681 * y * polyAt u (y * y % dsaQ) % dsaQ

/-- `n` numbers of `bits` bits each, packed from the lowest bit of the first byte on. -/
def unpackBits (bits n : Nat) (l : List Byte) : List Nat :=
  let x := natOfBytes (l.take (bits * n / 8))
  (List.range n).map fun i => x / 2 ^ (bits * i) % 2 ^ bits

/-- Numbers below q from a stream of bytes, three bytes each, those not below q left out. -/
def rejectSample : List Byte → List Nat
  | a :: b :: c :: rest =>
    let x := a.toNat + 256 * b.toNat + 65536 * (c.toNat % 128)
    if x < dsaQ then x :: rejectSample rest else rejectSample rest
  | _ => []

/-- The entry of the public matrix in row `r` and column `c`, a transform, from the seed of a key. -/
def matrixEntry (seed : List Byte) (r c : Nat) : List Nat :=
  (rejectSample (shake128 (seed ++ [BitVec.ofNat 8 c, BitVec.ofNat 8 r]) 1008)).take 256

/-- The places of the 49 coefficients of a challenge drawn, from place `i` on. -/
def drawBall (signs : Nat) : Nat → List Byte → List Nat → List Nat
  | _, [], c => c
  | i, b :: rest, c =>
    if 256 ≤ i then c
    else if i < b.toNat then drawBall signs i rest c
    else drawBall signs (i + 1) rest ((c.set i (c.getD b.toNat 0)).set b.toNat (if signs / 2 ^ (i - 207) % 2 = 1 then dsaQ - 1 else 1))

/-- The challenge polynomial of a commitment hash. -/
def challenge (hash : List Byte) : List Nat :=
  let l := shake256 hash 272
  drawBall (natOfBytes (l.take 8)) 207 (l.drop 8) (List.replicate 256 0)

/-- The hints of one polynomial among the places of `y`: those from `first` to before `last`, which rise; none where they do not. -/
def hintPlaces (y : List Nat) (first last : Nat) : Option (List Nat) :=
  let l := (y.take last).drop first
  if (l.zip l.tail).all fun p => p.1 < p.2 then some l else none

/-- The hints of the six polynomials from the last 61 bytes of a signature; none where they are malformed. -/
def hintsFrom (y : List Nat) : Nat → Nat → Option (List (List Nat))
  | 0, first => if ((y.take 55).drop first).all (· == 0) then some [] else none
  | n + 1, first =>
    let last := y.getD (60 - n) 0
    if last < first || 55 < last then none
    else match hintPlaces y first last, hintsFrom y n last with
      | some l, some ls => some (l :: ls)
      | _, _ => none

/-- The high part of a number modulo q, moved by its hint. -/
def useHint (hint : Bool) (r : Nat) : Nat :=
  let low := r % 523776
  let neg := 261888 < low
  let high := (r - low) / 523776 + if neg then 1 else 0
  let top := high == 16
  let high := if top then 0 else high
  -- the low part is above 0 where it is neither negative nor 0; at the top it is one less than the remainder says
  if !hint then high else if neg || low == 0 || top then (high + 15) % 16 else (high + 1) % 16

/-- Four-bit numbers packed two to a byte. -/
def packNibbles : List Nat → List Byte
  | a :: b :: rest => BitVec.ofNat 8 (a + 16 * b) :: packNibbles rest
  | _ => []

/-- A row of the commitment that a verifier rebuilds: A·z - c·t1·2¹³. -/
def commitRow (seed : List Byte) (r : Nat) (zs : List (List Nat)) (c t : List Nat) : List Nat :=
  nttInverse ((List.range 256).map fun i =>
    ((List.range 5).foldl (fun a k => (a + (matrixEntry seed r k).getD i 0 * (zs.getD k []).getD i 0) % dsaQ) 0
      + (dsaQ - c.getD i 0 * t.getD i 0 % dsaQ)) % dsaQ)

/-- The commitment that a key, a signature's response (transforms), challenge and hints give, packed. -/
def commitment (key : List Byte) (zs : List (List Nat)) (c : List Nat) (hints : List (List Nat)) : List Byte :=
  (List.range 6).flatMap fun r =>
    let t := ntt ((unpackBits 10 256 (key.drop (32 + 320 * r))).map (· * 8192))
    let row := commitRow (key.take 32) r zs c t
    packNibbles ((List.range 256).map fun i => useHint ((hints.getD r []).contains i) (row.getD i 0))

/-- The response of a signature as packed: 2¹⁹ less each coefficient. -/
def responseRaw (sig : List Byte) : List (List Nat) := (List.range 5).map fun i => unpackBits 20 256 (sig.drop (48 + 640 * i))

/-- Is a signature one of ML-DSA-65 over a message by a public key, with an empty context (FIPS 204, ML-DSA.Verify)? -/
def dsaVerify (key msg sig : List Byte) : Bool :=
  key.length == 1952 && sig.length == 3309 && match hintsFrom ((sig.drop 3248).map (·.toNat)) 6 0 with
    | none => false
    | some hints =>
      let raw := responseRaw sig
      let c := ntt (challenge (sig.take 48))
      let zs := raw.map fun z => ntt (z.map fun x => (524288 + dsaQ - x) % dsaQ)
      let mu := shake256 (shake256 key 64 ++ [0, 0] ++ msg) 64
      (raw.all fun z => z.all fun x => decide (196 < x ∧ x < 1048380))
        && shake256 (mu ++ commitment key zs c hints) 48 == sig.take 48

/-- Is a signature one of a public key over the digest of bytes (R276)? -/
def signatureOk (key bytes sig : List Byte) : Bool := dsaVerify key (shake256 bytes 64) sig

end Sys2Proof.Machine
end

