-- ==== Sys2Proof/Machine/Tables.lean ====
section
/-!
DEFINITION. Sys2Proof/Machine/Tables.lean: the remap tables of a wafer as data (R239) and the words of their views
(R240 to R244); association lists by number.
-/

namespace Sys2Proof.Machine

/-! ## Association lists by number -/

/-- The first entry under a key. -/
def assocGet {α : Type} : List (Nat × α) → Nat → Option α
  | [], _ => none
  | (k, x) :: rest, n => if k = n then some x else assocGet rest n

/-- An entry added in its place, or replaced. -/
def assocSet {α : Type} : List (Nat × α) → Nat → α → List (Nat × α)
  | [], n, x => [(n, x)]
  | (k, y) :: rest, n, x =>
    if n < k then (n, x) :: (k, y) :: rest else if n = k then (n, x) :: rest else (k, y) :: assocSet rest n x

/-! ## The tables (R239, R243, R244) -/

/-- A DRAM region remap entry (R243). -/
structure DrEntry where
  nb : Bool
  ncore : BitVec 4
  slayer : BitVec 2
  sreg : BitVec 2
  layer : BitVec 2
  region : BitVec 6
  deriving DecidableEq, Repr

/-- A detour entry (R244). -/
structure Detour where
  cluster : BitVec 6
  xstep : Bool
  ystep : Bool
  xdr : BitVec 6
  ydr : BitVec 6
  deriving DecidableEq, Repr

/-- The remap tables of a wafer (R239): physical field of each logical field, out-of-service logical clusters
(field × 64 + cluster), clusters whose defective slot uses the spare, DRAM region remaps by logical core, detours by
logical field; and, of the clusters whose spare slot is unused, those where it is defective (R238, R246). -/
structure Tables where
  fields : List (Option Nat)
  outClusters : List Nat
  spares : List (Nat × Nat)
  dram : List (Nat × List DrEntry)
  detours : List (Nat × List Detour)
  deadSpares : List Nat
  deriving DecidableEq, Repr

/-- The tables of a wafer with no defect: logical field n is physical field n (R238; log entry 4). -/
def Tables.perfect : Tables where
  fields := (List.range 64).map some
  outClusters := []
  spares := []
  dram := []
  detours := []
  deadSpares := []

/-! ## The views (R240 to R244) -/

/-- FMAPn (R240). -/
def Tables.fmap (t : Tables) (n : Nat) : Word :=
  match (t.fields[n]?).join with
  | some p => BitVec.ofNat 64 (256 + p / 8 * 8 + p % 8)
  | none => 0

/-- CMAPn (R241). -/
def Tables.cmap (t : Tables) (n : Nat) : Word :=
  match (t.fields[n]?).join with
  | none => 0
  | some _ => BitVec.ofNat 64 ((List.range 64).foldl
      (fun acc c => if t.outClusters.contains (n * 64 + c) then acc else acc + 2 ^ c) 0)

/-- CORMAP0 and CORMAP1 of a cluster (field × 64 + cluster) (R242). -/
def Tables.cormap (t : Tables) (cl half : Nat) : Word :=
  let slot := fun i =>
    if ((t.fields[cl / 64]?).join).isNone || t.outClusters.contains cl then 0x1F
    else if t.spares.contains (cl, i) then 16 else i
  BitVec.ofNat 64 ((List.range 8).foldl (fun acc i => acc + slot (8 * half + i) * 256 ^ i) 0)

/-- A DRAM region remap entry as a register holds it (R243). -/
def DrEntry.word (e : DrEntry) : Nat :=
  2 ^ 31 + (if e.nb then 2 ^ 30 + e.ncore.toNat * 2 ^ 26 else 0) + e.slayer.toNat * 2 ^ 18 + e.sreg.toNat * 2 ^ 16
    + e.layer.toNat * 2 ^ 8 + e.region.toNat

/-- DRMAPm of a column (R243). -/
def Tables.drmap (t : Tables) (core m : Nat) : Word :=
  let es := (assocGet t.dram core).getD []
  let w := fun i => match es[i]? with
    | some e => e.word
    | none => 0
  BitVec.ofNat 64 (w (2 * m) + w (2 * m + 1) * 2 ^ 32)

/-- A detour entry (R244). -/
def Detour.word (e : Detour) : Nat :=
  2 ^ 31 + (if e.xstep then 2 ^ 30 else 0) + (if e.ystep then 2 ^ 29 else 0) + e.ydr.toNat * 2 ^ 18 + e.xdr.toNat * 2 ^ 12
    + e.cluster.toNat

/-- DETOUR i of logical field n (R244). -/
def Tables.detour (t : Tables) (n i : Nat) : Word :=
  match ((assocGet t.detours n).getD [])[i]? with
  | some e => BitVec.ofNat 64 e.word
  | none => 0

/-- The words of the remap views of a wafer, which M1 measures in their stored form (R239, R276). -/
def Tables.words (t : Tables) : List Word :=
  (List.range 64).map t.fmap ++ (List.range 64).map t.cmap ++ (List.range 128).map (fun i => t.detour (i / 2) (i % 2))
    ++ (t.spares.map fun x => BitVec.ofNat 64 (x.1 * 16 + x.2)) ++ t.dram.flatMap fun x => (List.range 8).map (t.drmap x.1)

end Sys2Proof.Machine
end

