-- ==== Sys2Proof/Machine/State.lean ====
section
/-!
DEFINITION. Sys2Proof/Machine/State.lean: the state of the machine as plain data, its faults and refusals, and
State.reset. One record for each agent the spec names: contexts, cores, cluster hubs, fields, channels, messages,
barriers, graphs and the module. Core numbers (`cid`) are bits 46:26 of a wafer address: wafer, field, cluster, core
(R287). INVENTORY.md lists every piece with its rule.
-/

namespace Sys2Proof.Machine

/-! ## Tokens and channels -/

/-- A token (R120, R158): a word token's payload in bits 63:0, or sixteen lanes with lane i in bits 32i + 31:32i; a
word token has no lane-valid mask (0). -/
structure Token where
  payload : BitVec 512
  valid : Mask
  code : BitVec 3
  deriving DecidableEq, Repr

/-- The agents a fence, token or command may have to reach (R95, R153). -/
inductive Scope where
  | core | cluster | field | wafer | system
  deriving DecidableEq, Repr

/-- One end of a channel (R155, R148, R79, R203). -/
inductive ChanEnd where
  | port (cid ctx port : Nat)
  | window (graph n : Nat)
  | service (cid n : Nat)
  | ocall (cid : Nat)
  | mcast (cid group : Nat)
  | barrier (bar : Nat)
  deriving DecidableEq, Repr

/-- A token sent and held at its source until the writes `pend` of its sender are visible (R312) and, for a token of a pass of the
vat, until the cycles given have passed from CYCLE of its issue (R146, R147). -/
structure HeldToken where
  tok : Token
  pend : List Nat
  after : Option (Word × Nat)
  deriving DecidableEq, Repr

/-- A bound channel with everything on its way (R155, R158, R194). `free` is the source's free-space counter, `owed`
the credits the destination holds back, `credits` the credit packets in flight; `sent` and `dent` are the entries it
takes in the output table of its source core and the input table of its destination core (log entry 9). -/
structure Channel where
  bound : Bool
  graph : Nat
  src : ChanEnd
  dst : ChanEnd
  depth : Nat
  cons : Nat
  prod : Nat
  prio : Nat
  vec : Bool
  seng : Option Nat
  deng : Option Nat
  held : List HeldToken
  flight : List Token
  limited : Bool
  queue : List Token
  free : Nat
  owed : Nat
  credits : List Nat
  sent : Nat
  dent : Nat
  /-- how many of the oldest tokens, and of the oldest credit packets, in flight have passed a link or router that has failed
  since (R207, R247; log entry 10) -/
  past : Nat
  creditsPast : Nat
  /-- the circuit of a vector channel between two clusters, numbered within its graph, and its sub-channel (R196, R197) -/
  circuit : Option (Nat × BitVec 3)
  /-- the rind port and its virtual channel that a channel between two wafers is bound to (R278) -/
  rind : Option (Nat × Nat)
  deriving DecidableEq, Repr

/-! ## Contexts -/

/-- The prefixes latched for the next word, and the word index of the first of them (R31, R32). -/
structure Chain where
  start : Option (BitVec 6)
  ext : Option (BitVec 25)
  fmt : Option (BitVec 25)
  scl : Option (BitVec 25)
  rnd : Option (BitVec 25)
  deriving DecidableEq, Repr

/-- No prefix pending. -/
def Chain.empty : Chain := ⟨none, none, none, none, none⟩

/-- Why a context is parked (R65, R167, R296, R342, R376). -/
inductive Park where
  | none
  /-- on empty scalar registers, until all of them are full (R10, R65) -/
  | regs (rs : List Reg)
  /-- on a full press queue (R342) -/
  | press
  /-- on the tile copies of R356, with the tile the instruction names -/
  | tile (m : Option (BitVec 3))
  /-- on eight outstanding chases (R376) -/
  | chase
  /-- on the TLB miss of this number (R295) -/
  | miss (id : Nat)
  /-- on a translation fault (R296) -/
  | fault
  deriving DecidableEq, Repr

/-- A reply a context waits for: which network answer, register and sequence number (R83, R375). -/
inductive Await where
  | reply (reg : Reg) (seq : BitVec 10)
  | read (reg : Reg) (msg : Nat)
  | chase (reg : Reg) (cseq : BitVec 10)
  deriving DecidableEq, Repr

/-- The bank and task state of one context (R8, R12, R13, R160). -/
structure Context where
  s : Vector Word 32
  full : Vector Bool 32
  v : Vector Lanes 32
  k : Vector Mask 8
  f : Vector (BitVec 32) 16
  e : Vector (BitVec 256) 32
  status : Word
  prec : Word
  cause : Word
  faddr : Word
  epc : Word
  ctxid : Word
  tvec : Word
  rseed : Word
  pladder : Word
  pbudget : Word
  gen : Vector (BitVec 32) 16
  seq : BitVec 10
  cseq : BitVec 10
  awaits : List Await
  bound : Bool
  /-- handler number to the pool offset of the block's header word (R24, R154) -/
  handlers : List (BitVec 16 × Nat)
  /-- the greatest WIN among the actor's blocks (R385) -/
  window : Nat
  saveBase : Nat
  inPort : Vector (Option Nat) 16
  outPort : Vector (Option Nat) 16
  firing : Bool
  endFiring : Bool
  consRem : Vector (BitVec 8) 16
  prodRem : Vector (BitVec 8) 16
  handler : BitVec 16
  /-- index of the next word, 0 to 64 -/
  word : BitVec 7
  chain : Chain
  park : Park
  /-- stopped by an unhandled trap or the halt of its region (R19, R174) -/
  stopped : Bool
  /-- saved with its region (R178) -/
  saved : Bool
  /-- entries of each input queue that the save frame holds (R178) -/
  framed : Vector Nat 16
  /-- which free bytes the save wrote into its frame for the bank, and for the firing state (R178; log entry 7) -/
  frameSeed : Nat × Nat
  /-- end-of-invocation steps run since the load (R162, R175) -/
  invocations : Nat
  /-- the address and DETAIL of the protection fault that a walk made for this context ended with (R294) -/
  walked : Option (Nat × BitVec 8)
  /-- a source actor's one firing of the present invocation has been granted (R161) -/
  sourceFired : Bool
  /-- the number the next message had when the present firing was granted: its own messages have it or a higher one (R90) -/
  firedAt : Nat
  deriving DecidableEq, Repr

/-! ## Engines, press, messages -/

/-- The engine states of R210. -/
inductive EngState where
  | closed | opened | running | waitPort | waitXlate | halted | paused
  deriving DecidableEq, Repr

/-- What an engine's command does (R221, R226, R227). -/
inductive EngCmd where
  | stream | copy | fill | splice
  deriving DecidableEq, Repr

/-- A stream engine (R210 to R230). `idx` counts elements (or beats) of the round, `sOff` and `dOff` the byte offsets
of an EFM run, `lanes` the lanes of a token begun on a port sink, `srcLanes` those left of the last token popped. `raw`
holds codes or bytes read and not yet converted, `got` codes or bytes that wait to be written (R215, R226). `runs` holds the places, translated, that an access made in pieces has still to reach, and `part` the bytes that it has
read of a unit of elements (R300, R319). -/
structure Engine where
  st : EngState
  /-- the state that a halt by pre-emption left, for the resume (R230) -/
  before : EngState
  /-- the channel whose token or credit an engine in state 3 waits for (R210) -/
  waits : Option Nat
  holder : Option (BitVec 4)
  cmd : EngCmd
  record : Vector Word 9
  desc : Vector Word 4
  dreg : Reg
  idx : Nat
  sOff : Nat
  dOff : Nat
  lanes : List Lane
  srcLanes : List Lane
  raw : List Nat
  got : List Nat
  runs : List (Nat × Nat)
  part : List Nat
  roundsRun : Nat
  elems : Nat
  parm : Option Word
  /-- the holder's invocations when the engine paused at a marker (R216) -/
  pausedAt : Nat
  /-- KIND of the present or last command (R225) -/
  kind : BitVec 4
  /-- the command has ended with this KIND and address and waits for its REL condition (R225) -/
  ending : Option (BitVec 4 × Word)
  /-- between two rounds (R217) -/
  boundary : Bool
  /-- writes of the holder that ACQ waits for (R228) -/
  acq : List Nat
  /-- the engine's own message writes not yet visible (R228) -/
  writes : List Nat
  /-- the TLB miss this engine waits for (R229, R295) -/
  waitMiss : Option Nat
  deriving DecidableEq, Repr

/-- Where a press command stands (R337, R342, R352). -/
inductive PressPhase where
  | queued | running | committing
  deriving DecidableEq, Repr

/-- A queued `pmm` or `tnorm` with what it captured (R337, R341, R342). -/
structure PressCmd where
  isPmm : Bool
  ctx : BitVec 4
  graph : BitVec 16
  dreg : Reg
  cmdWord : Word
  bWord : Word
  ladder : Word
  budget : Word
  fscale : BitVec 32
  hdrA : Word
  hdrB : Word
  shape : Word
  tile : BitVec 3
  acc : BitVec 2
  zt : Bool
  phase : PressPhase
  rung : Nat
  replays : Nat
  chkr : Nat
  /-- the pass running is the checksum rerun of its rung (R353) -/
  rerun : Bool
  rst : Bool
  atk : Bool
  err : Bool
  scnt : Nat
  ucnt : Nat
  ccnt : Nat
  bex : Bool
  snapshot : List (Nat × BitVec 80)
  /-- the result buffer at the array's edge, from what it holds at the start of a pass: cell number to FP32 bits (R349) -/
  result : List (Nat × BitVec 32)
  acq : List Nat
  /-- cycles of the core's clock that must pass before the next thing happens to it: its start, the end of its pass, the filling of
  its register (R340) -/
  left : Nat
  /-- held by a pre-emption and released by the resume: it re-enters the queue when an entry is free (R342, R357) -/
  back : Bool
  deriving DecidableEq, Repr

/-- A mould slot (R330, R334). -/
structure Mould where
  word : Word
  owner : BitVec 4
  scaleBase : Nat
  scl : Option (BitVec 25)
  fifo : List Lane
  deriving DecidableEq, Repr

/-- The atomic operations of R88. -/
inductive AmoOp where
  | add | and | or | xor | min | max | minu | maxu | swap | cas | faddF32 | faddBf16
  deriving DecidableEq, Repr

/-- A chase packet (R374). -/
structure ChasePacket where
  dest : Nat
  steps : List (BitVec 32)
  step : Nat
  asn : BitVec 16
  va : Nat
  rcid : Nat
  rctx : BitVec 4
  rreg : Reg
  cseq : BitVec 10
  roff : Nat
  /-- an address that waits for translation: the next step's, the read of this hop performed, or one in a later page of an
  EFM result (R378, R380) -/
  waiting : Option Nat
  /-- bytes of an EFM result read so far, and whether a piece is asked for at another column's port (R380) -/
  got : List Byte
  asked : Bool
  /-- where the later page of an EFM result has translated to: the wafer address of its first byte there (R300, R380) -/
  later : Option Nat
  deriving DecidableEq, Repr

/-- What a message asks or answers (R81 to R93, R375). Addresses are wafer addresses. -/
inductive MsgBody where
  | request (service : Nat) (tag payload : Word)
  | ocall (tag va payload : Word) (addr : Nat)
  | load (addr size : Nat) (signed : Bool) (reg : Reg)
  | store (addr size : Nat) (value : Word)
  | subStore (addr pos width : Nat) (value : Word)
  | amo (op : AmoOp) (addr size : Nat) (operand compare : Word) (reg : Reg)
  /-- a write performed at a forwarding port, on its way to the home (R303) -/
  | forward (addr size : Nat) (value : BitVec 256)
  | mcast (group : Nat) (payload : Word)
  | answer (tag value : Word)
  | readReply (reg : Reg) (req : Nat) (value : Word)
  | chase (p : ChasePacket)
  /-- a piece of the EFM result of a chase, asked for at the column that holds it, and its bytes (R380) -/
  | chasePiece (chase addr size : Nat)
  | pieceReply (chase : Nat) (bytes : List Byte)
  | chaseReply (rctx : BitVec 4) (reg : Reg) (cseq : BitVec 10) (roff : Nat) (status value : Word) (efm : List Byte)
  deriving DecidableEq, Repr

/-- A message on its way: its number, sender and destination core, the sender's context and graph, the network
(R77, R189), whether it still holds its send-queue entry, the writes it waits for before it leaves (R314), and the
engine it acts for, if any. -/
structure Msg where
  id : Nat
  src : Nat
  dst : Nat
  ctx : BitVec 4
  graph : BitVec 16
  whey : Bool
  entry : Bool
  pend : List Nat
  engine : Option Nat
  /-- the core whose forwarding port sent it on (R303) -/
  via : Option Nat
  /-- CYCLE of its core when it was issued (R182) -/
  born : Word
  /-- it has passed a link or router of its way that has failed since (R207, R247; log entry 10) -/
  past : Bool
  body : MsgBody
  deriving DecidableEq, Repr

/-- A fence outstanding (R95): the writes it waits for and whether it asks for visibility. -/
structure Fence where
  id : Nat
  cid : Nat
  ctx : BitVec 4
  reg : Reg
  vis : Bool
  scope : Scope
  pend : List Nat
  deriving DecidableEq, Repr

/-- A copy of a multicast packet about to be handled at a router (R198): mesh position, arrival side, hop count, the
entry latched at its head flit if it has been, and the message it is a copy of. -/
structure McastPacket where
  id : Nat
  origin : Nat
  x : Nat
  y : Nat
  from_ : Option Dir
  hops : Nat
  group : Nat
  payload : Word
  sender : Nat
  sctx : BitVec 4
  /-- the copy stands at a member core's service queue -/
  member : Option Nat
  deriving DecidableEq, Repr

/-- A multicast packet as a whole (R200): its message's number, its group and the mesh position of its sender's router on its
wafer; the members under the entries it started with; those that have received it; whether an entry of the group has been
written since. -/
structure Mcast where
  origin : Nat
  wafer : Nat
  group : Nat
  at_ : Nat × Nat
  old : List Nat
  got : List Nat
  changed : Bool
  deriving DecidableEq, Repr

/-- An ocall hold of an owner's comparator (R90). -/
structure Hold where
  addr : Nat
  tag : Word
  cid : Nat
  ctx : BitVec 4
  /-- once answered or done: the messages of the firing, by their numbers from the first to before the second, pass the
  hold until it ends -/
  mine : Nat × Nat
  /-- once answered or done: the writes that are still to be visible (true) or accepted (false) before the hold
  ends (R314) -/
  ends : Option (Bool × List Nat)
  deriving DecidableEq, Repr

/-- A splice of a column port (R227, R303): old piece base, bytes, new frame, copy complete. -/
structure Splice where
  /-- the engine that copies -/
  eng : BitVec 2
  old : Nat
  len : Nat
  new : Nat
  copied : Nat
  complete : Bool
  /-- KIND 6 was written: the port forwards writes and performs accesses at the old pieces (R306) -/
  aborted : Bool
  deriving DecidableEq, Repr

/-! ## Translation -/

/-- A TLB entry (R293). `size` is the leaf's level, 3, 2 or 1. -/
structure TlbEntry where
  asn : BitVec 16
  page : Nat
  level : Nat
  addr : Nat
  rd : Bool
  w : Bool
  d : Bool
  deriving DecidableEq, Repr

/-- Who waits for a translation (R295, R298). -/
inductive Waiter where
  | context (cid ctx : Nat)
  | engine (cid g : Nat)
  | chase (msg : Nat)
  deriving DecidableEq, Repr

/-- A miss of a core TLB (R295). -/
structure Miss where
  id : Nat
  hub : Nat
  waiter : Waiter
  asn : BitVec 16
  va : Nat
  read : Bool
  write : Bool
  operand : BitVec 8
  deriving DecidableEq, Repr

/-- A walk in progress (R292): the level whose entry is read next and the address of its node. -/
structure Walk where
  asn : BitVec 16
  va : Nat
  read : Bool
  write : Bool
  level : Nat
  node : Nat
  waiters : List Miss
  /-- it has found no leaf and freed its walker; its entry waits for the walks begun before it (R282) -/
  ended : Bool
  deriving DecidableEq, Repr

/-- A fault-buffer entry (R297). -/
structure FaultEntry where
  fva : Nat
  asn : BitVec 16
  level : Nat
  acc : BitVec 2
  src : BitVec 2
  /-- the contexts (core, context) in fault park on the entry; NCTX is their number -/
  ctxs : List (Nat × Nat)
  cores : BitVec 16
  eng : Word
  deriving DecidableEq, Repr

/-! ## Counters, log -/

/-- An event counter with its select (R269). -/
structure Counter where
  count : BitVec 48
  sel : Word
  deriving DecidableEq, Repr

/-- A log record (R268). -/
structure LogRec where
  cls : BitVec 8
  kind : BitVec 8
  wafer : BitVec 8
  detail : BitVec 8
  core : BitVec 16
  graph : BitVec 16
  addr : Word
  cause : Word
  faddr : Word
  epc : Word
  deriving DecidableEq, Repr

/-! ## Cores, hubs, fields -/

/-- A column's retraining (R252). -/
inductive Retrain where
  | idle | due | pausing
  deriving DecidableEq, Repr

/-- What an instruction's result lies in (R72, R146, R343, R370). -/
inductive Place where
  | s (r : Reg)
  | v (r : Reg)
  | k (r : BitVec 3)
  | f (r : Reg)
  | e (r : Reg)
  /-- the elastic window as `eprec` lays it out, and the flags of PREC (R366, R370) -/
  | window
  | flags
  /-- a filter bank, which a `vrun` may follow its `vcfg` by 4 cycles (R146) -/
  | bank (n : BitVec 4)
  /-- a tile with its shape and save area, an accumulator, a mould slot: false A, true B (R343) -/
  | tile (n : BitVec 3)
  | acc (n : BitVec 2)
  | mould (b : Bool)
  /-- every result and token push of the core's vat (R147), and every result of a context's elastic instructions (R370) up to the
  latest, which later ones follow -/
  | vat
  | elastic
  deriving DecidableEq, Repr

/-- A result of a context not yet available, and the cycles from the last issue after which an instruction that reads it may
issue (R72, R146, R343, R370). -/
structure Due where
  ctx : BitVec 4
  place : Place
  left : Nat
  deriving DecidableEq, Repr

/-- One core (R8, R13, R140, R165, R210, R330, R341, R342). -/
structure Core where
  ctxs : Vector Context 16
  partn : Word
  sqlim : Word
  cycle : Word
  tshape : Vector Word 8
  /-- a0 to a3: cell r × 128 + c to its value, cells not listed are 0 (R341) -/
  acc : Vector (List (Nat × BitVec 80)) 4
  accUser : Vector (Option (BitVec 4)) 4
  banks : Vector (Vector Word 6) 16
  moulds : Vector (Option Mould) 2
  pressQ : List PressCmd
  held : List PressCmd
  engines : Vector Engine 4
  prioCtr : Vector (BitVec 4) 48
  /-- the context of the present or last turn, and whether the turn runs (R165) -/
  current : BitVec 4
  turn : Bool
  /-- cycles from the last issue, or the end of the last turn, that must pass before the next issue, and the results not yet
  available (R72, R146) -/
  gap : Nat
  due : List Due
  counters : Vector Counter 4
  replyBuf : List Msg
  arrive : Vector Bool 8
  tlb : List TlbEntry
  /-- the chase station, and the spill area as the packets in it, oldest first, each with its place there (R377) -/
  station : List Nat
  spill : List (Nat × Nat)
  /-- chases whose hop read the port has taken and not performed, in the order of their arrival (R378) -/
  unread : List Nat
  holds : List Hold
  splices : List Splice
  /-- graphs loaded on the core (R170) -/
  users : List Nat
  /-- code bytes in use: graph, offset, length (R170) -/
  code : List (Nat × Nat × Nat)
  retrain : Retrain
  busFailed : Bool
  deriving DecidableEq, Repr

/-- A cluster hub with its router's tables (R198, R293 to R297). -/
structure Hub where
  tlb : List TlbEntry
  walks : List Walk
  queue : List Miss
  faults : List FaultEntry
  drop : Bool
  counters : Vector Counter 8
  /-- multicast entries written: group to entry, others 0 (R198) -/
  mcast : List (Nat × BitVec 32)
  deriving DecidableEq, Repr

/-- A field (R254, R262, R269). -/
structure Field where
  counters : Vector Counter 8
  frate : Word
  admitted : Nat
  step : BitVec 3
  /-- periods that must pass before the next may be stretched (R255) -/
  unstretched : Nat
  deriving DecidableEq, Repr

/-- A barrier tree (R202 to R205). -/
structure Barrier where
  bound : Bool
  graph : Nat
  ident : BitVec 3
  all : Bool
  prio : Nat
  members : List Nat
  done : List Nat
  episode : Word
  /-- cores the release of the present episode has not reached -/
  releasing : List Nat
  deriving DecidableEq, Repr

/-! ## Regions -/

/-- Region states with their GSTAT codes' order (R172, R174, R264). -/
inductive RegionState where
  | unloaded | configuring | loaded | running | quiescing | halting | saved | editing | halted
  deriving DecidableEq, Repr

/-- A bound channel window of a graph (R148, R265). -/
structure Window where
  n : Nat
  chan : Nat
  sink : Bool
  /-- markers pushed or popped (R171, R175) -/
  markers : Nat
  /-- a data token has been pushed since the last marker: its invocation has opened (R177) -/
  begun : Bool
  deriving DecidableEq, Repr

/-- An actor's place (R151). -/
structure ActorPlace where
  cid : Nat
  ctx : BitVec 4
  deriving DecidableEq, Repr

/-- A graph and its region (R169 to R175, R288). -/
structure Graph where
  num : BitVec 16
  st : RegionState
  pager : Bool
  root : Option Nat
  actors : List ActorPlace
  cores : List Nat
  windows : List Window
  /-- invocations asked for by the launches so far (R171) -/
  launched : Nat
  /-- under pre-emption no invocation beyond this one opens (R177) -/
  cap : Option Nat
  ended : Nat
  /-- an edit waits, with the bytes of its image (R173) -/
  edit : Option (List Byte)
  digest : BitVec 512
  /-- pool and DRAM ranges its .data wrote: key and length (R170) -/
  data : List (Nat × Nat)
  /-- what the configuration has still to write into DRAM columns: `.data` and cleared save headers, by wafer address (R170,
  R252) -/
  writes : List (Nat × List Byte)
  /-- multicast groups with their member cores (R199) -/
  groups : List (Nat × List Nat)
  moved : Bool
  /-- a resume has been accepted and waits for the ports to the save frames (R252) -/
  resuming : Bool
  deriving DecidableEq, Repr

/-! ## The wafer and the module -/

/-- A trained rind port of this wafer, 0 to 127, with the wafer and port it leads to (R278). -/
structure Rind where
  port : Nat
  wafer : BitVec 5
  peer : Nat
  deriving DecidableEq, Repr

/-- What self-test finds, in physical coordinates (R237): bad slots (field, cluster, slot), bad clusters (field,
cluster), bad DRAM regions (field, cluster, slot, layer, region; 64 to 67 are the spares), fields whose PLL fails. -/
structure Defects where
  slots : List (Nat × Nat × Nat)
  clusters : List (Nat × Nat)
  dram : List (Nat × Nat × Nat × Nat × Nat)
  plls : List Nat
  /-- routers that fail (field, cluster): their cluster is out of service, and outside an in-service field the start
  fails (R237) -/
  routers : List (Nat × Nat)
  /-- steps of a start that fail: 4 (tables), 5 (retention), 7 (links), 8 (firmware) (R274) -/
  steps : List Nat
  /-- the rind ports that train at step 7, with their peers (R278) -/
  rinds : List Rind
  deriving DecidableEq, Repr

/-- MSTATE's state codes (R272). -/
inductive MState where
  | off | starting | running | hold
  deriving DecidableEq, Repr

/-- A clock-step change under way (R254). -/
structure StepChange where
  new : BitVec 3
  /-- the wave count at which the fields switch, once the wave has been sent -/
  at_ : Option Nat
  acked : List Nat
  /-- acknowledged; no second change for 100 µs -/
  settling : Bool
  deriving DecidableEq, Repr

/-- An invalidation running (R301). -/
structure Inval where
  asn : BitVec 16
  size : BitVec 2
  vpn : BitVec 36
  ret : Bool
  deriving DecidableEq, Repr

/-- What the host has at the place of a channel window: payload bytes, TAG and OVR, bound or not (R265). -/
structure Pane where
  payload : BitVec 512
  tag : Word
  ovr : Bool
  deriving DecidableEq, Repr

/-- A table reconfigure asked for and not begun: by the host or the management port, with its change list (R246,
R272). -/
structure Reconfigure where
  host : Bool
  changes : List Byte
  deriving DecidableEq, Repr

/-- The module controller and the host's registers (R254, R258, R263 to R278). -/
structure Module where
  mst : MState
  /-- the rails are on -/
  powered : Bool
  /-- a start that runs is a warm start (R274) -/
  warm : Bool
  step : BitVec 3
  /-- the step the management port last set (R258) -/
  setStep : BitVec 3
  railMv : Nat
  /-- the wave counters of the wafer's fields: a start sets them equal and they advance together (R254) -/
  wave : Nat
  change : Option StepChange
  reconfigure : Option Reconfigure
  failedStarts : Nat
  starts : Nat
  reqsig : Bool
  wafer : BitVec 5
  nextWafer : BitVec 5
  keys : List (Nat × List Byte)
  seqs : List (Nat × Nat)
  graphKeys : List (Nat × List Byte)
  m0 : BitVec 512
  m1 : BitVec 512
  m2 : BitVec 512
  log : List LogRec
  /-- the log in host memory: slot, 0 to 959, to the record last written there (R268) -/
  slots : List (Nat × LogRec)
  head : Nat
  reqstat : Word
  gsel : BitVec 16
  tlbold : BitVec 48
  invstat : Word
  inval : Option Inval
  staging : List Byte
  /-- graph × 64 + window to its bytes (R265) -/
  panes : List (Nat × Pane)
  /-- the bytes that the last host read with an effect, or the last management record, was answered with (R266, R273) -/
  reply : List Byte
  /-- signals of the MSI-X vectors 0 (a new log record) and 1 (a completed request) since the start (R263) -/
  signals : Nat × Nat
  /-- the rind ports that trained at the start, with the peers they learned (R278) -/
  rinds : List Rind
  deriving DecidableEq, Repr

/-! ## The whole machine -/

/-- What an error is found in (R259, R260): a pool, DRAM, or a table with parity: a configuration bank, a channel table or
a router table. -/
inductive Store where
  | pool | dram | table
  deriving DecidableEq, Repr

/-- What is marked besides bytes of memory (R259, R260): a register of a bank or window, a token of a queue counted from its head, a
configuration bank, a channel-table entry, or a multicast entry of a router. -/
inductive Spot where
  | reg (cid : Nat) (ctx : BitVec 4) (place : Place)
  | entry (chan n : Nat)
  | config (cid : Nat) (bank : BitVec 4)
  | chan (n : Nat)
  | router (hub group : Nat)
  deriving DecidableEq, Repr

/-- Whose access finds it (R260): the next instruction of a core's running turn, a message at its owner's port, an engine, a
walk of a hub, or an access made on the behalf of a graph, such as a save or a selection. -/
inductive Accessor where
  | pipe (cid : Nat)
  | message (id : Nat)
  | engine (cid g : Nat)
  | walk (hub i : Nat)
  | behalf (cid : Nat) (graph : BitVec 16)
  deriving DecidableEq, Repr

/-- What the environment does next (log entry 1): an event of the opcode table happens, the pipe of another core is looked
at, an access finds an error that it corrects or that is beyond correction, at an address or in what `Spot` names, a TLB entry of a
core or hub fails its parity (R259, R260), or events come between the pieces of the focus core's next instruction, which is no single access: before the
piece of the number given with each (R319). -/
inductive Input where
  | event (i : Instr)
  | focus (cid : Nat)
  | memoryError (who : Accessor) (store : Store) (addr : Nat) (bad : Bool)
  | spotError (who : Accessor) (spot : Spot) (addr : Nat)
  | tlbError (hub : Bool) (n i : Nat)
  | within (cuts : List (Nat × Instr))
  deriving DecidableEq, Repr

/-- The machine: memory, every agent, everything in flight, and the model's own schedule (`inputs`, `focus`, `tick`,
`nextId`; log entries 1 and 2). -/
structure State where
  mem : List Host.Cell
  cores : List (Nat × Core)
  hubs : List (Nat × Hub)
  fields : List (Nat × Field)
  tables : List (Nat × Tables)
  chans : List Channel
  net : List Msg
  fences : List Fence
  packets : List McastPacket
  misses : List Miss
  /-- the tokens (false) and word-plane credits (true) in the fabric by their channels, in the order in which they entered
  (R193, R196) -/
  beats : List (Nat × Bool)
  /-- multicast packets that still have copies on their way (R200) -/
  mcasts : List Mcast
  barriers : List Barrier
  graphs : List Graph
  /-- the links with retries since a flit or beat last crossed them: the flit last retried, and its retries in a row (R207) -/
  badLinks : List (Link × Nat × Nat)
  failedLinks : List Link
  failedRouters : List Nat
  /-- the bytes that an error beyond correction has been found in and that nothing has written since: their keys in `mem`, each
  with the wafer address at which it was found (R260) -/
  flaws : List (Nat × Nat)
  /-- the same for what is no byte of `mem`, with the address or table number reported (R260) -/
  spots : List (Spot × Nat)
  defects : Defects
  module : Module
  focus : Nat
  inputs : List Input
  tick : Nat
  nextId : Nat
  deriving DecidableEq, Repr

/-- Why a step stops with a fault. -/
inductive Fault where
  /-- Raised by `step` where a turn runs in a handler its actor does not have; no reachable state (R55, R70 check
  every transfer). Safe: the machine stops where the spec gives no word to issue. -/
  | noBlock
  deriving DecidableEq, Repr

/-- Why a step gives no meaning. -/
inductive Refusal where
  /-- The instruction has no meaning yet; no arm of `exec` answers it. Safe. -/
  | notModelled (mnemonic : String)
  deriving DecidableEq, Repr

/-! ## After reset -/

/-- The seed of lane generator i (R116). -/
def laneSeed (seed : Word) (i : Nat) : BitVec 32 :=
  let x := seed.extractLsb' 32 32 ^^^ seed.extractLsb' 0 32 ^^^ (0x9E3779B9#32 * BitVec.ofNat 32 (i + 1))
  if x = 0 then 1 else x

/-- The sixteen lane generators that a seed gives (R116). -/
def laneSeeds (seed : Word) : Vector (BitVec 32) 16 := Vector.ofFn fun i => laneSeed seed i.val

/-- A context with every register at its reset value (R8, R13); the lane generators of one to which no actor has been bound are those
of RSEED 0 (DESIGN CHOICE; log entry 3). -/
def Context.reset (n : BitVec 4) : Context where
  s := Vector.replicate 32 0
  full := Vector.replicate 32 true
  v := Vector.replicate 32 (Vector.replicate 16 0)
  k := (Vector.replicate 8 0).set 0 0xFFFF
  f := Vector.replicate 16 0
  e := Vector.replicate 32 0
  status := 0
  prec := 0x18
  cause := 0
  faddr := 0
  epc := 0
  ctxid := n.setWidth 64
  tvec := 0
  rseed := 0
  pladder := 0x108
  pbudget := 0x0000FFFFFFFFFFFF
  gen := laneSeeds 0
  seq := 0
  cseq := 0
  awaits := []
  bound := false
  handlers := []
  window := 0
  saveBase := 0
  inPort := Vector.replicate 16 none
  outPort := Vector.replicate 16 none
  firing := false
  endFiring := false
  consRem := Vector.replicate 16 0
  prodRem := Vector.replicate 16 0
  handler := 0
  word := 0
  chain := .empty
  park := .none
  stopped := false
  saved := false
  framed := Vector.replicate 16 0
  frameSeed := (0, 0)
  invocations := 0
  walked := none
  sourceFired := false
  firedAt := 0

/-- A closed engine (R210). -/
def Engine.reset : Engine where
  st := .closed
  before := .closed
  waits := none
  holder := none
  cmd := .stream
  record := Vector.replicate 9 0
  desc := Vector.replicate 4 0
  dreg := 0
  idx := 0
  sOff := 0
  dOff := 0
  lanes := []
  srcLanes := []
  raw := []
  got := []
  runs := []
  part := []
  roundsRun := 0
  elems := 0
  parm := none
  pausedAt := 0
  kind := 0
  ending := none
  boundary := false
  acq := []
  writes := []
  waitMiss := none

/-- A counter that counts nothing (R269). -/
def Counter.reset : Counter := ⟨0, 0⟩

/-- A core with no region on it (R13, R170). -/
def Core.reset : Core where
  ctxs := Vector.ofFn fun i => Context.reset (BitVec.ofNat 4 i.val)
  partn := 0
  sqlim := 0x1010
  cycle := 0
  tshape := Vector.replicate 8 0
  acc := Vector.replicate 4 []
  accUser := Vector.replicate 4 none
  banks := Vector.replicate 16 (Vector.replicate 6 0)
  moulds := Vector.replicate 2 none
  pressQ := []
  held := []
  engines := Vector.replicate 4 Engine.reset
  prioCtr := Vector.replicate 48 0
  current := 0
  turn := false
  gap := 1
  due := []
  counters := Vector.replicate 4 Counter.reset
  replyBuf := []
  arrive := Vector.replicate 8 false
  tlb := []
  station := []
  spill := []
  unread := []
  holds := []
  splices := []
  users := []
  code := []
  retrain := .idle
  busFailed := false

/-- A hub that has translated nothing (R293, R297). -/
def Hub.reset : Hub where
  tlb := []
  walks := []
  queue := []
  faults := []
  drop := false
  counters := Vector.replicate 8 Counter.reset
  mcast := []

/-- A field at step 6 (R253; log entry 4). -/
def Field.reset : Field where
  counters := Vector.replicate 8 Counter.reset
  frate := 0
  admitted := 0
  step := 6
  unstretched := 0

/-- The machine right after a completed start (R8, R13, R170, R274): no region loaded, every pool and DRAM byte 0,
the module running. What the spec gives no value for is named in log entries 3 and 4. -/
def State.reset : State where
  mem := []
  cores := []
  hubs := []
  fields := []
  tables := [(0, Tables.perfect)]
  chans := []
  net := []
  fences := []
  packets := []
  misses := []
  beats := []
  mcasts := []
  barriers := []
  graphs := []
  badLinks := []
  failedLinks := []
  failedRouters := []
  flaws := []
  spots := []
  defects := ⟨[], [], [], [], [], [], []⟩
  module := {
    mst := .running
    powered := true
    warm := false
    step := 6
    setStep := 6
    railMv := 650
    wave := 0
    change := none
    reconfigure := none
    failedStarts := 0
    starts := 1
    reqsig := false
    wafer := 0
    nextWafer := 0
    keys := []
    seqs := []
    graphKeys := []
    m0 := measure 0 Config.firmware
    m1 := measure 0 (Config.storedTables Tables.perfect.words)
    m2 := 0
    log := []
    slots := []
    head := 0
    reqstat := 0
    gsel := 0
    tlbold := 0
    invstat := 0
    inval := none
    staging := []
    panes := []
    reply := []
    signals := (0, 0)
    rinds := [] }
  focus := 0
  inputs := []
  tick := 0
  nextId := 0

end Sys2Proof.Machine
end

