-- ==== Sys2Proof/Machine/Num.lean ====
section
/-!
DEFINITION. Sys2Proof/Machine/Num.lean: exact numbers, the rounding modes and saturation rules, and every element
format to the bit (04 R97 to R118). One conversion is: read a code as an exact number, round it once, write a code.
-/

namespace Sys2Proof.Machine

/-- An exact value: (-1)^neg * man * 2^exp, an infinity, or the one quiet NaN (R102, R103, R110). A quotient or a
root carries more bits than any destination keeps, its last bit set when a remainder is left (R118). -/
inductive ExNum where
  | nan
  | inf (neg : Bool)
  | fin (neg : Bool) (man : Nat) (exp : Int)
  deriving DecidableEq, Repr

/-- Two to an integer power, floored. -/
def pow2 (e : Int) : Nat := 2 ^ e.toNat

/-- The exponent floor(log2 |v|) of a finite nonzero value (R360). -/
def ExNum.expOf (man : Nat) (exp : Int) : Int := (Nat.log2 man : Int) + exp

/-! ## Exact arithmetic -/

def ExNum.neg : ExNum → ExNum
  | .nan => .nan
  | .inf s => .inf (!s)
  | .fin s m e => .fin (!s) m e

def ExNum.abs : ExNum → ExNum
  | .nan => .nan
  | .inf _ => .inf false
  | .fin _ m e => .fin false m e

/-- A signed integer as an exact number; 0 is +0. -/
def ExNum.ofInt (i : Int) : ExNum := .fin (i < 0) i.natAbs 0

/-- The value of a finite number as a signed multiple of `2 ^ q`, for `q` at most its exponent. -/
def signedAt (neg : Bool) (man : Nat) (exp q : Int) : Int :=
  let m : Int := (man * pow2 (exp - q) : Nat)
  if neg then -m else m

/-- The exact sum of binary32 values (R49): a zero sum of unlike signs is +0, or -0 under RDN, as IEEE 754 has it. -/
def ExNum.add (rdn : Bool) : ExNum → ExNum → ExNum
  | .nan, _ => .nan
  | _, .nan => .nan
  | .inf s, .inf t => if s = t then .inf s else .nan
  | .inf s, .fin .. => .inf s
  | .fin .., .inf t => .inf t
  | .fin s m e, .fin t n f =>
    let q := min e f
    let v := signedAt s m e q + signedAt t n f q
    if v = 0 then .fin (if m = 0 && n = 0 && s == t then s else rdn) 0 0 else .fin (v < 0) v.natAbs q

/-- The exact sum of an elastic form: a zero sum is +0, or -0 under RDN, and (-0) + (-0) is -0, which R362 says of every
zero sum (log entry 66). -/
def ExNum.addE (rdn : Bool) (x y : ExNum) : ExNum :=
  match ExNum.add rdn x y with
  | .fin neg 0 e => .fin (neg || rdn) 0 e
  | r => r

/-- The exact product; 0 * ∞ is NaN (R362). -/
def ExNum.mul : ExNum → ExNum → ExNum
  | .nan, _ => .nan
  | _, .nan => .nan
  | .inf s, .inf t => .inf (s ^^ t)
  | .inf s, .fin t n _ => if n = 0 then .nan else .inf (s ^^ t)
  | .fin s m _, .inf t => if m = 0 then .nan else .inf (s ^^ t)
  | .fin s m e, .fin t n f => .fin (s ^^ t) (m * n) (e + f)

/-- The quotient, to more than 500 bits with a sticky last bit (R362). -/
def ExNum.div : ExNum → ExNum → ExNum
  | .nan, _ => .nan
  | _, .nan => .nan
  | .inf _, .inf _ => .nan
  | .inf s, .fin t _ _ => .inf (s ^^ t)
  | .fin s _ _, .inf t => .fin (s ^^ t) 0 0
  | .fin s m e, .fin t n f =>
    if n = 0 then (if m = 0 then .nan else .inf (s ^^ t))
    else
      let k := 512 + Nat.log2 n
      let a := m * 2 ^ k
      .fin (s ^^ t) (2 * (a / n) + (if a % n = 0 then 0 else 1)) (e - f - k - 1)

/-- The integer square root, bit by bit from bit `k - 1`. -/
def isqrtBits (n : Nat) : Nat → Nat → Nat
  | 0, r => r
  | k + 1, r => isqrtBits n k (if (r + 2 ^ k) * (r + 2 ^ k) ≤ n then r + 2 ^ k else r)

/-- The square root, to 300 bits or more with a sticky last bit (R362). -/
def ExNum.sqrt : ExNum → ExNum
  | .nan => .nan
  | .inf s => if s then .nan else .inf false
  | .fin s m e =>
    if m = 0 then .fin s 0 0
    else if s then .nan
    else
      let odd := e % 2
      let n := m * pow2 (600 + odd)
      let r := isqrtBits n (Nat.log2 n / 2 + 1) 0
      .fin false (2 * r + (if r * r = n then 0 else 1)) ((e - odd - 600) / 2 - 1)

/-- -1, 0, 1 for less, equal, greater of two numbers that are not NaN. -/
def ExNum.cmp : ExNum → ExNum → Int
  | .nan, _ => 0
  | _, .nan => 0
  | .inf s, .inf t => if s = t then 0 else if s then -1 else 1
  | .inf s, .fin .. => if s then -1 else 1
  | .fin .., .inf t => if t then 1 else -1
  | .fin s m e, .fin t n f => (signedAt s m e (min e f) - signedAt t n f (min e f)).sign

def ExNum.isNan : ExNum → Bool
  | .nan => true
  | _ => false

/-- The IEEE order used by compares: false when either is NaN (R49). -/
def ExNum.eqB (a b : ExNum) : Bool := !a.isNan && !b.isNan && ExNum.cmp a b == 0
def ExNum.ltB (a b : ExNum) : Bool := !a.isNan && !b.isNan && ExNum.cmp a b == -1
def ExNum.leB (a b : ExNum) : Bool := !a.isNan && !b.isNan && ExNum.cmp a b != 1

/-! ## Rounding -/

/-- The draw of a lane generator: its next state and the 16 bits returned (R116). -/
def drawNext (x : BitVec 32) : BitVec 32 :=
  let x := x ^^^ (x <<< 13)
  let x := x ^^^ (x >>> 17)
  x ^^^ (x <<< 5)

/-- Does a discarded part `lo` of `k` bits round away from zero (R114, R117)? An RNE tie goes to the even last bit, by
R114 and not by the example beside R118 (log entry 67). -/
def roundsUp (mode : BitVec 3) (draw : BitVec 16) (neg : Bool) (hi lo k : Nat) : Bool :=
  if lo = 0 then false
  else match mode.toNat with
    | 0 => decide (2 ^ k < 2 * lo) || (decide (2 * lo = 2 ^ k) && decide (hi % 2 = 1))
    | 1 => false
    | 2 => !neg
    | 3 => neg
    | 4 => decide (2 ^ k ≤ 2 * lo)
    | _ =>
      let d := lo * 65536 / 2 ^ k
      decide (draw.toNat < d) || (decide (d = draw.toNat) && decide (lo * 65536 % 2 ^ k ≠ 0))

/-- A magnitude rounded to a multiple of `2 ^ q`: the multiple (R114). -/
def roundAt (mode : BitVec 3) (draw : BitVec 16) (neg : Bool) (man : Nat) (exp q : Int) : Nat :=
  if q ≤ exp then man * pow2 (exp - q)
  else
    let k := (q - exp).toNat
    let hi := man / 2 ^ k
    hi + (if roundsUp mode draw neg hi (man % 2 ^ k) k then 1 else 0)

/-- Is a magnitude a multiple of `2 ^ q`? -/
def exactAt (man : Nat) (exp q : Int) : Bool := decide (q ≤ exp) || decide (man % pow2 (q - exp) = 0)

/-- Does an overflow go outward under rule 0 (R115)? -/
def outward (mode : BitVec 3) (neg : Bool) : Bool :=
  match mode.toNat with
  | 1 => false
  | 2 => !neg
  | 3 => neg
  | _ => true

/-! ## Floating formats -/

/-- A floating format of R102: exponent and fraction bits, bias, the code of the greatest finite magnitude, and the
magnitude codes of ∞ and of the NaN written. -/
structure FloatFmt where
  ebits : Nat
  fbits : Nat
  bias : Int
  maxCode : Nat
  inf : Option Nat
  nan : Option Nat
  deriving DecidableEq, Repr

def fmtE2M1 : FloatFmt := ⟨2, 1, 1, 7, none, none⟩
def fmtE2M3 : FloatFmt := ⟨2, 3, 1, 31, none, none⟩
def fmtE3M2 : FloatFmt := ⟨3, 2, 3, 31, none, none⟩
def fmtE4M3 : FloatFmt := ⟨4, 3, 7, 0x7E, none, some 0x7F⟩
def fmtE5M2 : FloatFmt := ⟨5, 2, 15, 0x7B, some 0x7C, some 0x7E⟩
def fmtFP16 : FloatFmt := ⟨5, 10, 15, 0x7BFF, some 0x7C00, some 0x7E00⟩
def fmtBF16 : FloatFmt := ⟨8, 7, 127, 0x7F7F, some 0x7F80, some 0x7FC0⟩
def fmtFP32 : FloatFmt := ⟨8, 23, 127, 0x7F7FFFFF, some 0x7F800000, some 0x7FC00000⟩
def fmtFP64 : FloatFmt := ⟨11, 52, 1023, 0x7FEFFFFFFFFFFFFF, some 0x7FF0000000000000, some 0x7FF8000000000000⟩

/-- The exponent of the least subnormal. -/
def FloatFmt.qmin (f : FloatFmt) : Int := 1 - f.bias - f.fbits

/-- The sign bit's place. -/
def FloatFmt.signBit (f : FloatFmt) : Nat := f.ebits + f.fbits

/-- The value of a code (R102, R103). -/
def FloatFmt.read (f : FloatFmt) (code : Nat) : ExNum :=
  let neg := code / 2 ^ f.signBit % 2 == 1
  let mag := code % 2 ^ f.signBit
  if mag ≤ f.maxCode then
    let e := mag / 2 ^ f.fbits
    let m := mag % 2 ^ f.fbits
    if e = 0 then .fin neg m f.qmin else .fin neg (2 ^ f.fbits + m) (f.qmin + e - 1)
  else if f.inf = some mag then .inf neg
  else .nan

/-- A magnitude code with a sign. -/
def FloatFmt.signed (f : FloatFmt) (neg : Bool) (mag : Nat) : Nat := (if neg then 2 ^ f.signBit else 0) + mag

/-- The code written for a NaN: sign 0, or +0 where the format has none or rule 2 holds (R103, R115). -/
def FloatFmt.nanCode (f : FloatFmt) (sat : BitVec 2) : Nat := if sat = 2 then 0 else f.nan.getD 0

/-- What a rounded conversion writes, and whether it overflowed and is inexact (R114, R115, R368). -/
structure Rounded where
  code : Nat
  ovf : Bool
  inexact : Bool
  deriving DecidableEq, Repr

/-- The magnitude code that a finite value rounds to, before the range of R115. A tie goes to the even last significand
bit (R114), so the tie 464 goes to 448 in E4M3 (log entry 67: an example of 04_number_formats says 480). -/
def FloatFmt.roundMag (f : FloatFmt) (mode : BitVec 3) (draw : BitVec 16) (neg : Bool) (man : Nat) (exp : Int) : Nat :=
  if man = 0 then 0
  else
    let q := max (ExNum.expOf man exp - f.fbits) f.qmin
    roundAt mode draw neg man exp q + (q - f.qmin).toNat * 2 ^ f.fbits

/-- A conversion into a floating format (R114, R115). -/
def FloatFmt.write (f : FloatFmt) (mode : BitVec 3) (sat : BitVec 2) (draw : BitVec 16) : ExNum → Rounded
  | .nan => ⟨f.nanCode sat, false, false⟩
  | .inf s =>
    if sat ≠ 0 then ⟨f.signed s f.maxCode, false, true⟩
    else match f.inf, f.nan with
      | some c, _ => ⟨f.signed s c, false, false⟩
      | none, some c => ⟨c, false, true⟩
      | none, none => ⟨f.signed s f.maxCode, false, true⟩
  | .fin s m e =>
    let mag := f.roundMag mode draw s m e
    if mag ≤ f.maxCode then
      let q := max (ExNum.expOf m e - f.fbits) f.qmin
      ⟨f.signed s mag, false, !(m == 0 || exactAt m e q)⟩
    else if sat = 0 && outward mode s then
      match f.inf, f.nan with
      | some c, _ => ⟨f.signed s c, true, true⟩
      | none, some c => ⟨c, true, true⟩
      | none, none => ⟨f.signed s f.maxCode, true, true⟩
    else ⟨f.signed s f.maxCode, true, true⟩

/-! ## Integers -/

/-- The integer a finite value rounds to (R114, R118). -/
def roundInt (mode : BitVec 3) (draw : BitVec 16) (neg : Bool) (man : Nat) (exp : Int) : Int :=
  let n : Int := roundAt mode draw neg man exp 0
  if neg then -n else n

/-- A value converted to an integer range: NaN is 0, what lies outside goes to the nearer end (R115). -/
def toIntRange (lo hi : Int) (mode : BitVec 3) (draw : BitVec 16) : ExNum → Int
  | .nan => 0
  | .inf s => if s then lo else hi
  | .fin s m e => max lo (min hi (roundInt mode draw s m e))

/-! ## Format codes (R98) -/

/-- What a format code names. -/
inductive Fmt where
  | int (bits : Nat) (signed : Bool)
  | tern
  | float (f : FloatFmt)
  | mxFloat (f : FloatFmt)
  | mxInt8
  | grouped (bits : Nat)
  | e8m0
  | efm
  | reserved
  deriving DecidableEq, Repr

/-- The table "Format codes" (R98). -/
def fmtOf (code : BitVec 5) : Fmt :=
  match code.toNat with
  | 0x00 => .int 2 true
  | 0x01 => .int 4 true
  | 0x02 => .int 4 false
  | 0x03 => .int 8 true
  | 0x04 => .int 8 false
  | 0x05 => .grouped 4
  | 0x06 => .grouped 8
  | 0x07 => .tern
  | 0x08 => .float fmtE2M1
  | 0x09 => .float fmtE2M3
  | 0x0A => .float fmtE3M2
  | 0x0B => .float fmtE4M3
  | 0x0C => .float fmtE5M2
  | 0x0D => .float fmtFP16
  | 0x0E => .float fmtBF16
  | 0x0F => .float fmtFP32
  | 0x10 => .mxFloat fmtE2M1
  | 0x11 => .mxFloat fmtE2M3
  | 0x12 => .mxFloat fmtE4M3
  | 0x13 => .mxInt8
  | 0x14 => .int 16 true
  | 0x15 => .int 32 true
  | 0x16 => .int 64 true
  | 0x17 => .e8m0
  | 0x18 => .efm
  | _ => .reserved

/-- Bits of one element (R98); 0 for EFM and reserved codes. -/
def Fmt.bits : Fmt → Nat
  | .int b _ => b
  | .tern => 2
  | .float f => f.ebits + f.fbits + 1
  | .mxFloat f => f.ebits + f.fbits + 1
  | .mxInt8 => 8
  | .grouped b => b
  | .e8m0 => 8
  | .efm => 0
  | .reserved => 0

/-- A code read as a signed or unsigned integer of `b` bits (R101). -/
def readInt (b : Nat) (signed : Bool) (code : Nat) : Int :=
  let c := code % 2 ^ b
  if signed && decide (2 ^ b ≤ 2 * c) then (c : Int) - 2 ^ b else c

/-- The value of an element code, scales apart (R101 to R108). A grouped code reads as its raw integer. -/
def Fmt.read (f : Fmt) (code : Nat) : ExNum :=
  match f with
  | .int b s => .ofInt (readInt b s code)
  | .tern => match code % 4 with
    | 1 => .fin false 1 0
    | 3 => .fin true 1 0
    | _ => .fin false 0 0
  | .float f => f.read code
  | .mxFloat f => f.read code
  | .mxInt8 => match ExNum.ofInt (readInt 8 true code) with
    | .fin s m e => .fin s m (e - 6)
    | x => x
  | .grouped b => .ofInt (readInt b false code)
  | .e8m0 => if code % 256 = 255 then .nan else .fin false 1 ((code % 256 : Nat) - 127 : Int)
  | .efm => .nan
  | .reserved => .nan

/-- The least and greatest value of an integer format (R101). -/
def intLo (b : Nat) (signed : Bool) : Int := if signed then -(2 ^ (b - 1) : Int) else 0
def intHi (b : Nat) (signed : Bool) : Int := if signed then 2 ^ (b - 1) - 1 else 2 ^ b - 1

/-- The E8M0 code of a value: rounding mode and rule are ignored (R105). -/
def writeE8M0 : ExNum → Nat
  | .nan => 0xFF
  | .inf _ => 0xFE
  | .fin _ m e => if m = 0 then 0 else (max 0 (min 254 (ExNum.expOf m e + 127))).toNat

/-- One conversion into an element format, scales apart (R115, R118): the code. -/
def Fmt.write (f : Fmt) (mode : BitVec 3) (sat : BitVec 2) (draw : BitVec 16) (x : ExNum) : Nat :=
  match f with
  | .int b s => (BitVec.ofInt b (toIntRange (intLo b s) (intHi b s) mode draw x)).toNat
  | .tern => (BitVec.ofInt 2 (toIntRange (-1) 1 mode draw x)).toNat
  | .float f => (f.write mode sat draw x).code
  | .mxFloat f => (f.write mode sat draw x).code
  | .mxInt8 => (BitVec.ofInt 8 (toIntRange (-128) 127 mode draw (match x with
    | .fin s m e => .fin s m (e + 6)
    | y => y))).toNat
  | .grouped b => (BitVec.ofInt b (toIntRange 0 (intHi b false) mode draw x)).toNat
  | .e8m0 => writeE8M0 x
  | .efm => 0
  | .reserved => 0

/-! ## binary32 -/

/-- The value of an FP32 pattern. -/
def f32 (x : BitVec 32) : ExNum := fmtFP32.read x.toNat

/-- A value rounded to FP32 under rule 0; NaN is 0x7FC0_0000 (R49, R103). -/
def toF32 (mode : BitVec 3) (draw : BitVec 16) (x : ExNum) : BitVec 32 :=
  BitVec.ofNat 32 (fmtFP32.write mode 0 draw x).code

/-- A value times a power of two, exactly. -/
def ExNum.scale (k : Int) : ExNum → ExNum
  | .fin s m e => .fin s m (e + k)
  | x => x

/-- fmin and fmax of R49: -0 below +0; the other operand where one is NaN. -/
def f32Less (a b : BitVec 32) : Bool :=
  (f32 a).ltB (f32 b) || ((f32 a).eqB (f32 b) && a.getLsbD 31 && !b.getLsbD 31)

def f32Min (a b : BitVec 32) : BitVec 32 :=
  match (f32 a).isNan, (f32 b).isNan with
  | true, true => 0x7FC00000
  | true, false => b
  | false, true => a
  | false, false => if f32Less b a then b else a

def f32Max (a b : BitVec 32) : BitVec 32 :=
  match (f32 a).isNan, (f32 b).isNan with
  | true, true => 0x7FC00000
  | true, false => b
  | false, true => a
  | false, false => if f32Less a b then b else a

/-! ## Elastic values (R109 to R113) -/

/-- Words that hold a significand of `p` bits (R109). -/
def efWords (p : Nat) : Nat := (p + 15 + 63) / 64

/-- An elastic register: word i in bits 64i + 63:64i. -/
abbrev Ereg := BitVec 256

def Ereg.word (x : Ereg) (i : Nat) : Word := x.extractLsb' (64 * i) 64

/-- The 240 fraction bits, the most significant first (R109). -/
def Ereg.frac (x : Ereg) : Nat :=
  (x.extractLsb' 0 48).toNat * 2 ^ 192 + (x.extractLsb' 64 64).toNat * 2 ^ 128 + (x.extractLsb' 128 64).toNat * 2 ^ 64
    + (x.extractLsb' 192 64).toNat

def Ereg.neg (x : Ereg) : Bool := x.getLsbD 63

/-- Sign, biased exponent and 240-bit fraction put into a register (R109). -/
def Ereg.make (neg : Bool) (e frac : Nat) : Ereg :=
  BitVec.ofNat 256 ((if neg then 2 ^ 63 else 0) + e * 2 ^ 48 + frac / 2 ^ 192 + frac / 2 ^ 128 % 2 ^ 64 * 2 ^ 64
    + frac / 2 ^ 64 % 2 ^ 64 * 2 ^ 128 + frac % 2 ^ 64 * 2 ^ 192)

/-- The canonical NaN (R110). -/
def Ereg.nan : Ereg := 0x7FFF800000000000

/-- The value of an elastic register (R110). -/
def Ereg.read (x : Ereg) : ExNum :=
  let e := (x.extractLsb' 48 15).toNat
  if e = 0 then .fin x.neg 0 0
  else if e = 0x7FFF then (if x.frac = 0 then .inf x.neg else .nan)
  else .fin x.neg (2 ^ 240 + x.frac) (e - 16383 - 240)

/-- The flags NV, OF, UF, NX as PREC<23:20> holds them (R17). -/
def flagNV : BitVec 4 := 8
def flagOF : BitVec 4 := 4
def flagUF : BitVec 4 := 2
def flagNX : BitVec 4 := 1

/-- A finite value of `bits` significant bits at most, `n * 2 ^ q`, written as an elastic register after the range
rules of R359; `p` is the length in force, `sub` whether underflow is to be looked at. -/
def efPlace (p : Nat) (mode : BitVec 3) (neg : Bool) (n : Nat) (q : Int) (inexact : Bool) : Ereg × BitVec 4 :=
  if n = 0 then (.make neg 0 0, if inexact then flagNX else 0)
  else
    let x := ExNum.expOf n q
    if 16383 < x then
      (if outward mode neg then .make neg 0x7FFF 0 else .make neg 0x7FFE (2 ^ 240 - 2 ^ (241 - p)), flagOF ||| flagNX)
    else if x < -16382 then (.make neg 0 0, flagUF ||| flagNX)
    else (.make neg (x + 16383).toNat (n * 2 ^ (240 - Nat.log2 n) % 2 ^ 240), if inexact then flagNX else 0)

/-- A value rounded to `m` significant bits and written at length `p` (R359, R364): the register and the flags. -/
def efRoundTo (p m : Nat) (mode : BitVec 3) (draw : BitVec 16) : ExNum → Ereg × BitVec 4
  | .nan => (.nan, 0)
  | .inf s => (.make s 0x7FFF 0, 0)
  | .fin s man e =>
    if man = 0 then (.make s 0 0, 0)
    else
      let q := ExNum.expOf man e - (m - 1 : Nat)
      efPlace p mode s (roundAt mode draw s man e q) q (!exactAt man e q)

/-- A value rounded to P (R359). -/
def efRound (p : Nat) (mode : BitVec 3) (draw : BitVec 16) (x : ExNum) : Ereg × BitVec 4 := efRoundTo p p mode draw x

/-- The least significand length that holds a register's value exactly (R365). -/
def Ereg.len (x : Ereg) : Nat :=
  match x.read with
  | .nan => 2
  | .inf _ => 0
  | .fin _ m _ => if m = 0 then 0 else
    -- 1 plus the index of the lowest set fraction bit; bit i is worth 2 ^ (240 - i)
    241 - (List.range 241).foldl (fun acc i => if acc = 241 ∧ m / 2 ^ i % 2 = 1 then i else acc) 241

/-- n of the shortest EFM store (R113, R365). -/
def Ereg.shortest (x : Ereg) : Nat :=
  match x.read with
  | .nan => 1
  | _ => (x.len - 1 + 7) / 8

/-- The bytes of an EFM value: n, the halfword, the fraction bytes with the most significant first (R111). -/
def efmBytes (neg : Bool) (e n frac : Nat) : List Byte :=
  let h := (if neg then 32768 else 0) + e
  [BitVec.ofNat 8 n, BitVec.ofNat 8 h, BitVec.ofNat 8 (h / 256)]
    ++ (List.range n).map fun i => BitVec.ofNat 8 (frac / 2 ^ (8 * (n - 1 - i)))

/-- An elastic store under field `n` (31: shortest): the bytes and the flags (R113). -/
def efmStore (n : Nat) (mode : BitVec 3) (draw : BitVec 16) (x : Ereg) : List Byte × BitVec 4 :=
  match x.read with
  | .nan =>
    let n' := if n = 31 ∨ n = 0 then 1 else n
    (efmBytes false 0x7FFF n' (2 ^ (8 * n' - 1)), 0)
  | .inf s => (efmBytes s 0x7FFF (if n = 31 then 0 else n) 0, 0)
  | .fin s m e =>
    if m = 0 then (efmBytes s 0 (if n = 31 then 0 else n) 0, 0)
    else
      let n' := if n = 31 then x.shortest else n
      let q : Int := e + 240 - 8 * n'
      let r := roundAt mode draw s m e q
      let nx := if exactAt m e q then 0 else flagNX
      let ex := ExNum.expOf r q
      if 16383 < ex then (efmBytes s 0x7FFF n' 0, flagOF ||| flagNX)
      else (efmBytes s (ex + 16383).toNat n' (r * 2 ^ (8 * n' - Nat.log2 r) % 2 ^ (8 * n')), nx)

/-- The bytes an EFM value at a place takes, from its byte 0 (R111, R112). -/
def efmSize (n : Nat) : Nat := if n ≤ 30 then 3 + n else 3

/-- The value of EFM bytes and whether it is malformed (R111, R112). -/
def efmRead (bytes : List Byte) : ExNum × Bool :=
  let n := (bytes.getD 0 0).toNat
  if 30 < n then (.nan, true)
  else
    let h := (bytes.getD 1 0).toNat + 256 * (bytes.getD 2 0).toNat
    let neg := 32768 ≤ h
    let e := h % 32768
    let frac := ((bytes.drop 3).take n).foldl (fun acc b => acc * 256 + b.toNat) 0
    if e = 0 then (.fin neg 0 0, false)
    else if e = 0x7FFF then (if frac = 0 then .inf neg else .nan, false)
    else (.fin neg (2 ^ (8 * n) + frac) (e - 16383 - 8 * n), false)

end Sys2Proof.Machine
end

