-- ==== Sys2Proof/Machine/Ops.lean ====
section
/-!
DEFINITION. Sys2Proof/Machine/Ops.lean: the named operations that every meaning is built from: memory by wafer
address, cores and contexts by number, counters, the log, machine checks, parking, taking a trap (R70) and going to
the next word (R24 to R26, R32).
-/

namespace Sys2Proof.Machine

/-- What a step answers. -/
abbrev Answer := Host.Outcome State Fault Refusal

/-! ## Memory (R23, R97, R249, R274, R287) -/

/-- A byte of a memory list; an address not listed reads 0 (R170, R274). -/
def memGet (m : List Host.Cell) (a : Nat) : Byte := (assocGet m a).getD 0

/-- A byte written, keeping the canonical form: addresses rise and no listed byte is 0. -/
def memSet : List Host.Cell → Nat → Byte → List Host.Cell
  | [], a, v => if v = 0 then [] else [(a, v)]
  | (k, y) :: rest, a, v =>
    if a < k then (if v = 0 then (k, y) :: rest else (a, v) :: (k, y) :: rest)
    else if a = k then (if v = 0 then rest else (a, v) :: rest)
    else (k, y) :: memSet rest a v

/-- The canonical form of memory: addresses strictly rise and no entry holds 0. -/
def Memory.wf : List Host.Cell → Bool
  | [] => true
  | [(_, x)] => x != 0
  | (k, x) :: (l, y) :: rest => k < l && x != 0 && Memory.wf ((l, y) :: rest)

/-- The core whose column or pool an address names: bits 46:26 (R287). -/
def addrCore (a : Nat) : Nat := a / 2 ^ 26 % 2 ^ 21

/-- Does an address name a pool (R287)? -/
def addrPool (a : Nat) : Bool := a / 2 ^ 47 % 2 == 1

/-- The wafer address of a pool byte (R287). -/
def poolAddr (cid off : Nat) : Nat := 2 ^ 47 + cid * 2 ^ 26 + off

/-- The wafer address of a byte of a core's column (R287). -/
def dramAddr (cid off : Nat) : Nat := cid * 2 ^ 26 + off

/-- The entry of a wafer's region remap that the bytes at an address of a column match (R249). -/
def Tables.remapAt (t : Tables) (a : Nat) : Option DrEntry :=
  ((assocGet t.dram (addrCore a % 65536)).getD []).find? fun e =>
    e.layer.toNat == a / 2 ^ 24 % 4 && e.region.toNat == a / 2 ^ 18 % 64

/-- The core whose column holds the spare region of an entry of core `cid` (R249, R250). -/
def DrEntry.lender (e : DrEntry) (cid : Nat) : Nat := if e.nb then cid / 16 * 16 + e.ncore.toNat else cid

/-- The key of a byte at address `a` under the tables of its wafer: the address, or the spare region that the column's region
remap names (R249). -/
def Tables.place (t : Tables) (a : Nat) : Nat :=
  if addrPool a then a
  else match t.remapAt a with
    | none => a
    | some e => 2 ^ 48 + ((e.lender (addrCore a) * 4 + e.slayer.toNat) * 4 + e.sreg.toNat) * 2 ^ 18 + a % 2 ^ 18

/-- The key of an address's byte in `State.mem` (R249). -/
def State.place (s : State) (a : Nat) : Nat :=
  match assocGet s.tables (addrCore a / 65536) with
  | none => a
  | some t => t.place a

/-- The core whose vertical bus carries an access: the lender's for a region remapped into another column (R250). -/
def State.busCore (s : State) (a : Nat) : Nat :=
  match (assocGet s.tables (addrCore a / 65536)).bind fun t => t.remapAt a with
  | none => addrCore a
  | some e => e.lender (addrCore a)

/-- The byte at a wafer address. -/
def State.readByte (s : State) (a : Nat) : Byte := memGet s.mem (s.place a)

/-- A byte stored at a wafer address; a cell once written reports no error any more (R260). -/
def State.writeByte (s : State) (a : Nat) (v : Byte) : State :=
  { s with mem := memSet s.mem (s.place a) v, flaws := s.flaws.filter fun x => x.1 != s.place a }

/-- `n` bytes from a wafer address. -/
def State.readBytes (s : State) (a : Nat) : Nat → List Byte
  | 0 => []
  | n + 1 => s.readByte a :: s.readBytes (a + 1) n

/-- Bytes stored from a wafer address. -/
def State.writeBytes (s : State) (a : Nat) : List Byte → State
  | [] => s
  | v :: rest => (s.writeByte a v).writeBytes (a + 1) rest

/-- Bytes as a little-endian number (R97). -/
def leNat : List Byte → Nat
  | [] => 0
  | b :: rest => b.toNat + 256 * leNat rest

/-- The low `n` bytes of a number, little-endian (R97). -/
def leBytes : Nat → Nat → List Byte
  | 0, _ => []
  | n + 1, x => BitVec.ofNat 8 x :: leBytes n (x / 256)

/-- A little-endian number of `n` bytes. -/
def State.readLE (s : State) (a n : Nat) : Nat := leNat (s.readBytes a n)

/-- A little-endian number of `n` bytes stored. -/
def State.writeLE (s : State) (a n x : Nat) : State := s.writeBytes a (leBytes n x)

/-- A range of bytes cleared to 0: every listed byte of it is dropped. -/
def memClear (m : List Host.Cell) (lo hi : Nat) : List Host.Cell := m.filter fun c => !(lo ≤ c.1 && c.1 < hi)

/-! ## Agents by number -/

/-- A core; one that nothing has touched is as at reset. -/
def State.core (s : State) (cid : Nat) : Core := (assocGet s.cores cid).getD Core.reset

def State.setCore (s : State) (cid : Nat) (c : Core) : State := { s with cores := assocSet s.cores cid c }

def State.modCore (s : State) (cid : Nat) (f : Core → Core) : State := s.setCore cid (f (s.core cid))

/-- The hub of a cluster, numbered by bits 46:30 of a wafer address. -/
def State.hub (s : State) (h : Nat) : Hub := (assocGet s.hubs h).getD Hub.reset

def State.setHub (s : State) (h : Nat) (x : Hub) : State := { s with hubs := assocSet s.hubs h x }

def State.modHub (s : State) (h : Nat) (f : Hub → Hub) : State := s.setHub h (f (s.hub h))

/-- A field, numbered by bits 46:36 of a wafer address. -/
def State.field (s : State) (n : Nat) : Field := (assocGet s.fields n).getD Field.reset

def State.setField (s : State) (n : Nat) (x : Field) : State := { s with fields := assocSet s.fields n x }

def State.modField (s : State) (n : Nat) (f : Field → Field) : State := s.setField n (f (s.field n))

/-- A context of a core. -/
def State.ctxAt (s : State) (cid : Nat) (n : BitVec 4) : Context := getV (s.core cid).ctxs n

def State.setCtxAt (s : State) (cid : Nat) (n : BitVec 4) (c : Context) : State :=
  s.modCore cid fun k => { k with ctxs := setV k.ctxs n c }

def State.modCtxAt (s : State) (cid : Nat) (n : BitVec 4) (f : Context → Context) : State :=
  s.setCtxAt cid n (f (s.ctxAt cid n))

/-- The core whose pipe issues. -/
def State.cur (s : State) : Core := s.core s.focus

/-- The number of the context that issues (R15, R165). -/
def State.who (s : State) : BitVec 4 := s.cur.current

/-- The context that issues. -/
def State.ctx (s : State) : Context := s.ctxAt s.focus s.who

def State.setCtx (s : State) (c : Context) : State := s.setCtxAt s.focus s.who c

def State.modCtx (s : State) (f : Context → Context) : State := s.setCtx (f s.ctx)

def State.modCur (s : State) (f : Core → Core) : State := s.modCore s.focus f

/-- A graph by its number (R169, R288). -/
def State.graph? (s : State) (g : BitVec 16) : Option Graph := s.graphs.find? fun x => x.num == g

/-- A graph's record changed. -/
def State.modGraph (s : State) (g : BitVec 16) (f : Graph → Graph) : State :=
  { s with graphs := s.graphs.map fun x => if x.num == g then f x else x }

/-- A bound channel by its number. -/
def State.chan? (s : State) (n : Nat) : Option Channel :=
  match s.chans[n]? with
  | some c => if c.bound then some c else none
  | none => none

def State.modChan (s : State) (n : Nat) (f : Channel → Channel) : State := { s with chans := s.chans.modify n f }

/-- A message in flight by its number. -/
def State.msg? (s : State) (id : Nat) : Option Msg := s.net.find? fun m => m.id == id

/-- A message gone from the network. -/
def State.dropMsg (s : State) (id : Nat) : State := { s with net := s.net.filter fun m => m.id != id }

/-- Is a message still in flight? -/
def State.inFlight (s : State) (id : Nat) : Bool := s.net.any fun m => m.id == id

/-- The graph number of a context (R19). -/
def Context.graph (c : Context) : BitVec 16 := c.ctxid.extractLsb' 16 16

/-- Is a logical core present: its wafer in the system, its field and its cluster in service (R76, R241)? -/
def State.present (s : State) (cid : Nat) : Bool :=
  match assocGet s.tables (cid / 65536) with
  | none => false
  | some t => ((t.fields[cid / 1024 % 64]?).join).isSome && !(t.outClusters.contains (cid / 16 % 4096))

/-! ## Event counters (R269, R270) -/

/-- Does a counter take an event of a source, from a context and graph where it carries them? -/
def Counter.takes (k : Counter) (code : Nat) (who : Option (BitVec 4 × BitVec 16)) : Bool :=
  k.sel.getLsbD 32 && decide ((k.sel.extractLsb' 0 10).toNat = code) &&
    match (k.sel.extractLsb' 30 2).toNat, who with
    | 0, _ => true
    | 1, some (c, _) => k.sel.extractLsb' 14 16 == c.setWidth 16
    | 2, some (_, g) => k.sel.extractLsb' 14 16 == g
    | _, _ => false

/-- A counter that takes an event `n` times adds it, modulo 2^48. -/
def Counter.bump (k : Counter) (code n : Nat) (who : Option (BitVec 4 × BitVec 16)) : Counter :=
  if k.takes code who then { k with count := k.count + BitVec.ofNat 48 n } else k

/-- An event of a core. -/
def State.count (s : State) (cid code : Nat) (who : Option (BitVec 4 × BitVec 16) := none) (n : Nat := 1) : State :=
  s.modCore cid fun k => { k with counters := k.counters.map fun x => x.bump code n who }

/-- An event of a cluster hub. -/
def State.countHub (s : State) (h code : Nat) (who : Option (BitVec 4 × BitVec 16) := none) : State :=
  s.modHub h fun k => { k with counters := k.counters.map fun x => x.bump code 1 who }

/-- An event of a field. -/
def State.countField (s : State) (f code : Nat) : State :=
  s.modField f fun k => { k with counters := k.counters.map fun x => x.bump code 1 none }

/-- The context and graph that an event of the issuing context carries. -/
def State.me (s : State) : Option (BitVec 4 × BitVec 16) := some (s.who, s.ctx.graph)

/-- An event of the issuing core and context. -/
def State.countMe (s : State) (code : Nat) (n : Nat := 1) : State := s.count s.focus code s.me n

/-! ## The log, machine checks and the halt of a region (R174, R261, R268) -/

/-- A record written into its slot, and vector 0 signalled: the management port reads the last 960 (R263, R268). -/
def State.report (s : State) (r : LogRec) : State :=
  { s with module := { s.module with
      log := (s.module.log ++ [r]).drop ((s.module.log.length + 1) - Config.logSize)
      slots := assocSet s.module.slots (s.module.head % Config.logSize) r
      head := (s.module.head + 1) % 2 ^ 32
      signals := (s.module.signals.1 + 1, s.module.signals.2) } }

/-- A machine-check record (R261, R268). -/
def State.machineCheck (s : State) (kind detail : BitVec 8) (cid : Nat) (graph : BitVec 16) (addr : Word)
    (cause faddr epc : Word := 0) : State :=
  s.report { cls := 1, kind, wafer := BitVec.ofNat 8 (cid / 65536), detail, core := BitVec.ofNat 16 cid, graph, addr,
             cause, faddr, epc }

/-- A fabric error event (R268). -/
def State.fabricError (s : State) (kind detail : BitVec 8) (cid : Nat) (graph : BitVec 16) (addr : Word) : State :=
  s.report { cls := 2, kind, wafer := BitVec.ofNat 8 (cid / 65536), detail, core := BitVec.ofNat 16 cid, graph, addr,
             cause := 0, faddr := 0, epc := 0 }

/-- Does a press command leave with its region: one whose commit has begun runs to its end (R352)? -/
def PressCmd.leaves (p : PressCmd) (g : BitVec 16) : Bool := p.graph == g && p.phase != .committing

/-- The halt of a region (R174): its state is halted and its press commands are gone, but one whose commit has begun. Its
turns, engines and barriers stop because each looks at this state. -/
def State.haltRegion (s : State) (g : BitVec 16) : State :=
  { s with
    graphs := s.graphs.map fun x => if x.num == g && x.st != .unloaded then { x with st := .halted } else x
    cores := s.cores.map fun (n, k) =>
      (n, { k with pressQ := k.pressQ.filter (fun p => !p.leaves g), held := k.held.filter (fun p => p.graph != g) }) }

/-! ## Registers (R8 to R10, R64) -/

/-- Scalar register r; s0 reads 0 (R9). -/
def Context.readS (c : Context) (r : Reg) : Word := if r = 0 then 0 else getV c.s r

/-- A scalar write, which also marks the register full; a write to s0 is discarded (R9, R64). -/
def Context.writeS (c : Context) (r : Reg) (x : Word) : Context :=
  if r = 0 then c else { c with s := setV c.s r x, full := setV c.full r true }

/-- The full/empty bit; s0 is always full (R9). -/
def Context.isFull (c : Context) (r : Reg) : Bool := decide (r = 0) || getV c.full r

/-- A register marked empty (R10, R63). -/
def Context.markEmpty (c : Context) (r : Reg) : Context := if r = 0 then c else { c with full := setV c.full r false }

/-- A register marked full (R63). -/
def Context.markFull (c : Context) (r : Reg) : Context := if r = 0 then c else { c with full := setV c.full r true }

/-- Mask register k; k0 reads 0xFFFF (R9). -/
def Context.readK (c : Context) (k : BitVec 3) : Mask := if k = 0 then 0xFFFF else getV c.k k

/-- A mask write; a write to k0 is discarded (R9). -/
def Context.writeK (c : Context) (k : BitVec 3) (x : Mask) : Context :=
  if k = 0 then c else { c with k := setV c.k k x }

def Context.readV (c : Context) (r : Reg) : Lanes := getV c.v r
def Context.writeV (c : Context) (r : Reg) (x : Lanes) : Context := { c with v := setV c.v r x }
def Context.readF (c : Context) (r : Reg) : BitVec 32 := getV c.f (r.setWidth 4)
def Context.writeF (c : Context) (r : Reg) (x : BitVec 32) : Context := { c with f := setV c.f (r.setWidth 4) x }
def Context.readE (c : Context) (r : Reg) : Ereg := getV c.e r
def Context.writeE (c : Context) (r : Reg) (x : Ereg) : Context := { c with e := setV c.e r x }

/-- A sticky flag of PREC set (R17, R359). -/
def Context.orFlags (c : Context) (f : BitVec 4) : Context := { c with prec := c.prec ||| (f.setWidth 64 <<< 20) }

/-- P, PMIN, PXE and RM of PREC (R17). -/
def Context.precP (c : Context) : Nat := (c.prec.extractLsb' 0 8).toNat
def Context.precMin (c : Context) : Nat := (c.prec.extractLsb' 8 8).toNat
def Context.precPxe (c : Context) : Bool := c.prec.getLsbD 16
def Context.precRm (c : Context) : BitVec 3 := c.prec.extractLsb' 17 3

/-- STATUS.INTRAP and STATUS.PRIO (R16). -/
def Context.inTrap (c : Context) : Bool := c.status.getLsbD 0
def Context.prio (c : Context) : Nat := (c.status.extractLsb' 8 6).toNat

/-- A field of a word replaced. -/
def putBits {n : Nat} (x : BitVec 64) (lo : Nat) (v : BitVec n) : BitVec 64 :=
  (x &&& ~~~((BitVec.allOnes n).setWidth 64 <<< lo)) ||| (v.setWidth 64 <<< lo)

/-- One draw from a lane generator where a rounding is made in STO mode, else none (R116). -/
def Context.drawFor (c : Context) (mode : BitVec 3) (lane : BitVec 4) : BitVec 16 × Context :=
  if mode = 5 then
    let x := drawNext (getV c.gen lane)
    (x.extractLsb' 16 16, { c with gen := setV c.gen lane x })
  else (0, c)

/-! ## Prefixes in force (R31) -/

/-- The rounding mode: that of `rnd`, else the default given. -/
def Chain.mode (c : Chain) (dflt : BitVec 3) : BitVec 3 :=
  match c.rnd with
  | some p => p.extractLsb' 22 3
  | none => dflt

/-- The saturation rule of `rnd`, else rule 0. -/
def Chain.sat (c : Chain) : BitVec 2 :=
  match c.rnd with
  | some p => p.extractLsb' 20 2
  | none => 0

/-- The immediate with the `ext` prefix, as 40 bits sign-extended (R31). -/
def Chain.immS (c : Chain) (i : BitVec 15) : Word :=
  match c.ext with
  | some h => (h ++ i : BitVec 40).signExtend 64
  | none => i.signExtend 64

/-- The immediate with the `ext` prefix, as 40 bits zero-extended (R31). -/
def Chain.immU (c : Chain) (i : BitVec 15) : Word :=
  match c.ext with
  | some h => (h ++ i : BitVec 40).setWidth 64
  | none => i.setWidth 64

/-- DFMT, AFMT and BFMT where `fmt` puts them in force (R31). -/
def Chain.dfmt (c : Chain) : Option (BitVec 5) :=
  c.fmt.bind fun p => if p.getLsbD 9 then some (p.extractLsb' 20 5) else none
def Chain.afmt (c : Chain) : Option (BitVec 5) :=
  c.fmt.bind fun p => if p.getLsbD 8 then some (p.extractLsb' 15 5) else none
def Chain.bfmt (c : Chain) : Option (BitVec 5) :=
  c.fmt.bind fun p => if p.getLsbD 7 then some (p.extractLsb' 10 5) else none

/-! ## Blocks (R24, R25) -/

/-- The pool offset of a handler's header word, where it is one of the actor's handlers. -/
def Context.blockAt (c : Context) (h : BitVec 16) : Option Nat :=
  (c.handlers.find? fun p => p.1 == h).map fun p => p.2

/-- A 32-bit word of a core's pool. -/
def State.poolWord (s : State) (cid off : Nat) : IWord := BitVec.ofNat 32 (s.readLE (poolAddr cid off) 4)

/-- The header word of a block. -/
def State.header (s : State) (cid : Nat) (c : Context) (h : BitVec 16) : Option IWord :=
  (c.blockAt h).map fun off => s.poolWord cid off

/-- The word count of a header: NWORD + 1 (R24). -/
def wordCount (hd : IWord) : Nat := (hd.extractLsb' 26 6).toNat + 1

/-- WIN of a header (R24). -/
def headerWin (hd : IWord) : Nat := (hd.extractLsb' 23 3).toNat

/-- Word `w` of a block. -/
def State.blockWord (s : State) (cid : Nat) (c : Context) (h : BitVec 16) (w : Nat) : Option IWord :=
  (c.blockAt h).map fun off => s.poolWord cid (off + 4 + 4 * w)

/-- A fault that enters the trap handler: code, operand, detail, address (R70). -/
structure TrapCause where
  code : BitVec 8
  operand : BitVec 8
  detail : BitVec 8
  addr : Word
  deriving DecidableEq, Repr

/-- The checks of a header on entry at word `w` (R25, R361). -/
def headerFault (c : Context) (hd : IWord) (h : BitVec 16) (w : Nat) : Option TrapCause :=
  if 5 ≤ headerWin hd ∨ hd.extractLsb' 0 16 ≠ h then some ⟨0x01, 0, 0x0A, BitVec.ofNat 64 w⟩
  else if 1 ≤ headerWin hd ∧ headerWin hd < efWords c.precP then
    some ⟨0x0C, BitVec.ofNat 8 (efWords c.precP), 0x02, BitVec.ofNat 64 c.precP⟩
  else none

/-- The header word of the running block; 0 where there is none. -/
def State.runHeader (s : State) : IWord := (s.header s.focus s.ctx s.ctx.handler).getD 0

/-! ## Going on, parking, trapping -/

/-- The first word of the running chain and its instruction (R32). -/
def Context.first (c : Context) : Nat :=
  match c.chain.start with
  | some w => w.toNat
  | none => c.word.toNat

/-- The word after this instruction is next, and no prefix is pending (R32). -/
def Context.advance (c : Context) : Context := { c with chain := .empty, word := c.word + 1 }

/-- The issuing context changed by its instruction, and on to the next word. -/
def State.retire (s : State) (f : Context → Context) : State := s.setCtx (f s.ctx).advance

/-- The turn ends (R165). -/
def State.endTurn (s : State) : State := s.modCur fun k => { k with turn := false }

/-- The context parks at the first word of its instruction and gives up the core (R65, R167). -/
def State.parkAs (s : State) (p : Park) : State :=
  (s.modCtx fun c => { c with park := p, word := BitVec.ofNat 7 c.first, chain := .empty }).endTurn

/-- EPC for a fault at the running instruction: its first word, handler and index (R18). -/
def State.epcNow (s : State) : Word :=
  let c := s.ctx
  (((s.blockWord s.focus c c.handler c.first).getD 0) ++ c.handler ++ BitVec.ofNat 16 c.first : BitVec 64)

/-- The handler TVEC names where it can be entered (R70: not TrapBlockFails). -/
def State.trapBlock (s : State) : Option (BitVec 16) :=
  let c := s.ctx
  let h := c.tvec.extractLsb' 0 16
  match s.header s.focus c h with
  | none => none
  | some hd => if hd.getLsbD 16 && (headerFault c hd h 0).isNone then some h else none

/-- CAUSE of a trap (R18). -/
def TrapCause.cause (t : TrapCause) : Word := t.operand.setWidth 64 <<< 16 ||| t.detail.setWidth 64 <<< 8 ||| t.code.setWidth 64

/-- A handled trap that cannot be delivered: the context stops, its region halts, and the machine check "unhandled
trap" is reported; CAUSE, FADDR and EPC keep their values (R19, R70). -/
def State.unhandled (s : State) (t : TrapCause) : State :=
  let g := s.ctx.graph
  let s1 := (s.modCtx fun c => { c with stopped := true, chain := .empty }).endTurn
  (s1.haltRegion g).machineCheck 0x01 t.code s.focus g t.addr t.cause t.addr s.epcNow

/-- TakeTrap (R70). -/
def State.takeTrap (s : State) (t : TrapCause) : State :=
  let c := s.ctx
  if c.inTrap || !c.tvec.getLsbD 16 then s.unhandled t
  else match s.trapBlock with
    | none => s.unhandled t
    | some h =>
      ((s.setCtx { c with
          cause := t.cause
          faddr := t.addr
          epc := s.epcNow
          status := c.status ||| 1
          handler := h
          word := 0
          chain := .empty }).countMe 0x040).countMe (0x040 + t.code.toNat)

/-- RaiseTrap(code, operand, detail, addr) (R40, R70). -/
def State.trap (s : State) (code operand detail : BitVec 8) (addr : Word) : State :=
  s.takeTrap ⟨code, operand, detail, addr⟩

/-- Enter a block at a word, with the header checks of R25 at once. -/
def State.enter (s : State) (h : BitVec 16) (w : Nat) : State :=
  let s1 := s.modCtx fun c => { c with handler := h, word := BitVec.ofNat 7 w, chain := .empty }
  match s1.header s1.focus s1.ctx h with
  | none => s1
  | some hd =>
    match headerFault s1.ctx hd h w with
    | none => s1
    | some t => s1.takeTrap t

/-! ## Scalar sources (R10, R65) -/

/-- The empty source with the lowest number (R10). -/
def Context.firstEmpty (c : Context) (rs : List Reg) : Option Reg :=
  (rs.filter fun r => !c.isFull r).foldl (fun acc r => match acc with
    | none => some r
    | some q => some (if r < q then r else q)) none

/-- The instruction `k` goes on where its sources are full; else it parks (W = 1) or traps (W = 0). -/
def State.onSources (s : State) (w : Bool) (rs : List Reg) (k : State) : State :=
  match s.ctx.firstEmpty rs with
  | none => k
  | some r => if w then (s.countMe 0x050).parkAs (.regs rs) else s.trap 0x08 (r.setWidth 8) 0 0

/-- An instruction that reads scalar sources and only changes its context. -/
def State.scalarOp (s : State) (w : Bool) (rs : List Reg) (f : Context → Context) : Answer :=
  .next (s.onSources w rs (s.retire f))

/-! ## Pool access (R23, R61) -/

/-- The scratchpad's first byte and the byte after its last (R22, R61). -/
def Core.scratchLo (k : Core) : Nat := ((k.partn.extractLsb' 0 6).toNat + (k.partn.extractLsb' 6 6).toNat) * 16384
def Core.scratchHi (k : Core) : Nat := k.scratchLo + (k.partn.extractLsb' 12 6).toNat * 16384

/-- Do `n` bytes from a pool offset lie inside the scratchpad (R23)? -/
def Core.inScratch (k : Core) (a n : Nat) : Bool := k.scratchLo ≤ a && a + n ≤ k.scratchHi

/-- The first byte of the accumulator partition and its bytes (R22, R23). -/
def Core.accuLo (k : Core) : Nat := k.scratchHi
def Core.accuBytes (k : Core) : Nat := (k.partn.extractLsb' 18 6).toNat * 16384

/-- A number of `n` bytes from the issuing core's pool. -/
def State.poolRead (s : State) (off n : Nat) : Nat := s.readLE (poolAddr s.focus off) n

/-- A number of `n` bytes into the issuing core's pool. -/
def State.poolWrite (s : State) (off n x : Nat) : State := s.writeLE (poolAddr s.focus off) n x

end Sys2Proof.Machine
end

