-- ==== Sys2Proof/Machine/Operands.lean ====
section
/-!
DEFINITION. Sys2Proof/Machine/Operands.lean: the operand forms: shift amounts, bit fields, register pairs, memory
sizes, pool operands (R43, R45, R61), and the address of a load or store.
-/

namespace Sys2Proof.Machine

/-- Shift and rotate amounts use bits 5:0 only (R43). -/
def shamt (x : Word) : Nat := x.toNat % 64

/-- 1 or 0 as a 64-bit value. -/
def ofBool64 (b : Bool) : Word := if b then 1 else 0

/-- Two results, in s[d] and s[d+1] (R43). -/
def Context.writePair (c : Context) (d : Reg) (x : Word × Word) : Context := (c.writeS d x.1).writeS (d + 1) x.2

/-- The 128-bit product: low and high word (R43). -/
def mulFull (sa sb : Bool) (a b : Word) : Word × Word :=
  let x : Int := (if sa then a.toInt else (a.toNat : Int)) * (if sb then b.toInt else (b.toNat : Int))
  let p := BitVec.ofInt 128 x
  (p.extractLsb' 0 64, p.extractLsb' 64 64)

/-- Signed division toward zero, with the edges of R44. -/
def divSigned (a b : Word) : Word × Word :=
  if b = 0 then (0, a) else (BitVec.ofInt 64 (Int.tdiv a.toInt b.toInt), BitVec.ofInt 64 (Int.tmod a.toInt b.toInt))

/-- Unsigned division, with the edges of R44. -/
def divUnsigned (a b : Word) : Word × Word := if b = 0 then (0, a) else (a / b, a % b)

/-- Signed division toward -∞, with the edges of R44. -/
def divFloor (a b : Word) : Word × Word :=
  if b = 0 then (0, a) else (BitVec.ofInt 64 (Int.fdiv a.toInt b.toInt), BitVec.ofInt 64 (Int.fmod a.toInt b.toInt))

/-- pos and L of a field word s[b] (R45). -/
def fieldPos (b : Word) : Nat := b.toNat % 64
def fieldLen (b : Word) : Nat := min (b.toNat / 256 % 128) (64 - fieldPos b)

/-- `bfx` and `bfxu` (R45). -/
def bitField (signed : Bool) (a b : Word) : Word :=
  let l := fieldLen b
  let x := a.toNat / 2 ^ fieldPos b % 2 ^ l
  if signed && decide (0 < l) && decide (2 ^ l ≤ 2 * x) then BitVec.ofInt 64 ((x : Int) - 2 ^ l) else BitVec.ofNat 64 x

/-- `bfi` (R45). -/
def bitInsert (d a b : Word) : Word :=
  let mask : Word := BitVec.ofNat 64 ((2 ^ fieldLen b - 1) * 2 ^ fieldPos b)
  (d &&& ~~~mask) ||| ((a <<< fieldPos b) &&& mask)

/-- Leading zeros of a word, 64 for 0 (R43). -/
def leadingZeros (x : Word) : Nat := if x = 0 then 64 else 63 - Nat.log2 x.toNat

/-- Set bits among the low `k` bits (R43). -/
def popCount (x : Nat) : Nat → Nat
  | 0 => 0
  | k + 1 => x % 2 + popCount (x / 2) k

/-- Byte i to byte 7 - i (R43). -/
def byteSwap (x : Word) : Word :=
  x.extractLsb' 0 8 ++ x.extractLsb' 8 8 ++ x.extractLsb' 16 8 ++ x.extractLsb' 24 8 ++ x.extractLsb' 32 8
    ++ x.extractLsb' 40 8 ++ x.extractLsb' 48 8 ++ x.extractLsb' 56 8

/-- Bytes of a load's size code, and whether it zero-extends (R30, R61, R85). -/
def loadSize (z : BitVec 3) : Nat :=
  match z.toNat with
  | 0 | 1 => 1
  | 2 | 3 => 2
  | 4 | 5 => 4
  | _ => 8
def loadUnsigned (z : BitVec 3) : Bool := z == 1 || z == 3 || z == 5

/-- Bytes of a store's size code (R30, R61, R86). -/
def storeSize (z : BitVec 2) : Nat := 2 ^ z.toNat

/-- A loaded number of `n` bytes extended to 64 bits (R61). -/
def extendTo64 (n : Nat) (unsigned : Bool) (x : Nat) : Word :=
  if !unsigned && decide (256 ^ n ≤ 2 * x) then BitVec.ofInt 64 ((x : Int) - 256 ^ n) else BitVec.ofNat 64 x

/-- A of R61: s[a] + SignExtend(imm<11:0>) × size, modulo 2^64. -/
def poolOperand (c : Context) (a : Reg) (o : BitVec 12) (size : Nat) : Word :=
  c.readS a + o.signExtend 64 * BitVec.ofNat 64 size

/-- The lowest offset of a range outside the scratchpad, if any (R124, R323). -/
def Core.failsAt (k : Core) (a n : Nat) : Option Nat :=
  if n = 0 ∨ k.inScratch a n then none else some (if a < k.scratchLo then a else max a k.scratchHi)

/-- The checks of an access of `size` bytes at pool offset A with base register `a`: alignment, then bounds (R61). -/
def State.poolChecked (s : State) (a : Reg) (addr : Word) (align size : Nat) (k : State) : State :=
  if addr.toNat % align ≠ 0 then s.trap 0x03 (a.setWidth 8) 0 addr
  else if !s.cur.inScratch addr.toNat size then s.trap 0x04 (a.setWidth 8) 0 addr
  else k

/-- The same checks where FADDR of the bounds trap is the lowest failing offset (R124). -/
def State.poolCheckedLow (s : State) (a : Reg) (addr : Word) (align size : Nat) (k : State) : State :=
  if addr.toNat % align ≠ 0 then s.trap 0x03 (a.setWidth 8) 0 addr
  else match s.cur.failsAt addr.toNat size with
    | some x => s.trap 0x04 (a.setWidth 8) 0 (BitVec.ofNat 64 x)
    | none => k

end Sys2Proof.Machine
end

