-- ==== Sys2Proof/Machine/Ports.lean ====
section
/-!
DEFINITION. Sys2Proof/Machine/Ports.lean: channels and ports: scopes (R311), the writes a release waits for (R312),
popping and sending tokens (R58, R59, R158), and the port instructions of major 0x34 (R58 to R60).
-/

namespace Sys2Proof.Machine

/-! ## Scopes (R153, R311) -/

/-- The least level that holds two cores. -/
def scopeOf (a b : Nat) : Scope :=
  if a = b then .core else if a / 16 = b / 16 then .cluster else if a / 1024 = b / 1024 then .field
  else if a / 65536 = b / 65536 then .wafer else .system

/-- Does a core lie in the scope of another? -/
def Scope.holds (sc : Scope) (home other : Nat) : Bool :=
  match sc with
  | .core => home == other
  | .cluster => home / 16 == other / 16
  | .field => home / 1024 == other / 1024
  | .wafer => home / 65536 == other / 65536
  | .system => true

/-- The core of a channel end that is a port. -/
def ChanEnd.core? : ChanEnd → Option Nat
  | .port cid _ _ => some cid
  | _ => none

/-- The scope of a channel (R311). -/
def Channel.scope (ch : Channel) : Scope :=
  match ch.src.core?, ch.dst.core? with
  | some a, some b => scopeOf a b
  | _, _ => .wafer

/-! ## Writes not yet accepted or visible (R95, R309, R312) -/

/-- Is a message a write (R88, R309)? -/
def MsgBody.isWrite : MsgBody → Bool
  | .store .. | .subStore .. | .amo .. | .forward .. | .mcast .. => true
  | _ => false

/-- The writes that a context issued and that are still on their way (R95, R312). -/
def State.writesOf (s : State) (cid : Nat) (ctx : BitVec 4) : List Nat :=
  ((s.net.filter fun m => m.src == cid && m.ctx == ctx && m.body.isWrite && m.engine.isNone).map fun m => m.id)
    ++ ((s.packets.filter fun p => p.sender == cid && p.sctx == ctx).map fun p => p.origin)

/-- Is a write not yet visible to every agent of a scope (R95, R309)? -/
def State.invisible (s : State) (sc : Scope) (home id : Nat) : Bool :=
  s.inFlight id || s.packets.any fun p => p.origin == id && match p.member with
    | none => true
    | some cid => sc.holds home cid

/-- Is a write with an owner in a scope not yet accepted (R95, R303)? One that a forwarding port has sent on is owned there still. -/
def State.unaccepted (s : State) (sc : Scope) (home id : Nat) : Bool :=
  s.net.any fun m => m.id == id && sc.holds home (m.via.getD m.dst) && match m.body with
    | .forward .. => false
    | .mcast .. => false
    | _ => true

/-! ## Tokens -/

/-- A word token (R158). -/
def wordToken (x : Word) (code : BitVec 3) : Token := ⟨x.setWidth 512, 0, code⟩

/-- A vector token. -/
def lanesOf (p : BitVec 512) : Lanes := Vector.ofFn fun i => p.extractLsb' (32 * i.val) 32

def packLanes (v : Lanes) : BitVec 512 :=
  BitVec.ofNat 512 ((List.range 16).foldl (fun acc i => acc + (v.toList.getD i 0).toNat * 2 ^ (32 * i)) 0)

/-- The head of a queue removed; its credit is owed to the source (R158, R194). -/
def Channel.pop (ch : Channel) : Channel := { ch with queue := ch.queue.drop 1, owed := ch.owed + 1 }

/-- Data tokens ahead of the first marker (R158). -/
def Channel.tokens (ch : Channel) : Nat := (ch.queue.takeWhile fun t => t.code != 5).length

/-- Does a marker stand at the head? -/
def Channel.marked (ch : Channel) : Bool :=
  match ch.queue with
  | t :: _ => t.code == 5
  | [] => false

/-- The cycles from the last issue until the results of a context at a place are available, and until the vat of the core has
written and pushed everything issued so far (R72, R147). -/
def Core.leftOf (k : Core) (ctx : BitVec 4) (x : Place) : Nat :=
  (k.due.filter fun d => d.ctx == ctx && d.place == x).foldl (fun n d => max n d.left) 0
def Core.vatLeft (k : Core) : Nat := (k.due.filter fun d => d.place == .vat).foldl (fun n d => max n d.left) 0

/-- A token sent on a channel by a context: held behind the earlier ones until the writes `pend` are visible
(R59, R312). -/
def State.send (s : State) (n : Nat) (t : Token) (pend : List Nat) : State :=
  s.modChan n fun ch => { ch with held := ch.held ++ [⟨t, pend, none⟩] }

/-- A token that a pass of the vat sends, `n` cycles after its issue and after what the vat issued before (R143, R146, R147). -/
def State.sendLate (s : State) (n cycles : Nat) (t : Token) (pend : List Nat) : State :=
  let x := (s.cur.cycle, max cycles s.cur.vatLeft)
  s.modChan n fun ch => { ch with held := ch.held ++ [⟨t, pend, some x⟩] }

/-- Has the vat pushed a token that it sent? -/
def HeldToken.pushed (h : HeldToken) (now : Word) : Bool := h.after.all fun x => x.2 ≤ (now - x.1).toNat

/-- How many of a core's holds, in their order of delivery, have had their tag consumed: the tags of the others still
stand in the `ocall` service queue, three tokens to a request (R79, R90). -/
def State.takenHolds (s : State) (cid : Nat) : Nat :=
  (s.core cid).holds.length
    - (match s.chans.find? fun ch => ch.bound && ch.src == .ocall cid with
       | some ch => ch.queue.length / 3
       | none => 0)

/-- A port's channel, where it is bound. -/
def State.inChan (s : State) (c : Context) (p : BitVec 4) : Option (Nat × Channel) :=
  (getV c.inPort p).bind fun n => (s.chan? n).map fun ch => (n, ch)
def State.outChan (s : State) (c : Context) (q : BitVec 4) : Option (Nat × Channel) :=
  (getV c.outPort q).bind fun n => (s.chan? n).map fun ch => (n, ch)

/-- The port numbers. -/
def allPorts : List (BitVec 4) := (List.range 16).map fun i => BitVec.ofNat 4 i

/-- The bound input ports of a context with their channels, engine ends included. -/
def State.inputs_ (s : State) (c : Context) : List (BitVec 4 × Nat × Channel) :=
  allPorts.filterMap fun p => (s.inChan c p).map fun x => (p, x)
def State.outputs_ (s : State) (c : Context) : List (BitVec 4 × Nat × Channel) :=
  allPorts.filterMap fun p => (s.outChan c p).map fun x => (p, x)

/-- Why a port of the word plane cannot be used: the DETAIL of port unbound (R58, R59, R211). -/
def portDetail (x : Option (Nat × Channel)) (vector engineEnd : Bool) : Option (BitVec 8) :=
  match x with
  | none => some 0x01
  | some (_, ch) => if engineEnd then some 0x04 else if ch.vec != vector then some 0x02 else none

/-- Is a bound port an engine end (R211)? -/
def inIsEngine (x : Option (Nat × Channel)) : Bool := (x.bind fun y => y.2.deng).isSome
def outIsEngine (x : Option (Nat × Channel)) : Bool := (x.bind fun y => y.2.seng).isSome

/-- CCPORT and CCODE after a port read (R16, R58). -/
def Context.readPort (c : Context) (p : BitVec 4) (code : BitVec 3) : Context :=
  { c with status := putBits (putBits c.status 4 p) 1 code, consRem := setV c.consRem p (getV c.consRem p - 1) }

/-- R58: one token of an input port to s[d]. -/
def execPin (d p : Reg) (s : State) : Answer :=
  let c := s.ctx
  let n : BitVec 4 := p.setWidth 4
  let x := s.inChan c n
  match portDetail x false (inIsEngine x), x with
  | some dt, _ => .next (s.trap 0x06 (p.setWidth 8) dt 0)
  | none, none => .next (s.trap 0x06 (p.setWidth 8) 0x01 0)
  | none, some (ci, ch) =>
    if getV c.consRem n = 0 then .next (s.trap 0x05 (p.setWidth 8) 0x01 0)
    else
      let t := ch.queue.headD ⟨0, 0, 0⟩
      .next ((s.modChan ci Channel.pop).retire fun c => (c.readPort n t.code).writeS d (t.payload.setWidth 64))

/-- The checks and the send of `pout` and `poutc` (R59). -/
def State.sendWord (s : State) (q a : Reg) (code : BitVec 3) : State :=
  let c := s.ctx
  let n : BitVec 4 := q.setWidth 4
  let x := s.outChan c n
  match portDetail x false (outIsEngine x), x with
  | some dt, _ => s.trap 0x06 (q.setWidth 8) dt 0
  | none, none => s.trap 0x06 (q.setWidth 8) 0x01 0
  | none, some (ci, _) =>
    if getV c.prodRem n = 0 then s.trap 0x05 (q.setWidth 8) 0x02 0
    else (s.send ci (wordToken (c.readS a) code) (s.writesOf s.focus s.who)).retire fun c =>
      { c with prodRem := setV c.prodRem n (getV c.prodRem n - 1) }

/-- R59: s[a] sent with control code 0. -/
def execPout (q a : Reg) (w : Bool) (s : State) : Answer := .next (s.onSources w [a] (s.sendWord q a 0))

/-- R59: s[a] sent with the control code given. -/
def execPoutc (q a : Reg) (k : BitVec 3) (w : Bool) (s : State) : Answer := .next (s.onSources w [a] (s.sendWord q a k))

/-- The status word of an input port (R60). -/
def pstatWord (x : Option (Nat × Channel)) (rem : BitVec 8) : Word :=
  match x with
  | none => 0
  | some (_, ch) =>
    let head := ch.queue.head?
    BitVec.ofNat 64 (ch.queue.length % 65536 * 2 ^ 24 + rem.toNat * 2 ^ 16
      + (match head with | some t => t.code.toNat * 32 + 16 | none => 0) + (if ch.vec then 4 else 0) + 1)

/-- The status word of an output port (R60). -/
def qstatWord (x : Option (Nat × Channel)) (rem : BitVec 8) : Word :=
  match x with
  | none => 0
  | some (_, ch) => BitVec.ofNat 64 (ch.free % 65536 * 2 ^ 24 + rem.toNat * 2 ^ 16 + (if ch.vec then 4 else 0) + 1)

/-- R60: the state of an input port. -/
def execPstat (d p : Reg) (s : State) : Answer :=
  .next (s.retire fun c => c.writeS d (pstatWord (s.inChan c (p.setWidth 4)) (getV c.consRem (p.setWidth 4 : BitVec 4))))

/-- R60: the state of an output port. -/
def execQstat (d p : Reg) (s : State) : Answer :=
  .next (s.retire fun c => c.writeS d (qstatWord (s.outChan c (p.setWidth 4)) (getV c.prodRem (p.setWidth 4 : BitVec 4))))

/-- R63: s[d] marked empty. -/
def execFeClr (d : Reg) (s : State) : Answer := .next (s.retire fun c => c.markEmpty d)

/-- R63: s[d] marked full. -/
def execFeSet (d : Reg) (s : State) : Answer := .next (s.retire fun c => c.markFull d)

/-- R63: 1 if s[a] is full, else 0. -/
def execFeTst (d a : Reg) (s : State) : Answer := .next (s.retire fun c => c.writeS d (ofBool64 (c.isFull a)))

end Sys2Proof.Machine
end

