-- ==== Sys2Proof/Machine/Route.lean ====
section
/-!
DEFINITION. Sys2Proof/Machine/Route.lean: routes over the mesh: dimension order with detours (R186, R188, R245), the
detour hops they count, and failed links and routers on them (R206, R207, R247).
-/

namespace Sys2Proof.Machine

/-- The wafer of this module: its number is the one every start stores (R278). -/
def State.home (s : State) : Nat := s.module.wafer.toNat

/-- The tables of a wafer. -/
def State.tablesOf (s : State) (wafer : Nat) : Tables := (assocGet s.tables wafer).getD Tables.perfect

/-- The mesh position of a core's router (R186). -/
def State.routerOf (s : State) (cid : Nat) : Nat × Nat :=
  let p := (((s.tablesOf (cid / 65536)).fields[cid / 1024 % 64]?).join).getD 0
  let c := cid / 16 % 64
  (8 * (p % 8) + c % 8, 8 * (p / 8) + c / 8)

/-- The logical cluster (field × 64 + cluster) whose router stands at a mesh position, where its field is in service
(R238). -/
def Tables.clusterAt (t : Tables) (x y : Nat) : Option Nat :=
  (t.fields.findIdx? fun f => f == some (y / 8 * 8 + x / 8)).map fun n => n * 64 + y % 8 * 8 + x % 8

/-- The number under which `State.hubs` keeps a router's multicast table: its cluster's hub, or, in a field out of service,
whose routers stay in use (R237), a number of its own. -/
def State.routerKey (s : State) (w x y : Nat) : Nat :=
  match (s.tablesOf w).clusterAt x y with
  | some c => w * 4096 + c
  | none => 2 ^ 20 + w * 4096 + y * 64 + x

/-- The detour entry of the out-of-service cluster at a mesh position (R244). -/
def Tables.detourAt (t : Tables) (x y : Nat) : Option Detour :=
  (t.clusterAt x y).bind fun c => ((assocGet t.detours (c / 64)).getD []).find? fun e => e.cluster.toNat == c % 64

/-- The mesh positions from a number to another, both included. -/
def between (a b : Nat) : List Nat :=
  if a ≤ b then (List.range (b - a + 1)).map fun i => a + i else (List.range (a - b + 1)).map fun i => a - i

/-- The routers of the dimension-ordered route (R188). -/
def plainRoute (a b : Nat × Nat) : List (Nat × Nat) :=
  ((between a.1 b.1).map fun x => (x, a.2)) ++ ((between a.2 b.2).drop 1).map fun y => (b.1, y)

/-- A step of a detour: `true` toward the lower number. -/
def sideStep (down : Bool) (n : Nat) : Nat := if down then n - 1 else n + 1

/-- The routers that replace D between P and Q (R245). -/
def Detour.around (e : Detour) (p d q : Nat × Nat) : List (Nat × Nat) :=
  if p.2 = d.2 ∧ q.2 = d.2 then
    [(p.1, sideStep e.xstep p.2), (d.1, sideStep e.xstep d.2), (q.1, sideStep e.xstep q.2)]
  else if p.1 = d.1 ∧ q.1 = d.1 then
    [(sideStep e.ystep p.1, p.2), (sideStep e.ystep d.1, d.2), (sideStep e.ystep q.1, q.2)]
  else [(p.1, q.2)]

/-- A route with its out-of-service routers replaced (R245). -/
def Tables.detoured (t : Tables) : List (Nat × Nat) → List (Nat × Nat)
  | p :: d :: q :: rest =>
    match t.detourAt d.1 d.2 with
    | some e => p :: e.around p d q ++ t.detoured (q :: rest)
    | none => p :: t.detoured (d :: q :: rest)
  | l => l

/-- The routers from one core's cluster to another's on one wafer. -/
def State.route (s : State) (src dst : Nat) : List (Nat × Nat) :=
  (s.tablesOf (src / 65536)).detoured (plainRoute (s.routerOf src) (s.routerOf dst))

/-- The direction from a router to a neighbour (R186). -/
def dirOf (a b : Nat × Nat) : Dir :=
  if a.1 < b.1 then .east else if b.1 < a.1 then .west else if a.2 < b.2 then .south else .north

/-- The links of a route on a plane. -/
def linksOf (plane : Plane) : List (Nat × Nat) → List Link
  | a :: b :: rest => ⟨a.1, a.2, dirOf a b, plane⟩ :: linksOf plane (b :: rest)
  | _ => []

/-- Does what goes from one core to another cross the mesh, its wafer's own (R187)? -/
def crossesMesh (src dst : Nat) : Bool := src / 16 != dst / 16 && src / 65536 == dst / 65536

/-- The route between two mesh positions of a wafer (R188, R245). -/
def State.meshRoute (s : State) (w : Nat) (a b : Nat × Nat) : List (Nat × Nat) := (s.tablesOf w).detoured (plainRoute a b)

/-! ## Ways over the rind (R278) -/

/-- The trained rind ports that lead to a wafer. -/
def State.rindsTo (s : State) (peer : Nat) : List Rind := s.module.rinds.filter fun r => r.wafer.toNat == peer

/-- The mesh position of the router that a rind port is attached to: the ports of the north, east, south and west edges in this
order, four to each field along an edge, at one of the eight routers of the field on that edge (R278; log entry 79). -/
def rindRouter (port : Nat) : Nat × Nat :=
  let along := 8 * (port % 32 / 4) + Config.rindPlace port % 8
  match port / 32 with
  | 0 => (along, 0)
  | 1 => (63, along)
  | 2 => (along, 63)
  | _ => (0, along)

/-- The routers of the two rind ports that join this wafer and another, ours and the peer's: of the port given, which a channel is
bound to (R176), or of the one that messages and barrier trees take (log entry 79). -/
def State.rindJoint (s : State) (port : Option Nat) (peer : Nat) : Option ((Nat × Nat) × (Nat × Nat)) :=
  let l := s.rindsTo peer
  let r : Option Rind := match port with
    | some p => l.find? fun r => r.port == p
    | none => l[Config.rindPick peer % l.length]?
  r.map fun r => (rindRouter r.port, rindRouter r.peer)

/-- The mesh routes of a way from core to core, each with its wafer and its two ends: none within a cluster, one on the wafer of
both, and one on either side of the rind between this wafer and another (R187, R188, R278; log entry 79). -/
def State.legs (s : State) (port : Option Nat) (src dst : Nat) : List (Nat × (Nat × Nat) × (Nat × Nat)) :=
  let w := src / 65536
  let v := dst / 65536
  if w = v then (if crossesMesh src dst then [(w, s.routerOf src, s.routerOf dst)] else [])
  else
    match if w = s.home then s.rindJoint port v else if v = s.home then (s.rindJoint port w).map fun x => (x.2, x.1) else none with
    | some (near, far) => [(w, s.routerOf src, near), (v, far, s.routerOf dst)]
    | none => []

/-- The links of a way on a plane, each with its wafer. -/
def State.linksVia (s : State) (port : Option Nat) (plane : Plane) (src dst : Nat) : List (Nat × Link) :=
  (s.legs port src dst).flatMap fun (w, a, b) => (linksOf plane (s.meshRoute w a b)).map fun l => (w, l)

/-- The links of this wafer on a way: the failures that a state lists are those of its own wafer. -/
def State.homeLinks (s : State) (port : Option Nat) (plane : Plane) (src dst : Nat) : List Link :=
  ((s.linksVia port plane src dst).filter fun x => x.1 == s.home).map fun x => x.2

/-- The routers of this wafer on a way. -/
def State.homeRouters (s : State) (port : Option Nat) (src dst : Nat) : List (Nat × Nat) :=
  ((s.legs port src dst).filter fun x => x.1 == s.home).flatMap fun (w, a, b) => s.meshRoute w a b

/-- A packet's detour hops, counted at its source cluster (R245). -/
def State.countDetoursVia (s : State) (port : Option Nat) (src dst : Nat) : State :=
  match s.legs port src dst with
  | [] => s
  | l =>
    let hops := l.foldl (fun n (w, a, b) => n + ((s.meshRoute w a b).length - (plainRoute a b).length)) 0
    s.modHub (src / 16) fun k => { k with counters := k.counters.map fun x => x.bump 0x092 hops none }
def State.countDetours (s : State) (src dst : Nat) : State := s.countDetoursVia none src dst

/-- Is every link and router of a way in use (R207, R247)? -/
def State.linkedVia (s : State) (port : Option Nat) (plane : Plane) (src dst : Nat) : Bool :=
  (s.failedLinks.isEmpty && s.failedRouters.isEmpty)
    || ((s.homeLinks port plane src dst).all (fun l => !s.failedLinks.contains l)
        && (s.homeRouters port src dst).all fun p => !s.failedRouters.contains (p.2 * 64 + p.1))
def State.linked (s : State) (plane : Plane) (src dst : Nat) : Bool := s.linkedVia none plane src dst

/-- A packet has crossed the links of a way: their runs of retries end (R207). -/
def State.crossedVia (s : State) (port : Option Nat) (plane : Plane) (src dst : Nat) : State :=
  if s.badLinks.isEmpty then s
  else { s with badLinks := s.badLinks.filter fun l => !(s.homeLinks port plane src dst).contains l.1 }
def State.crossed (s : State) (plane : Plane) (src dst : Nat) : State := s.crossedVia none plane src dst

/-! ## Multicast trees (R198 to R200) -/

/-- The router on the other side of a mesh port; none beyond the wafer's edge (R186). -/
def neighbour (x y : Nat) (d : Dir) : Option (Nat × Nat) :=
  match d with
  | .east => if x < 63 then some (x + 1, y) else none
  | .west => if 0 < x then some (x - 1, y) else none
  | .south => if y < 63 then some (x, y + 1) else none
  | .north => if 0 < y then some (x, y - 1) else none

def dirOpposite : Dir → Dir
  | .east => .west
  | .west => .east
  | .south => .north
  | .north => .south

/-- The bit of a direction in a multicast table entry (R198). -/
def dirBit : Dir → Nat
  | .east => 19
  | .west => 17
  | .south => 18
  | .north => 20

/-- The directions an entry forwards to, but the port of arrival (R198). -/
def mcastDirs (e : BitVec 32) (arrived : Option Dir) : List Dir :=
  [Dir.east, Dir.west, Dir.south, Dir.north].filter fun d => e.getLsbD (dirBit d) && arrived != some d

/-- A route from the root joined to a tree of pairs (router, neighbour toward the root): each router joins once (R199). -/
def growTree (root : Nat × Nat) : List (Nat × Nat) → List ((Nat × Nat) × (Nat × Nat)) → (Nat × Nat) →
    List ((Nat × Nat) × (Nat × Nat))
  | [], t, _ => t
  | r :: rest, t, before =>
    growTree root rest (if r == root || t.any fun e => e.1 == r then t else t ++ [(r, before)]) r

/-- The links of a group's tree, its members given, over routes with the detours of R245 or without: each router with the
neighbour toward the root (R199). -/
def State.groupEdges (s : State) (cores : List Nat) (route : Nat → Nat → List (Nat × Nat)) : List ((Nat × Nat) × (Nat × Nat)) :=
  match cores with
  | [] => []
  | root :: _ => cores.foldl (fun t c => growTree (s.routerOf root) (if crossesMesh root c then route root c else []) t
      (s.routerOf root)) []

/-- The cores that the entry of a group marks at the hub of a number (R198). -/
def Hub.marks (k : Hub) (h g : Nat) : List Nat :=
  let e := (assocGet k.mcast g).getD 0
  ((List.range 16).filter fun i => e.getLsbD 21 && e.getLsbD 16 && e.getLsbD i).map fun i => h * 16 + i

/-- The members of a group of a wafer under the present entries: the cores that the entry of their router marks (R198 to
R200). -/
def State.mcastMembers (s : State) (w g : Nat) : List Nat :=
  (s.hubs.filter fun x => x.1 / 4096 == w).flatMap fun x => x.2.marks x.1 g

/-- The detour hops of a multicast packet of a graph, which crosses every link of its group's tree, counted at its source
cluster (R245): the group of its own region, where that has one of the number. -/
def State.countTree (s : State) (graph : BitVec 16) (src g : Nat) : State :=
  match (((s.graphs.filter fun x => x.num == graph) ++ s.graphs).flatMap fun x => x.groups).find? fun x => x.1 == g with
  | none => s
  | some (_, cores) =>
    let hops := (s.groupEdges cores s.route).length
      - (s.groupEdges cores fun a b => plainRoute (s.routerOf a) (s.routerOf b)).length
    s.modHub (src / 16) fun k => { k with counters := k.counters.map fun x => x.bump 0x092 hops none }

end Sys2Proof.Machine
end

