-- ==== Sys2Proof/Machine/Port.lean ====
section
/-!
DEFINITION. Sys2Proof/Machine/Port.lean: a column port: splices (R227, R303), `ocall` holds (R90, R314), chase reads it has
taken (R377, R378), pauses and failures of the buses behind it (R250, R252), and what is read and written through it.
-/

namespace Sys2Proof.Machine

/-! ## Splices (R227, R303, R306) -/

/-- The splice of an owner whose old pieces hold an address. -/
def State.spliceAt (s : State) (a : Nat) : Option Splice :=
  if addrPool a then none
  else (s.core (addrCore a)).splices.find? fun p => p.old ≤ a && a < p.old + p.len

/-- Where the port of an address sends an access: to the home once a splice's copy is complete, else nowhere (R303, R306). -/
def State.nextAt (s : State) (a : Nat) : Nat :=
  match s.spliceAt a with
  | some p => if p.complete && !p.aborted then p.new + (a - p.old) else a
  | none => a

/-- The addresses that an access reaches, of which the last performs it: a home may itself have become a forwarding port (R303). -/
def State.stops (s : State) : Nat → Nat → List Nat
  | 0, a => [a]
  | n + 1, a => if s.nextAt a = a then [a] else a :: s.stops n (s.nextAt a)

/-- The trail of an access over the splices of the machine. -/
def State.trail (s : State) (a : Nat) : List Nat := s.stops (s.cores.foldl (fun n c => n + c.2.splices.length) 0) a

/-- Where an access to an address is performed (R303, R306). -/
def State.servedAt (s : State) (a : Nat) : Nat := (s.trail a).getLastD a

/-- The home to which a write performed at the forwarding port goes on (R303). -/
def State.homeOf (s : State) (a : Nat) : Option Nat :=
  match s.spliceAt a with
  | some p => if p.complete && !p.aborted then none else some (p.new + (a - p.old))
  | none => none

/-! ## Holds (R90, R314) -/

/-- Is a multicast not yet performed at the queue of every member it goes to (R307, R309)? -/
def State.mcastOut (s : State) (id : Nat) : Bool :=
  s.net.any (fun m => m.id == id && match m.body with
    | .mcast .. => true
    | _ => false) || s.packets.any fun p => p.origin == id

/-- Is a hold in force: not yet answered, or answered with writes still on their way (R90, R314)? -/
def State.holdActive (s : State) (cid : Nat) (h : Hold) : Bool :=
  match h.ends with
  | none => true
  | some (true, l) => l.any fun id => s.invisible (scopeOf cid h.cid) cid id
  | some (false, l) => l.any fun id => s.unaccepted .system cid id || s.mcastOut id

/-- Does a hold, the `i`-th of its core, let a message pass: one that the firing which consumed the tag has issued (R90)? -/
def State.passes (s : State) (cid i : Nat) (h : Hold) (src : Nat) (ctx : BitVec 4) (id : Nat) : Bool :=
  src == cid && ctx == h.ctx && match h.ends with
    | none => decide (i < s.takenHolds cid) && decide ((s.ctxAt cid ctx).firedAt ≤ id)
    | some _ => decide (h.mine.1 ≤ id) && decide (id < h.mine.2)

/-- The holds in force over some of `len` bytes at an address, with their places among the holds of the core. -/
def State.holdsOn (s : State) (a len : Nat) : List (Hold × Nat) :=
  if addrPool a then []
  else (s.core (addrCore a)).holds.zipIdx.filter fun (h, _) =>
    s.holdActive (addrCore a) h && h.addr < a + len && a < h.addr + 64

/-- Does a hold keep an access of `len` bytes out? -/
def State.held (s : State) (a len : Nat) (src : Nat) (ctx : BitVec 4) (id : Nat) : Bool :=
  (s.holdsOn a len).any fun (h, i) => !s.passes (addrCore a) i h src ctx id

/-! ## Chase reads the port has taken (R377, R378) -/

/-- LAST and WIDTH of a chase step (R92). -/
def stepLast (x : BitVec 32) : Bool := x.getLsbD 3
def stepWidth (x : BitVec 32) : Nat := (x.extractLsb' 1 2).toNat

/-- Bytes that the read of a packet's hop may reach (R92). -/
def ChasePacket.reads (p : ChasePacket) : Nat :=
  match p.steps with
  | x :: _ => if stepLast x then (match stepWidth x with
      | 0 => 8
      | 1 => 4
      | _ => 33) else 8
  | [] => 0

/-- The two cores between which a message is under way: a forwarded one comes from the forwarding port (R303). -/
def Msg.from_ (m : Msg) : Nat := m.via.getD m.src

/-- Address and bytes that a memory message touches. -/
def MsgBody.span? : MsgBody → Option (Nat × Nat)
  | .load a n _ _ => some (a, n)
  | .store a n _ => some (a, n)
  | .subStore a _ _ _ => some (a, 1)
  | .amo _ a n _ _ _ => some (a, n)
  | .forward a n _ => some (a, n)
  | .chasePiece _ a n => some (a, n)
  | _ => none

/-- Do two messages that have left their send queues come to one owner from one core or forwarding port, so that they arrive
there in order (R78, R193, R303)? -/
def Msg.sameWay (m x : Msg) : Bool :=
  !x.entry && x.dst == m.dst && x.whey == m.whey && x.via.isSome == m.via.isSome && x.from_ == m.from_

/-- The messages that stand before one in the order of leaving their send queues. -/
def State.earlier (s : State) (id : Nat) : List Msg := s.net.takeWhile fun x => x.id != id

/-- Has a chase that the port has taken arrived before the access of the number given, as far as one order holds between the two
(R78, R193)? -/
def State.tookFirst (s : State) (c : Msg) (id : Nat) : Bool :=
  match s.msg? id with
  | some m => !m.sameWay c || (s.earlier id).any fun x => x.id == c.id
  | none => true

/-- Does a hop read of the same bytes stand before an access: the port has taken it earlier and not yet performed it? And does,
before a hop read, an earlier access of the same bytes that came the same way? A message that passes a hold passes them too
(R78, R90, R378). -/
def State.chaseAhead (s : State) (a n src : Nat) (ctx : BitVec 4) (id : Nat) : Bool :=
  let k := s.core (addrCore a)
  !addrPool a && !((s.holdsOn a n).any fun (h, i) => s.passes (addrCore a) i h src ctx id)
    && ((k.unread.takeWhile fun i => i != id).any (fun i => match s.msg? i with
      | some c => (match c.body with
        | .chase p => p.dest < a + n && a < p.dest + p.reads && (k.unread.contains id || s.tookFirst c id)
        | _ => false)
      | none => false)
    || (k.unread.contains id && match s.msg? id with
      | some c => (s.earlier id).any fun x => c.sameWay x && match x.body.span? with
        | some (b, l) => b < a + n && a < b + l
        | none => false
      | none => false))

/-- A packet that leaves its owner: its place in the station or the spill area is free, its read no longer stands at the port
(R377, R378). -/
def Core.leaveStation (k : Core) (id : Nat) : Core :=
  { k with
    station := k.station.filter fun i => i != id
    spill := k.spill.filter fun x => x.1 != id
    unread := k.unread.filter fun i => i != id }

/-- A chase that is lost: it leaves its owner and the fabric. -/
def State.loseChase (s : State) (id : Nat) : State :=
  match s.msg? id with
  | some m => (s.dropMsg id).modCore m.dst fun k => k.leaveStation id
  | none => s

/-- Chases of a core outstanding: on their way, at an owner, or answered and not yet taken (R376). -/
def State.chasesOut (s : State) (cid : Nat) : Nat :=
  (s.net.filter fun m => match m.body with
    | .chase p => p.rcid == cid
    | .chaseReply .. => m.dst == cid
    | _ => false).length
  + ((s.core cid).replyBuf.filter fun m => match m.body with
    | .chaseReply .. => true
    | _ => false).length

/-! ## The buses (R250, R252) -/

/-- Does the column of an address pause for retraining, or the one that lends it the region (R250, R252)? -/
def State.portBusy (s : State) (a : Nat) : Bool :=
  !addrPool a && ((s.core (addrCore a)).retrain == .pausing || (s.core (s.busCore a)).retrain == .pausing)

/-- Has the vertical bus of an address's column failed, or of the one that lends it the region (R250, R252)? -/
def State.busDown (s : State) (a : Nat) : Bool :=
  !addrPool a && ((s.core (addrCore a)).busFailed || (s.core (s.busCore a)).busFailed)

/-- Is an access to a pool outside its owner's scratchpad (R78)? -/
def State.rejected (s : State) (a n : Nat) : Bool :=
  addrPool a && !(s.core (addrCore a)).inScratch (a % 2 ^ 26) n

/-- What a port does with an access of `n` bytes now: perform it, let it wait, or halt the region that issued it because a
bus has failed (R78, R90, R252). -/
inductive PortAnswer where
  | open_ | wait | down
  deriving DecidableEq, Repr

/-- The answer of the port of an address. -/
def State.portAt (s : State) (a n src : Nat) (ctx : BitVec 4) (id : Nat) : PortAnswer :=
  if s.portBusy a || s.held a n src ctx id || s.chaseAhead a n src ctx id then .wait
  else if s.busDown a then .down
  else .open_

/-- The sender of the accesses that no context issues by message: engines, walks, saves and copies, which pass no hold. -/
def noSender : Nat := 2 ^ 21

/-- Are the ways open from a core over others to the last, and from there back to the sender (R207, R247)? -/
def State.waysOver (s : State) (src : Nat) : Nat → List Nat → Bool
  | x, [] => s.linked .word x src
  | x, y :: rest => s.linked .word x y && s.waysOver src y rest

/-- Are the ways open that an access of a core to an address and its answer take: to the owner, on to the home that performs it
once a copy is complete, and back (R207, R247, R303)? -/
def State.waysTo (s : State) (src a : Nat) : Bool := s.waysOver src src ((s.trail a).map addrCore)

/-- The answer to an access of a core that no message of a context carries: of the ways, of the port of its address, and of the
home that performs it once a copy is complete (R207, R303, R304). -/
def State.reachable (s : State) (src a n : Nat) : PortAnswer :=
  if !s.waysTo src a then .wait
  else (s.trail a).foldl (fun x b => match x with
    | .open_ => s.portAt b n noSender 0 s.nextId
    | y => y) .open_

/-- The detour hops of an access of a core to an address, and of the reply where there is one, each at the cluster it leaves
(R245, R303). -/
def State.countTrip (s : State) (src a : Nat) (reply : Bool) : State :=
  let x := ((s.trail a).map addrCore).foldl (fun (x : State × Nat) y => (x.1.countDetours x.2 y, y)) (s, src)
  if reply then x.1.countDetours x.2 src else x.1

/-! ## Reads and writes through a port (R303) -/

/-- `n` bytes at an address, each where its port performs it. -/
def State.portBytes (s : State) (a n : Nat) : List Byte := (List.range n).map fun i => s.readByte (s.servedAt (a + i))

/-- A write that the port of `a` sends on to the home of a piece under migration, up to 32 bytes (R303). -/
def State.forwardWrite (s : State) (a home src : Nat) (ctx : BitVec 4) (graph : BitVec 16) (engine : Option Nat) (l : List Byte) :
    State :=
  let s1 : State := { s with
    net := s.net ++ [{ id := s.nextId, src, dst := addrCore home, ctx, graph, whey := false, entry := false, pend := [], engine
                       via := some (addrCore a), born := 0, past := false, body := .forward home l.length (BitVec.ofNat 256 (leNat l)) }]
    nextId := s.nextId + 1 }
  s1.countDetours (addrCore a) (addrCore home)

/-- Up to 32 bytes written through the port of an address: there, or at the home once a copy is complete; and sent on to the
home while the copy runs (R303). -/
def State.portPiece (s : State) (src : Nat) (ctx : BitVec 4) (graph : BitVec 16) (a : Nat) (l : List Byte) : State :=
  let at_ := s.servedAt a
  let s1 := s.writeBytes at_ l
  match s.homeOf at_ with
  | some h => s1.forwardWrite at_ h src ctx graph (some 4) l
  | none => s1

/-- Bytes written through a column port, an aligned line of 32 at a time. -/
def State.portStore (s : State) (src : Nat) (ctx : BitVec 4) (graph : BitVec 16) (a : Nat) (l : List Byte) : State :=
  let o := a % 32
  (List.range ((o + l.length + 31) / 32)).foldl (fun st i =>
    st.portPiece src ctx graph (a + (32 * i - o)) ((l.take (32 * (i + 1) - o)).drop (32 * i - o))) s

end Sys2Proof.Machine
end

