-- ==== Sys2Proof/Machine/Translate.lean ====
section
/-!
DEFINITION. Sys2Proof/Machine/Translate.lean: translation at a requester (R75, R76, R286 to R300): the core TLB, the
miss that goes to the hub, and the checks of a virtual address.
-/

namespace Sys2Proof.Machine

/-- Page-offset bits of a leaf at a level (R286). -/
def pageBits (level : Nat) : Nat :=
  match level with
  | 1 => 36
  | 2 => 27
  | _ => 18

/-- Does a TLB entry hold the translation of an address in an address space (R293)? -/
def TlbEntry.covers (e : TlbEntry) (asn : BitVec 16) (va : Nat) : Bool := e.asn == asn && e.page == va / 2 ^ pageBits e.level

/-- Does it let an access complete without a new walk (R294)? -/
def TlbEntry.allows (e : TlbEntry) (rd wr : Bool) : Bool := (!rd || e.rd) && (!wr || (e.w && e.d))

/-- The wafer address of a byte (R291). -/
def TlbEntry.reach (e : TlbEntry) (va : Nat) : Nat := e.addr + va % 2 ^ pageBits e.level

/-- A fill of a TLB of `size` entries; a full one loses the entry that `victim` names (R293; log entry 6). -/
def tlbFill (size seed : Nat) (e : TlbEntry) (l : List TlbEntry) : List TlbEntry :=
  let l' := l.filter fun x => !(x.asn == e.asn && x.page == e.page && x.level == e.level)
  (if l'.length < size then l' else l'.eraseIdx (Config.victim seed % size)) ++ [e]

/-- A fill of a hub's TLB, 8-way set-associative with 256 sets: a full set loses the entry that `victim` names. Which set an
entry belongs to is left open (R293; log entry 6). -/
def hubFill (seed : Nat) (e : TlbEntry) (l : List TlbEntry) : List TlbEntry :=
  let l' := l.filter fun x => !(x.asn == e.asn && x.page == e.page && x.level == e.level)
  let set := fun (x : TlbEntry) => Config.tlbSet x.asn.toNat x.page x.level % (Config.hubTlbSize / 8)
  let mine := l'.filter fun x => set x == set e
  (if mine.length < 8 then l' else match mine[Config.victim seed % 8]? with
    | some x => l'.erase x
    | none => l') ++ [e]

/-- What a translation at a core gives. -/
inductive Xlate where
  | ok (addr : Nat)
  | miss
  | fault (detail : BitVec 8)
  deriving DecidableEq, Repr

/-- Translation in a core's TLB; a graph without a table and a frame byte in an absent core are protection faults
(R288, R291, R299). A chase outlives its graph's unload and uses the entries that the TLBs still hold (R293, R383). -/
def State.xlate (s : State) (cid : Nat) (asn : BitVec 16) (va : Nat) (rd wr : Bool) : Xlate :=
  let rootless := match s.graph? asn with
    | none => false
    | some g => g.root.isNone
  if rootless then .fault 0x07
  else match (s.core cid).tlb.find? fun e => e.covers asn va && e.allows rd wr with
    | none => .miss
    | some e => if s.present (addrCore (e.reach va)) then .ok (e.reach va) else .fault 0x08

/-- A miss on its way to the core's hub (R295). -/
def State.addMiss (s : State) (cid : Nat) (w : Waiter) (asn : BitVec 16) (va : Nat) (rd wr : Bool) (operand : BitVec 8) :
    State :=
  { s with
    misses := s.misses ++ [{ id := s.nextId, hub := cid / 16, waiter := w, asn, va, read := rd, write := wr, operand }]
    nextId := s.nextId + 1 }

/-- The issuing context parks on a miss (R295); it counts under 0x080. -/
def State.missPark (s : State) (va : Nat) (rd wr : Bool) (operand : BitVec 8) : State :=
  let s1 := s.countMe 0x080
  ((s1.addMiss s.focus (.context s.focus s.who.toNat) s.ctx.graph va rd wr operand).modCtx fun c =>
    { c with walked := none }).parkAs (.miss s.nextId)

/-- Which targets an instruction may reach (R75). -/
inductive Target where
  | dram
  | dramOrClusterPool
  deriving DecidableEq, Repr

/-- Places 6 to 9 of R76 for the access at `va` named by register `a`; `k` goes on with the wafer address. -/
def State.withAddr (s : State) (a : Reg) (va : Word) (align : Nat) (rd wr : Bool) (t : Target)
    (k : State → Nat → State) : State :=
  let op : BitVec 8 := a.setWidth 8
  if va.toNat % align ≠ 0 then s.trap 0x03 op 0x01 va
  else if 2 ^ 54 ≤ va.toNat then s.trap 0x0A op 0x01 va
  else
    let s1 := s.modCtx fun c => { c with walked := none }
    match s.xlate s.focus s.ctx.graph va.toNat rd wr with
    | .fault d => s1.trap 0x0A op d va
    | .miss =>
      match s.ctx.walked with
      | some (v, d) => if v = va.toNat then s1.trap 0x0A op d va else s.missPark va.toNat rd wr op
      | none => s.missPark va.toNat rd wr op
    | .ok w =>
      if addrPool w then
        match t with
        | .dram => s1.trap 0x0A op 0x04 va
        | .dramOrClusterPool => if addrCore w / 16 = s.focus / 16 then k s1 w else s1.trap 0x0A op 0x03 va
      else k s1 w

/-! ## Send queues (R77) -/

/-- Entries taken of a core's curd or whey send queue. -/
def State.queued (s : State) (cid : Nat) (whey : Bool) : Nat :=
  (s.net.filter fun m => m.src == cid && m.whey == whey && m.entry).length

/-- The limits of SQLIM (R19). -/
def Core.curdLimit (k : Core) : Nat := (k.sqlim.extractLsb' 0 5).toNat
def Core.wheyLimit (k : Core) : Nat := (k.sqlim.extractLsb' 8 5).toNat

/-- Place 10 of R76: a curd entry, or the send-queue-full trap. -/
def State.withCurd (s : State) (k : State) : State :=
  if s.cur.curdLimit ≤ s.queued s.focus false then s.trap 0x07 0 0x01 0 else k

/-- A message of the issuing context put into its send queue (R77). -/
def State.post (s : State) (dst : Nat) (whey : Bool) (pend : List Nat) (body : MsgBody) : State :=
  { s with
    net := s.net ++ [{ id := s.nextId, src := s.focus, dst, ctx := s.who, graph := s.ctx.graph, whey, entry := true,
                       pend, engine := none, via := none, born := s.cur.cycle, past := false, body }]
    nextId := s.nextId + 1 }

/-- A message that a column port sends (R78); it counts the detour hops of its way (R245). -/
def State.portPost (s : State) (src dst : Nat) (ctx : BitVec 4) (graph : BitVec 16) (body : MsgBody) : State :=
  let s1 : State := { s with
    net := s.net ++ [{ id := s.nextId, src, dst, ctx, graph, whey := true, entry := false, pend := [], engine := none,
                       via := none, born := 0, past := false, body }]
    nextId := s.nextId + 1 }
  s1.countDetours src dst

/-- A reply waited for (R74). -/
def Context.await (c : Context) (r : Reg) (a : Await) : Context := { c.markEmpty r with awaits := c.awaits ++ [a] }

end Sys2Proof.Machine
end

