-- ==== Sys2Proof/Machine/Message.lean ====
section
/-!
DEFINITION. Sys2Proof/Machine/Message.lean: the message instructions, majors 0x40 to 0x47 and 0x49 (R73 to R91, R95).
-/

namespace Sys2Proof.Machine

/-! ## Requests and replies (R80 to R83) -/

/-- The reply tag of a request (R82). -/
def replyTag (cid : Nat) (ctx : BitVec 4) (reply : Option (Reg × BitVec 10)) : Word :=
  let base := BitVec.ofNat 64 (cid % 2 ^ 21 * 2 ^ 26) ||| ctx.setWidth 64 <<< 10
  match reply with
  | some (r, q) => base ||| q.setWidth 64 <<< 16 ||| r.setWidth 64 <<< 5
  | none => base ||| 0x800000000000

/-- Fields of a reply tag (R82). -/
def tagCore (t : Word) : Nat := (t.extractLsb' 26 21).toNat
def tagReg (t : Word) : Reg := t.extractLsb' 5 5
def tagSeq (t : Word) : BitVec 10 := t.extractLsb' 16 10
def tagCtx (t : Word) : BitVec 4 := t.extractLsb' 10 4

/-- The reserved bits of a reply tag (R82). -/
def tagReserved (t : Word) : Bool := t.extractLsb' 48 16 != 0 || t.extractLsb' 14 2 != 0 || t.extractLsb' 0 5 != 0

/-- A request that asks for a reply where d is not 0: SEQ advances, s[d] is empty and awaited (R74, R81, R82). -/
def State.ask (s : State) (d : Reg) (dst : Nat) (body : Word → MsgBody) : State :=
  let c := s.ctx
  let s1 := s.countMe 0x058
  if d = 0 then (s1.post dst false [] (body (replyTag s.focus s.who none))).retire id
  else (s1.post dst false [] (body (replyTag s.focus s.who (some (d, c.seq))))).retire fun c =>
    { c.await d (.reply d c.seq) with seq := c.seq + 1 }

/-- R81: a request to a service of a core. -/
def execSndCurd (d a b : Reg) (w : Bool) (s : State) : Answer :=
  let x := s.ctx.readS a
  let dst := (x.extractLsb' 26 21).toNat
  .next (s.onSources w [a, b]
    (if x.extractLsb' 47 17 ≠ 0 ∨ x.extractLsb' 4 22 ≠ 0 then s.trap 0x01 (a.setWidth 8) 0x0E x
     else if !s.present dst then s.trap 0x01 (a.setWidth 8) 0x0F x
     else s.withCurd (s.ask d dst fun tag => .request (x.extractLsb' 0 4).toNat tag (s.ctx.readS b))))

/-- ReleaseHold: the hold of an `ocall` tag that this firing answers ends once its writes are visible (R83, R90, R314). -/
def State.releaseHold (s : State) (tag : Word) : State :=
  let m := s.takenHolds s.focus
  let pend := s.writesOf s.focus s.who
  s.modCur fun k => { k with
    holds := (k.holds.take m).map (fun h =>
      if h.tag == tag && h.ctx == s.who && h.ends.isNone then
        { h with ends := some (true, pend), mine := (s.ctx.firedAt, s.nextId) } else h) ++ k.holds.drop m }

/-- R83: the answer to the request whose tag is in s[a]; it waits in the whey queue until the context's earlier writes
are visible (R314). -/
def execRplWhey (a b : Reg) (w : Bool) (s : State) : Answer :=
  let t := s.ctx.readS a
  .next (s.onSources w [a, b]
    (if tagReserved t then s.trap 0x01 (a.setWidth 8) 0x0E t
     else if !s.present (tagCore t) then s.trap 0x01 (a.setWidth 8) 0x0F t
     else if t.getLsbD 47 then (s.releaseHold t).retire id
     else if s.cur.wheyLimit ≤ s.queued s.focus true then s.trap 0x07 0 0x02 0
     else ((((s.releaseHold t).countMe 0x059).post (tagCore t) true (s.writesOf s.focus s.who)
       (.answer t (s.ctx.readS b))).retire id)))

/-! ## Far loads and stores (R85 to R87) -/

/-- R85: a far load. -/
def execFld (d a b : Reg) (w : Bool) (z : BitVec 3) (s : State) : Answer :=
  let n := loadSize z
  let va := s.ctx.readS a + s.ctx.readS b
  .next (s.onSources w [a, b] (s.withAddr a va n true false .dramOrClusterPool fun s1 addr =>
    s1.withCurd (((s1.countMe 0x058).post (addrCore addr) false [] (.load addr n (!loadUnsigned z) d)).retire fun c =>
      c.await d (.read d s1.nextId))))

/-- R86: a far store; s[d] is a source. -/
def execFst (d a b : Reg) (w : Bool) (z : BitVec 2) (s : State) : Answer :=
  let n := storeSize z
  let va := s.ctx.readS a + s.ctx.readS b
  .next (s.onSources w [d, a, b] (s.withAddr a va n false true .dramOrClusterPool fun s1 addr =>
    s1.withCurd (((s1.countMe 0x058).post (addrCore addr) false [] (.store addr n (s.ctx.readS d))).retire id)))

/-- R87: an element narrower than a byte, stored as one read-modify-write at the owner port. -/
def State.sendSub (s : State) (d a : Reg) (va : Word) (pos width : Nat) : State :=
  s.withAddr a va 1 false true .dramOrClusterPool fun s1 addr =>
    s1.withCurd (((s1.countMe 0x058).post (addrCore addr) false [] (.subStore addr pos width (s.ctx.readS d))).retire id)

/-- R87: a 4-bit element. -/
def execFstbN4 (d a b : Reg) (w : Bool) (s : State) : Answer :=
  let i := s.ctx.readS b
  .next (s.onSources w [d, a, b] (s.sendSub d a (s.ctx.readS a + i >>> 1) (4 * (i.toNat % 2)) 4))

/-- R87: a 2-bit element. -/
def execFstbN2 (d a b : Reg) (w : Bool) (s : State) : Answer :=
  let i := s.ctx.readS b
  .next (s.onSources w [d, a, b] (s.sendSub d a (s.ctx.readS a + i >>> 2) (2 * (i.toNat % 4)) 2))

/-! ## Atomics (R88) -/

/-- The size of an integer atomic: 4 bytes under `fmt` INT32, else 8 (R88). -/
def State.intAmoSize (s : State) : Nat := if s.ctx.chain.afmt = some 0x15 then 4 else 8

/-- An atomic sent to its owner; d ≠ 0 asks for the old value (R74, R88). -/
def State.sendAmo (s : State) (op : AmoOp) (n : Nat) (d a : Reg) (x y : Word) : State :=
  s.withAddr a (s.ctx.readS a) n true true .dramOrClusterPool fun s1 addr =>
    s1.withCurd (((s1.countMe 0x058).post (addrCore addr) false [] (.amo op addr n x y d)).retire fun c =>
      if d = 0 then c else c.await d (.read d s1.nextId))

/-- R88: old + op, atomically at the owner port; 4 bytes with `fmt` INT32. -/
def execAmoAdd (d a b : Reg) (w : Bool) (s : State) : Answer :=
  .next (s.onSources w [a, b] (s.sendAmo .add s.intAmoSize d a (s.ctx.readS b) 0))

/-- R88: old AND op, atomically at the owner port; 4 bytes with `fmt` INT32. -/
def execAmoAnd (d a b : Reg) (w : Bool) (s : State) : Answer :=
  .next (s.onSources w [a, b] (s.sendAmo .and s.intAmoSize d a (s.ctx.readS b) 0))

/-- R88: old OR op, atomically at the owner port; 4 bytes with `fmt` INT32. -/
def execAmoOr (d a b : Reg) (w : Bool) (s : State) : Answer :=
  .next (s.onSources w [a, b] (s.sendAmo .or s.intAmoSize d a (s.ctx.readS b) 0))

/-- R88: old XOR op, atomically at the owner port; 4 bytes with `fmt` INT32. -/
def execAmoXor (d a b : Reg) (w : Bool) (s : State) : Answer :=
  .next (s.onSources w [a, b] (s.sendAmo .xor s.intAmoSize d a (s.ctx.readS b) 0))

/-- R88: the lesser, signed, atomically at the owner port; 4 bytes with `fmt` INT32. -/
def execAmoMin (d a b : Reg) (w : Bool) (s : State) : Answer :=
  .next (s.onSources w [a, b] (s.sendAmo .min s.intAmoSize d a (s.ctx.readS b) 0))

/-- R88: the greater, signed, atomically at the owner port; 4 bytes with `fmt` INT32. -/
def execAmoMax (d a b : Reg) (w : Bool) (s : State) : Answer :=
  .next (s.onSources w [a, b] (s.sendAmo .max s.intAmoSize d a (s.ctx.readS b) 0))

/-- R88: the lesser, unsigned, atomically at the owner port; 4 bytes with `fmt` INT32. -/
def execAmoMinu (d a b : Reg) (w : Bool) (s : State) : Answer :=
  .next (s.onSources w [a, b] (s.sendAmo .minu s.intAmoSize d a (s.ctx.readS b) 0))

/-- R88: the greater, unsigned, atomically at the owner port; 4 bytes with `fmt` INT32. -/
def execAmoMaxu (d a b : Reg) (w : Bool) (s : State) : Answer :=
  .next (s.onSources w [a, b] (s.sendAmo .maxu s.intAmoSize d a (s.ctx.readS b) 0))

/-- R88: op, atomically at the owner port; 4 bytes with `fmt` INT32. -/
def execAmoSwap (d a b : Reg) (w : Bool) (s : State) : Answer :=
  .next (s.onSources w [a, b] (s.sendAmo .swap s.intAmoSize d a (s.ctx.readS b) 0))

/-- R88: s[b] where the old value equals s[c]. -/
def execAmoCas (d a b c : Reg) (w : Bool) (s : State) : Answer :=
  .next (s.onSources w [a, b, c] (s.sendAmo .cas s.intAmoSize d a (s.ctx.readS b) (s.ctx.readS c)))

/-- R88, R89: a binary32 sum, rounded once with RNE. -/
def execAmoFaddF32 (d a b : Reg) (w : Bool) (s : State) : Answer :=
  .next (s.onSources w [a, b] (s.sendAmo .faddF32 4 d a (s.ctx.readS b) 0))

/-- R88, R89: a BF16 sum, rounded once with RNE. -/
def execAmoFaddBf16 (d a b : Reg) (w : Bool) (s : State) : Answer :=
  .next (s.onSources w [a, b] (s.sendAmo .faddBf16 2 d a (s.ctx.readS b) 0))

/-! ## ocall, mcast, fences (R90, R91, R95) -/

/-- R90: a request to the `ocall` service of the owner of a 64-byte line. -/
def execOcall (d a b : Reg) (w : Bool) (s : State) : Answer :=
  let va := s.ctx.readS a
  .next (s.onSources w [a, b] (s.withAddr a va 64 false true .dram fun s1 addr =>
    s1.withCurd (s1.ask d (addrCore addr) fun tag => .ocall tag va (s.ctx.readS b) addr)))

/-- R91: s[b] to every member of a multicast group of the wafer. -/
def execMcast (a b : Reg) (w : Bool) (s : State) : Answer :=
  let g := s.ctx.readS a
  .next (s.onSources w [a, b]
    (if g.toNat / 256 ≠ 0 then s.trap 0x01 (a.setWidth 8) 0x0E g
     else s.withCurd ((s.post s.focus false [] (.mcast g.toNat (s.ctx.readS b))).retire id)))

/-- The scope a fence names (R30, R95). -/
def fenceScope (x : BitVec 3) : Scope :=
  match x.toNat with
  | 0 => .core
  | 1 => .cluster
  | 2 => .field
  | 3 => .wafer
  | _ => .system

/-- A fence: s[d] is empty until the context's earlier writes meet its condition (R95). -/
def State.fence (s : State) (d : Reg) (vis : Bool) (x : BitVec 3) : State :=
  let s1 : State := { s with
    fences := s.fences ++ [{ id := s.nextId, cid := s.focus, ctx := s.who, reg := d, vis, scope := fenceScope x,
                             pend := s.writesOf s.focus s.who }]
    nextId := s.nextId + 1 }
  s1.retire fun c => c.markEmpty d

/-- R95: s[d] fills with 0 once every earlier write whose owner lies in the scope is accepted. -/
def execFenceAcc (d : Reg) (x : BitVec 3) (s : State) : Answer := .next (s.fence d false x)

/-- R95: s[d] fills with 0 once every earlier write is visible in the scope. -/
def execFenceVis (d : Reg) (x : BitVec 3) (s : State) : Answer := .next (s.fence d true x)

end Sys2Proof.Machine
end

