-- ==== Sys2Proof/Machine/Owner.lean ====
section
/-!
DEFINITION. Sys2Proof/Machine/Owner.lean: what happens to a message on its way: the send queue (R77), delivery of
requests (R79, R90), accesses at an owner's column port (R78, R88, R303), replies (R83, R84) and fences (R95).
-/

namespace Sys2Proof.Machine

/-! ## Order of arrival (R78, R193) -/

/-- The virtual channel of a message or multicast (R189). -/
def Msg.vc (m : Msg) : Nat :=
  match m.body with
  | .mcast .. => 7
  | _ => if m.whey then 5 else 4

/-- The virtual channel of a channel's tokens and credits on the word plane (R189). -/
def Channel.vc (ch : Channel) : Nat := ch.prio / 12

/-- Do two messages keep the order in which they left their send queues until they arrive: one virtual channel, one cluster of
destination, and one sender or one forwarding port (R193, R303)? Forwarded accesses and others keep no order (R304). -/
def Msg.sameLane (m x : Msg) : Bool :=
  !x.entry && x.dst / 16 == m.dst / 16 && x.vc == m.vc && x.via.isSome == m.via.isSome && x.from_ == m.from_

/-- The channel that a service source of a core is bound to. -/
def State.serviceChan (s : State) (e : ChanEnd) : Option (Nat × Channel) :=
  match s.chans.findIdx? fun ch => ch.bound && ch.src == e with
  | some i => (s.chans[i]?).map fun ch => (i, ch)
  | none => none

/-- Does an `ocall` stand at its owner, where only the hold of another keeps it (R90)? -/
def State.ocallStands (s : State) (m : Msg) (a : Nat) : Bool :=
  match s.serviceChan (.ocall m.dst) with
  | some (_, ch) => ch.queue.length + 3 ≤ ch.depth && s.held a 64 m.src m.ctx m.id
  | none => false

/-- Is a message still on its way, so that none behind it in its lane has arrived: a request that waits for its service queue, a
reply (R84, R193)? An access has arrived, though it may wait at the port (R78); a chase, which never waits before its port, holds
up none but a message to its own owner, until it is taken (R310, R377). -/
def State.underWay (s : State) (m : Msg) (dst : Nat) : Bool :=
  match m.body with
  | .ocall _ _ _ a => !s.ocallStands m a
  | .chase .. => m.dst == dst && !((s.core m.dst).station.contains m.id || (s.core m.dst).spill.any fun y => y.1 == m.id)
  | b => (b.span?).isNone

/-- Has a message arrived: its way is open, or it is past the failure, and none before it in its lane is still under way (R193,
R207; log entry 10)? -/
def State.inTurn (s : State) (m : Msg) : Bool :=
  (m.past || s.linked .word m.from_ m.dst) && !(s.earlier m.id).any fun x => m.sameLane x && s.underWay x m.dst

/-- Is a message on its way over the mesh: it has left its queue, and is no chase that its owner has taken (R377)? -/
def State.onMesh (s : State) (m : Msg) : Bool :=
  !m.entry && match m.body with
    | .chase .. => s.underWay m m.dst
    | _ => true

/-- Does a message on its way stand before a link or router that has failed? It does not go on, and is discarded when it comes
there (R207, R247; log entry 10). -/
def State.stranded (s : State) (m : Msg) : Bool := s.onMesh m && !m.past && !s.linked .word m.from_ m.dst

/-- The requester on whose behalf an access is made, and its number: a piece of an EFM result is asked for by a chase (R380). -/
def State.asker (s : State) (m : Msg) : Nat × BitVec 4 × Nat :=
  match m.body with
  | .chasePiece i _ _ => match s.msg? i with
    | some c => (match c.body with
      | .chase p => (p.rcid, p.rctx, i)
      | _ => (m.src, m.ctx, m.id))
    | none => (m.src, m.ctx, m.id)
  | _ => (m.src, m.ctx, m.id)

/-- Is an access first at its owner's port: it has arrived, and each access that came before it by the same way is kept by a hold
that lets this one pass, as an access of the firing that consumed the tag (R78, R90, R310; log entry 95)? -/
def State.firstAtPort (s : State) (m : Msg) : Bool :=
  s.inTurn m && (s.earlier m.id).all fun x => !m.sameWay x || match x.body.span? with
    | some (a, n) =>
      let y := s.asker x
      let z := s.asker m
      (s.holdsOn a n).any fun (h, i) =>
        !s.passes (addrCore a) i h y.1 y.2.1 y.2.2 && s.passes (addrCore a) i h z.1 z.2.1 z.2.2
    | none => true

/-- Is a message the oldest of its core's send queue (R77)? -/
def State.atQueueHead (s : State) (m : Msg) : Bool :=
  match s.net.find? fun x => x.src == m.src && x.whey == m.whey && x.entry with
  | some x => x.id == m.id
  | none => false

/-- A message changed. -/
def State.modMsg (s : State) (id : Nat) (f : Msg → Msg) : State :=
  { s with net := s.net.map fun m => if m.id == id then f m else m }

/-- A message sent on by a column port, behind those it sent before (R303). -/
def State.sendOn (s : State) (m : Msg) (dst : Nat) (body : MsgBody) : State :=
  let s1 := s.dropMsg m.id
  let s2 : State := { s1 with net := s1.net ++ [{ m with via := some m.dst, dst, past := false, body }] }
  s2.countDetours m.dst dst

/-- Has a message stood in its send queue for the least time: the cycle in which it was issued and three more (R182)? CYCLE is that of
the last issue, so that no entry frees while the next instruction waits (DESIGN CHOICE; log entry 2). -/
def State.mayLeave (s : State) (m : Msg) : Bool := 3 ≤ ((s.core m.src).cycle - m.born).toNat

/-- The members that a multicast is sent to: none where the entry of its sender's router is not valid (R91, R200). -/
def State.mcastSent (s : State) (src g : Nat) : List Nat :=
  let r := s.routerOf src
  let w := src / 65536
  if ((assocGet (s.hub (s.routerKey w r.1 r.2)).mcast g).getD 0).getLsbD 21 then s.mcastMembers w g else []

/-- An access that ends without an answer: the message is gone, and with a piece of an EFM result its chase (R252, R260,
R380). -/
def State.loseAccess (s : State) (m : Msg) : State :=
  match m.body with
  | .chasePiece i _ _ => (s.dropMsg m.id).loseChase i
  | .pieceReply i _ => (s.dropMsg m.id).loseChase i
  | _ => s.dropMsg m.id

/-- A message lost on its way: dropped and counted; with a piece of an EFM result its chase is lost (R207, R380). -/
def State.loseMsg (s : State) (m : Msg) : State := (s.loseAccess m).count m.dst 0x090

/-- R77, R182: the head flit of the oldest message of a send queue enters the cluster switch; a reply waits until its
context's earlier writes are visible in its scope (R314). A multicast then stands at the sender's router (R198). -/
def execSendQueueEntryFree (msg : Nat) (s : State) : Answer :=
  match s.msg? msg with
  | none => .next s
  | some m =>
    if !(m.entry && s.mayLeave m && s.atQueueHead m)
        || m.pend.any (fun id => s.invisible (scopeOf m.src m.dst) m.src id) then .next s
    else match m.body with
      | .mcast g p =>
        let (x, y) := s.routerOf m.src
        let s1 := s.dropMsg msg
        let sent : Mcast := { origin := m.id, wafer := m.src / 65536, group := g, at_ := (x, y)
                              old := s.mcastSent m.src g, got := [], changed := false }
        let packet : McastPacket := { id := s.nextId, origin := m.id, x, y, from_ := none, hops := 127, group := g
                                      payload := p, sender := m.src, sctx := m.ctx, member := none }
        let s2 : State := { s1 with mcasts := s1.mcasts ++ [sent], packets := s1.packets ++ [packet], nextId := s1.nextId + 1 }
        .next (s2.countTree m.graph m.src g)
      | _ =>
        let s1 := s.dropMsg msg
        let s2 : State := { s1 with net := s1.net ++ [{ m with entry := false }] }
        .next (s2.countDetours m.src m.dst)

/-! ## Delivery of requests (R79, R90) -/

/-- Tokens put at the end of a channel's queue. -/
def State.enqueue (s : State) (n : Nat) (ts : List Token) : State :=
  s.modChan n fun ch => { ch with queue := ch.queue ++ ts }

/-- A request for a service that is not bound (R79); the record has the service number in DETAIL, 0 for `ocall`, and the
requester's graph (log entry 86). -/
def State.dropRequest (s : State) (m : Msg) (n : Nat) : State :=
  ((s.dropMsg m.id).count m.dst 0x090).fabricError 0x02 (BitVec.ofNat 8 n) m.dst m.graph 0

/-- R79: a request delivered as consecutive tokens once its whole count of queue entries is free; an `ocall` then
holds its 64 bytes (R90). -/
def execServiceRequestDelivery (msg : Nat) (s : State) : Answer :=
  match s.msg? msg with
  | none => .next s
  | some m =>
    if s.stranded m then .next (s.loseMsg m)
    else if m.entry || !s.inTurn m then .next s
    else match m.body with
      | .request n tag x =>
        match s.serviceChan (.service m.dst n) with
        | none => .next ((s.crossed .word m.from_ m.dst).dropRequest m n)
        | some (i, ch) =>
          if ch.queue.length + 2 ≤ ch.depth then
            .next (((s.crossed .word m.from_ m.dst).dropMsg msg).enqueue i [wordToken tag 6, wordToken x 0])
          else .next s
      | .ocall tag va x a =>
        let a' := s.nextAt a
        if a' ≠ a then .next ((s.crossed .word m.from_ m.dst).sendOn m (addrCore a') (.ocall tag va x a'))
        else match s.serviceChan (.ocall m.dst) with
          | none => .next ((s.crossed .word m.from_ m.dst).dropRequest m 0)
          | some (i, ch) =>
            if ch.queue.length + 3 ≤ ch.depth ∧ s.held a 64 m.src m.ctx m.id = false then
              let ctx : BitVec 4 := match ch.dst with
                | .port _ c _ => BitVec.ofNat 4 c
                | _ => 0
              .next ((((s.crossed .word m.from_ m.dst).dropMsg msg).enqueue i
                [wordToken tag 6, wordToken va 6, wordToken x 0]).modCore m.dst fun k =>
                { k with holds := k.holds.filter (s.holdActive m.dst) ++ [{ addr := a, tag, cid := tagCore tag, ctx, mine := (0, 0), ends := none }] })
            else .next s
      | _ => .next s

/-! ## Accesses at the owner port (R78, R86 to R89, R303) -/

/-- What an atomic leaves in memory (R88, R89): old value, operand and compare value as numbers of `n` bytes. -/
def amoNew (op : AmoOp) (n old x y : Nat) : Nat :=
  let b := 8 * n
  let sg := readInt b true
  match op with
  | .add => (old + x) % 2 ^ b
  | .and => old &&& x
  | .or => old ||| x
  | .xor => old ^^^ x
  | .min => if sg x < sg old then x else old
  | .max => if sg old < sg x then x else old
  | .minu => min old x
  | .maxu => max old x
  | .swap => x
  | .cas => if old = y then x else old
  | .faddF32 => (fmtFP32.write 0 0 0 (ExNum.add false (fmtFP32.read old) (fmtFP32.read x))).code
  | .faddBf16 => (fmtBF16.write 0 0 0 (ExNum.add false (fmtBF16.read old) (fmtBF16.read x))).code

/-- The old value as the register receives it (R88). -/
def amoOld (op : AmoOp) (n old : Nat) : Word :=
  match op with
  | .faddF32 => BitVec.ofNat 64 old
  | .faddBf16 => BitVec.ofNat 64 old
  | _ => extendTo64 n false old

/-- The message with its access moved to another address. -/
def MsgBody.moved (b : MsgBody) (a : Nat) : MsgBody :=
  match b with
  | .load _ n sg r => .load a n sg r
  | .store _ n x => .store a n x
  | .subStore _ p w x => .subStore a p w x
  | .amo op _ n x y r => .amo op a n x y r
  | .forward _ n x => .forward a n x
  | .chasePiece i _ n => .chasePiece i a n
  | b => b

/-- A write performed at a port: there, and on its way to the home while the old frame is being copied (R303). -/
def State.portWrite (s : State) (m : Msg) (a n x : Nat) : State :=
  let s1 := s.writeLE a n x
  match s.homeOf a with
  | none => s1.dropMsg m.id
  | some h => s1.sendOn m (addrCore h) (.forward h n (BitVec.ofNat 256 x))

/-- The access of a message performed at its place (R78, R85 to R88). -/
def State.performAccess (s : State) (m : Msg) : State :=
  match m.body with
  | .load a n sg r =>
    (s.dropMsg m.id).portPost m.dst m.src m.ctx m.graph (.readReply r m.id (extendTo64 n (!sg) (s.readLE a n)))
  | .store a n x => s.portWrite m a n (x.toNat % 256 ^ n)
  | .subStore a p w x =>
    let old := s.readLE a 1
    s.portWrite m a 1 (old - old / 2 ^ p % 2 ^ w * 2 ^ p + x.toNat % 2 ^ w * 2 ^ p)
  | .amo op a n x y r =>
    let old := s.readLE a n
    let fails := op == .cas && old != y.toNat % 256 ^ n
    let s1 := if fails then s.dropMsg m.id else s.portWrite m a n (amoNew op n old (x.toNat % 256 ^ n) (y.toNat % 256 ^ n))
    if r = 0 then s1 else s1.portPost m.dst m.src m.ctx m.graph (.readReply r m.id (amoOld op n old))
  | .forward a n x => s.portWrite m a n x.toNat
  | .chasePiece i a n => (s.dropMsg m.id).portPost m.dst m.src m.ctx m.graph (.pieceReply i (s.readBytes a n))
  | _ => s

/-- R78: the oldest access of a core to an owner is performed at the owner's column port, unless the comparator holds
it; one to a page whose copy is complete goes on to the home (R303); one outside the owner's scratchpad is discarded
with a machine check that halts the requester's region. -/
def execOwnerPortAccess (msg : Nat) (s : State) : Answer :=
  match s.msg? msg with
  | none => .next s
  | some m =>
    match m.body.span? with
    | none => .next s
    | some (a, n) =>
      let who := s.asker m
      if s.stranded m then .next (s.loseMsg m)
      else if m.entry || !s.firstAtPort m then .next s
      else match s.portAt a n who.1 who.2.1 who.2.2 with
        | .wait => .next s
        | .down => .next (((s.crossed .word m.from_ m.dst).loseAccess m).haltRegion m.graph)
        | .open_ =>
          if s.rejected a n then
            .next ((((s.crossed .word m.from_ m.dst).loseAccess m).haltRegion m.graph).machineCheck 0x02 0 m.src m.graph
              (BitVec.ofNat 64 a))
          else if s.nextAt a ≠ a then
            .next ((s.crossed .word m.from_ m.dst).sendOn m (addrCore (s.nextAt a)) (m.body.moved (s.nextAt a)))
          else .next ((s.crossed .word m.from_ m.dst).performAccess m)

/-! ## Replies and fences (R83, R84, R95) -/

/-- The register and await that a reply answers, and its value. -/
def MsgBody.answers? : MsgBody → Option (Reg × Await × Word)
  | .answer t v => some (tagReg t, .reply (tagReg t) (tagSeq t), v)
  | .readReply r id v => some (r, .read r id, v)
  | _ => none

/-- A reply written to its register, or discarded as stale (R83). -/
def State.takeReply (s : State) (m : Msg) : State :=
  match m.body.answers? with
  | none => s
  | some (r, aw, v) =>
    let n : BitVec 4 := match m.body with
      | .answer t _ => tagCtx t
      | _ => m.ctx
    let c := s.ctxAt m.dst n
    if c.awaits.contains aw then s.setCtxAt m.dst n { c.writeS r v with awaits := c.awaits.erase aw }
    else s.count m.dst 0x05A (some (n, c.graph))

/-- The context a reply goes to. -/
def Msg.target (m : Msg) : BitVec 4 :=
  match m.body with
  | .answer t _ => tagCtx t
  | .chaseReply x _ _ _ _ _ _ => x
  | _ => m.ctx

/-- A reply discarded, counted and reported (R84), with the graph of the context it was for (log entry 86). -/
def State.lostReply (s : State) (m : Msg) : State :=
  let g := (s.ctxAt m.dst m.target).graph
  (s.count m.dst 0x05A (some (m.target, g))).fabricError 0x05 0 m.dst g 0

/-- A reply for a context whose region is saved goes to the core's reply buffer; one that finds it full, or a context
no longer bound, is discarded, counted and reported (R84). -/
def State.arriveReply (s : State) (m : Msg) (take : State → Msg → State) : State :=
  let c := s.ctxAt m.dst m.target
  let s1 := s.dropMsg m.id
  let lost := s1.lostReply m
  if !c.bound then lost
  else if c.saved then
    (if (s.core m.dst).replyBuf.length < Config.replyBufferSize then
      s1.modCore m.dst fun k => { k with replyBuf := k.replyBuf ++ [m] } else lost)
  else take s1 m

/-- The bytes of a piece join the EFM result of the chase that asked for them (R380). -/
def State.takePiece (s : State) (m : Msg) (chase : Nat) (l : List Byte) : State :=
  (s.dropMsg m.id).modMsg chase fun x => { x with body := match x.body with
    | .chase p => .chase { p with got := p.got ++ l, asked := false }
    | b => b }

/-- R83: a reply reaches its requester, in its turn (R193); so does a piece of an EFM result (R380). -/
def execReplyArrival (msg : Nat) (s : State) : Answer :=
  match s.msg? msg with
  | none => .next s
  | some m =>
    if s.stranded m then .next (s.loseMsg m)
    else if m.entry || !s.inTurn m then .next s
    else match m.body with
      | .pieceReply i l => .next ((s.crossed .word m.from_ m.dst).takePiece m i l)
      | b =>
        if (b.answers?).isNone then .next s
        else .next ((s.crossed .word m.from_ m.dst).arriveReply m State.takeReply)

/-- Is a fence's condition met (R95)? -/
def State.fenceMet (s : State) (f : Fence) : Bool :=
  f.pend.all fun id => !(if f.vis then s.invisible f.scope f.cid id else s.unaccepted f.scope f.cid id)

/-- R95: a fence whose earlier writes meet its condition fills its register with 0. -/
def execFenceCompletion (fence : Nat) (s : State) : Answer :=
  match s.fences.find? fun f => f.id == fence with
  | none => .next s
  | some f =>
    if s.fenceMet f && !(s.ctxAt f.cid f.ctx).saved then
      .next ({ s with fences := s.fences.filter fun g => g.id != fence }.modCtxAt f.cid f.ctx fun c => c.writeS f.reg 0)
    else .next s

end Sys2Proof.Machine
end

