-- ==== Sys2Proof/Machine/Chase.lean ====
section
/-!
DEFINITION. Sys2Proof/Machine/Chase.lean: chained loads (R92 to R94, R374 to R384).
-/

namespace Sys2Proof.Machine

/-! ## Steps (R92) -/

def stepOff (x : BitVec 32) : Word := (x.extractLsb' 8 24).signExtend 64
def stepTag (x : BitVec 32) : Nat := (x.extractLsb' 4 4).toNat

/-- The steps in use: up to and including the first with LAST (R92). -/
def stepsInUse : List (BitVec 32) → Option (List (BitVec 32))
  | [] => none
  | x :: rest => if stepLast x then some [x] else (stepsInUse rest).map fun l => x :: l

/-- Is a step array valid (R92)? -/
def stepsValid : List (BitVec 32) → Bool
  | [] => true
  | [x] => stepTag x == 0 && stepWidth x != 3 && !x.getLsbD 0
  | x :: rest => stepWidth x == 0 && !x.getLsbD 0 && stepsValid rest

/-- Bytes of the result of the last step, and its alignment: 1 for EFM (R92). -/
def stepAlign (x : BitVec 32) : Nat :=
  if stepLast x then (match stepWidth x with
    | 0 => 8
    | 1 => 4
    | _ => 1)
  else 8

/-- A loaded pointer with its top TAG bits cleared (R93). -/
def clearTag (tag p : Nat) : Nat := p % 2 ^ (64 - tag)

/-- The status word of a chase (R94). -/
def chaseStatus (kind step size : Nat) : Word := BitVec.ofNat 64 (size % 256 * 65536 + step % 8 * 256 + kind % 16)

/-- The eight steps of a descriptor in the issuing core's pool (R92). -/
def State.descriptor (s : State) (off : Nat) : List (BitVec 32) :=
  (List.range 8).map fun i => BitVec.ofNat 32 (s.poolRead (off + 4 * i) 4)

/-- The chase packet sent once every check has passed; with 8 outstanding the context parks (R93, R375, R376). -/
def State.sendChase (s : State) (d b : Reg) (steps : List (BitVec 32)) (va addr : Nat) : State :=
  s.withCurd (
    if Config.chaseLimit ≤ s.chasesOut s.focus then (s.countMe 0x050).parkAs .chase
    else
      let c := s.ctx
      let p : ChasePacket := { dest := addr, steps, step := 0, asn := c.graph, va, rcid := s.focus, rctx := s.who, rreg := d,
                               cseq := c.cseq, roff := (s.ctx.readS b).toNat + 32, waiting := none, got := [], asked := false, later := none }
      (((s.countMe 0x058).countMe 0x05C).post (addrCore addr) false [] (.chase p)).retire fun c =>
        { (c.markEmpty d).markEmpty (d + 1) with awaits := c.awaits ++ [.chase d c.cseq], cseq := c.cseq + 1 })

/-- R93: a chain of pointers followed through DRAM. -/
def execChase (d a b : Reg) (w : Bool) (s : State) : Answer :=
  let off := s.ctx.readS b
  let ob : BitVec 8 := b.setWidth 8
  let all := s.descriptor off.toNat
  .next (s.onSources w [a, b]
    (if off.toNat % 8 ≠ 0 then s.trap 0x03 ob 0 off
     else if !s.cur.inScratch off.toNat 32 then s.trap 0x04 ob 0 off
     else match stepsInUse all with
       | none => s.trap 0x01 ob 0x0E off
       | some steps =>
         if (match steps.getLast? with
             | some x => stepWidth x == 2
             | none => false) && !s.cur.inScratch off.toNat 65 then s.trap 0x04 ob 0 off
         else if !stepsValid steps then s.trap 0x01 ob 0x0E off
         else match steps.head? with
           | none => s.trap 0x01 ob 0x0E off
           | some x =>
             let va := s.ctx.readS a + stepOff x
             s.withAddr a va (stepAlign x) true false .dram fun s1 addr => s1.sendChase d b steps va.toNat addr))

/-! ## The packet (R374) -/

/-- Flit 0 of a packet. -/
def ChasePacket.flit0 (p : ChasePacket) : Nat :=
  p.dest % 2 ^ 48 * 2 ^ 80 + p.steps.length % 16 * 2 ^ 76 + p.step % 8 * 2 ^ 73 + p.asn.toNat * 2 ^ 54 + p.va % 2 ^ 54

/-- Flit 1 of a packet. -/
def ChasePacket.flit1 (p : ChasePacket) : Nat :=
  p.rcid / 65536 % 32 * 2 ^ 123 + p.rcid % 65536 * 2 ^ 107 + p.rctx.toNat * 2 ^ 103 + p.rreg.toNat * 2 ^ 98 + p.cseq.toNat * 2 ^ 88
    + p.roff % 2 ^ 20 * 2 ^ 68

/-- The steps carried, in flits 2 and 3. -/
def stepWords : List (BitVec 32) → Nat
  | [] => 0
  | x :: rest => x.toNat + 2 ^ 32 * stepWords rest

/-- The 64 bytes of a packet as the spill area holds it, flit 0 first and each flit little-endian (log entry 76). -/
def ChasePacket.bytes (p : ChasePacket) : List Byte := leBytes 64 (p.flit0 + 2 ^ 128 * p.flit1 + 2 ^ 256 * stepWords p.steps)

/-- Flits of a packet. -/
def ChasePacket.flits (p : ChasePacket) : Nat := 2 + (p.steps.length + 3) / 4

/-! ## At an owner (R377 to R380) -/

/-- The read of a packet's hop is performed: it no longer stands before other accesses of the port. -/
def State.hasRead (s : State) (m : Msg) : State := s.modCore m.dst fun k => { k with unread := k.unread.filter fun i => i != m.id }

/-- The chain ends: the owner replies straight to the requester (R380). -/
def State.chaseEnd (s : State) (m : Msg) (p : ChasePacket) (status value : Word) (efm : List Byte) : State :=
  ((s.dropMsg m.id).modCore m.dst fun k => k.leaveStation m.id).portPost m.dst p.rcid p.rctx m.graph
    (.chaseReply p.rctx p.rreg p.cseq p.roff status value efm)

/-- A failed check ends the chain with KIND and the failing address (R379). -/
def State.chaseFail (s : State) (m : Msg) (p : ChasePacket) (kind step va : Nat) : State :=
  (s.count m.dst 0x05E).chaseEnd m p (chaseStatus kind step 0) (BitVec.ofNat 64 va) []

/-- The chain is lost with the region of its requester, which halts: its owner's bus has failed (R252), or the spill area is
full (R377). -/
def State.chaseLost (s : State) (m : Msg) : State :=
  (s.loseChase m.id).haltRegion m.graph

/-- The packet changed. -/
def State.setPacket (s : State) (id : Nat) (p : ChasePacket) : State := s.modMsg id fun m => { m with body := .chase p }

/-- Does a chase packet wait for the hub? -/
def State.chaseMissing (s : State) (id : Nat) : Bool :=
  let w := fun (x : Miss) => x.waiter == .chase id
  s.misses.any w || s.hubs.any fun h => h.2.queue.any w || h.2.walks.any fun k => k.waiters.any w

/-- Translate the address `va` for a packet: go on, or wait in the station for the hub, or end the chain (R378). -/
def State.chaseXlate (s : State) (m : Msg) (p : ChasePacket) (step va : Nat) (k : State → Nat → State) : State :=
  match s.xlate m.dst p.asn va true false with
  | .fault _ => s.chaseFail m p 2 step va
  | .miss => ((s.count m.dst 0x080).addMiss m.dst (.chase m.id) p.asn va true false 0).setPacket m.id { p with waiting := some va }
  | .ok a => if addrPool a then s.chaseFail m p 2 step va else k s a

/-- The next address C is checked, translated and the packet forwarded (R378 steps 3 to 5). -/
def State.chaseNext (s : State) (m : Msg) (p : ChasePacket) (c : Nat) : State :=
  match p.steps[1]? with
  | none => s
  | some x =>
    if 2 ^ 54 ≤ c then s.chaseFail m p 3 (p.step + 1) c
    else if c % stepAlign x ≠ 0 then s.chaseFail m p 4 (p.step + 1) c
    else s.chaseXlate m p (p.step + 1) c fun s1 a =>
      let s2 := (s1.modCore m.dst fun k => k.leaveStation m.id).dropMsg m.id
      let s3 : State := { s2 with net := s2.net ++ [{ m with
          src := m.dst, dst := addrCore a, via := none, past := false
          body := .chase { p with dest := a, steps := p.steps.drop 1, step := p.step + 1, va := c, waiting := none } }] }
      s3.countDetours m.dst (addrCore a)

/-- The reply with an EFM result, whose bytes have all been read; a malformed one counts as the canonical NaN (R93). -/
def State.chaseValue (s : State) (m : Msg) (p : ChasePacket) (l : List Byte) : State :=
  let out : List Byte := if 30 < (l.headD 0).toNat then [0x01, 0xFF, 0x7F, 0x80] else l
  s.chaseEnd m p (chaseStatus 0 p.step out.length) 0 out

/-- A piece of an EFM result asked for at another port: of the column that holds it, or of the home of a page whose copy is
complete (R303, R380). -/
def State.askPiece (s : State) (m : Msg) (p : ChasePacket) (n a : Nat) : State :=
  let s0 := (s.hasRead m).setPacket m.id { p with waiting := none, asked := true }
  let s1 : State := { s0 with
    net := s0.net ++ [{ id := s.nextId, src := m.dst, dst := addrCore a, ctx := p.rctx, graph := m.graph, whey := false
                        entry := false, pend := [], engine := some 4, via := none, born := 0, past := false
                        body := .chasePiece m.id a n }]
    nextId := s.nextId + 1 }
  s1.countDetours m.dst (addrCore a)

/-- The answers of the forwarding port and of the home to a read of a chase, both in one column (R303). -/
def State.chasePort (s : State) (m : Msg) (p : ChasePacket) (n a : Nat) : PortAnswer :=
  match s.portAt a n p.rcid p.rctx m.id with
  | .open_ => if s.servedAt a = a then .open_ else s.portAt (s.servedAt a) n p.rcid p.rctx m.id
  | x => x

/-- The next piece of an EFM result, `n` bytes at address `a`: read here, or asked for at the column that holds it (R303,
R380). -/
def State.chasePieceAt (s : State) (m : Msg) (p : ChasePacket) (size n a : Nat) : State :=
  if addrCore a ≠ m.dst then s.askPiece m p n a
  else if addrCore (s.servedAt a) ≠ m.dst then s.askPiece m p n (s.servedAt a)
  else match s.chasePort m p n a with
    | .wait => s.setPacket m.id { p with waiting := none }
    | .down => s.chaseLost m
    | .open_ =>
      let s1 := if p.got.isEmpty then s.count m.dst 0x05D else s
      let got := p.got ++ s.readBytes (s.servedAt a) n
      if got.length = size then s1.chaseValue m p got else s1.setPacket m.id { p with got, waiting := none }

/-- An EFM result read in pieces, one for each aligned 64-byte span, once byte 0 has given its size and the later page that it
reaches has translated; while that translation misses, the port goes on with other accesses (R300, R378, R380). -/
def State.chaseEfm (s : State) (m : Msg) (p : ChasePacket) : State :=
  let k := p.got.length
  let size := efmSize (if k = 0 then s.readByte (s.servedAt p.dest) else p.got.headD 0).toNat
  let next := (p.va / 2 ^ 18 + 1) * 2 ^ 18
  let n := min (size - k) (64 - (p.va + k) % 64)
  if k = size then s.chaseValue m p p.got
  else if p.va + size ≤ next then s.chasePieceAt m p size n (p.dest + k)
  else match p.later with
    | some a => s.chasePieceAt m p size n (if p.va + k < next then p.dest + k else a + (p.va + k - next))
    | none =>
      if 2 ^ 54 ≤ next then s.chaseFail m p 3 p.step next
      else (match s.xlate m.dst p.asn next true false with
        | .miss => s.hasRead m
        | _ => s).chaseXlate m p p.step next fun st a =>
        let p1 := { p with later := some a, waiting := none }
        (st.setPacket m.id p1).chasePieceAt m p1 size n (p.dest + k)

/-- The read of a hop and what follows it (R378, R380). -/
def State.chaseRead (s : State) (m : Msg) (p : ChasePacket) : State :=
  let s1 := s.count m.dst 0x05D
  match p.steps with
  | [] => s
  | x :: _ =>
    if stepLast x then
      match stepWidth x with
      | 0 => s1.chaseEnd m p (chaseStatus 0 p.step 8) (BitVec.ofNat 64 (s.readLE p.dest 8)) []
      | 1 => s1.chaseEnd m p (chaseStatus 0 p.step 4) (BitVec.ofNat 64 (s.readLE p.dest 4)) []
      | _ => s.chaseEfm m p
    else
      let off := match p.steps[1]? with
        | some y => stepOff y
        | none => 0
      (s1.hasRead m).chaseNext m p (BitVec.ofNat 64 (clearTag (stepTag x) (s.readLE p.dest 8)) + off).toNat

/-- The places of a core's spill area that hold no packet. -/
def Core.freeSlots (k : Core) : List Nat :=
  (List.range Config.spillSize).filter fun i => !k.spill.any fun x => x.2 == i

/-- The address of a place of a core's spill area (R377). -/
def spillPlace (cid slot : Nat) : Nat := dramAddr cid (3 * 2 ^ 24 + 0xBBFC00 + 64 * slot)

/-- The free place of a core's spill area that the next packet takes, which the manual leaves open, and its address (R377; log
entry 76). -/
def State.spillAt (s : State) (cid : Nat) : Nat × Nat :=
  let k := s.core cid
  let slot := k.freeSlots.getD (Config.spillSlot (s.tick + s.nextId) % k.freeSlots.length) 0
  (slot, spillPlace cid slot)

/-- Does a packet wait before it is taken: the station is full, and the port to the spill area does not write now (R252, R377)? -/
def State.spillWaits (s : State) (m : Msg) : Bool :=
  Config.stationSize ≤ (s.core m.dst).station.length && (s.core m.dst).spill.length < Config.spillSize
    && s.reachable m.dst (s.spillAt m.dst).2 64 == .wait

/-- A packet that finds the station full: written to the core's spill area through its port; behind a failed bus it is lost with
its region (R252, R377). -/
def State.spillPacket (s : State) (m : Msg) (p : ChasePacket) : State :=
  let x := s.spillAt m.dst
  if s.reachable m.dst x.2 64 = .down then s.chaseLost m
  else ((s.portStore m.dst p.rctx m.graph x.2 p.bytes).modCore m.dst fun k =>
    { k with spill := k.spill ++ [(m.id, x.1)], unread := k.unread ++ [m.id] }).count m.dst 0x05F

/-- A packet taken by the port: into the station, or the spill area where the station is full, or lost with machine check
0x0C (R377). -/
def State.chaseArrive (s : State) (m : Msg) (p : ChasePacket) : State :=
  let k := s.core m.dst
  if k.station.length < Config.stationSize then
    s.modCore m.dst fun k => { k with station := k.station ++ [m.id], unread := k.unread ++ [m.id] }
  else if k.spill.length < Config.spillSize then s.spillPacket m p
  else (s.chaseLost m).machineCheck 0x0C 0 p.rcid m.graph 0

/-- Bytes that must be free of holds before a hop's read begins: byte 0 of an EFM result, and else the whole read (R378). -/
def ChasePacket.first (p : ChasePacket) : Nat := if p.reads = 33 then 1 else p.reads

/-- What a packet in the station does next: its read, or, once that is done, the check of its next address (R378). -/
def State.chaseGo (s : State) (m : Msg) (p : ChasePacket) : State :=
  match p.waiting, p.steps with
  | some c, x :: _ => if stepLast x then s.chaseRead m p else s.chaseNext m p c
  | _, _ =>
    if p.asked then s
    else if p.got.isEmpty then
      match s.portAt p.dest p.first p.rcid p.rctx m.id with
      | .wait => s
      | .down => s.chaseLost m
      | .open_ => s.chaseRead m p
    else s.chaseRead m p

/-- Is the read of a packet's hop still to be performed, with no byte of it read: the address it may wait for is that of a later
page of an EFM result (R378, R380)? -/
def ChasePacket.readsNext (p : ChasePacket) : Bool :=
  p.got.isEmpty && !p.asked && match p.waiting, p.steps with
    | some _, x :: _ => stepLast x
    | some _, [] => false
    | none, _ => true

/-- R378: one hop at the owner that holds the packet: it is taken on arrival, in its turn (R193), and its read is performed
in the order of arrival. One whose page has been copied goes on to the home before its read (R382). -/
def execChaseHop (msg : Nat) (s : State) : Answer :=
  match s.msg? msg with
  | none => .next s
  | some m =>
    match m.body with
    | .chase p =>
      let here := (s.core m.dst).station.contains msg
      if s.stranded m then .next (s.loseMsg m)
      else if m.entry || s.chaseMissing msg || ((s.core m.dst).spill.any fun x => x.1 == msg) || !(here || s.inTurn m) then .next s
      else if p.readsNext && s.nextAt p.dest ≠ p.dest then
        .next (((s.crossed .word m.from_ m.dst).modCore m.dst fun k => k.leaveStation msg).sendOn m (addrCore (s.nextAt p.dest))
          (.chase { p with dest := s.nextAt p.dest, waiting := none, later := none }))
      else if here then .next (s.chaseGo m p)
      else if s.spillWaits m then .next s
      else
        let s1 := (s.crossed .word m.from_ m.dst).chaseArrive m p
        .next (if (s1.core m.dst).station.contains msg then s1.chaseGo m p else s1)
    | _ => .next s

/-- R377: the oldest spilled packet is read from its place in the spill area and returns to the station: once the port reads there,
and behind a failed bus it is lost with its region (R252). -/
def execChaseSpillReturn (cid : Nat) (s : State) : Answer :=
  let k := s.core cid
  match k.spill with
  | [] => .next s
  | (i, slot) :: rest =>
    if Config.stationSize ≤ k.station.length then .next s
    else match s.reachable cid (spillPlace cid slot) 64, s.msg? i with
      | .wait, _ => .next s
      | .down, some m => .next (s.chaseLost m)
      | _, _ => .next (s.setCore cid { k with station := k.station ++ [i], spill := rest })

/-- Bytes of an EFM result that its requester writes in one piece: those in the aligned 64-byte span of the place written
(R319). -/
def replySpan (off : Nat) (efm : List Byte) : Nat := min efm.length (64 - off % 64)

/-- A chase reply taken: the EFM bytes to the pool, then both registers, or discarded as stale (R375). -/
def State.takeChase (s : State) (m : Msg) : State :=
  match m.body with
  | .chaseReply n r q off st v efm =>
    let c := s.ctxAt m.dst n
    if c.awaits.contains (.chase r q) then
      (s.writeBytes (poolAddr m.dst off) efm).setCtxAt m.dst n
        { (c.writeS (r + 1) v).writeS r st with awaits := c.awaits.erase (.chase r q) }
    else s.count m.dst 0x05A (some (n, c.graph))
  | _ => s

/-- R375: a chase reply reaches its requester in its turn (R193), over links in use (R207): the EFM bytes are written a span at a
time (R319), then the registers; for a saved context the bytes are written at once (R383). -/
def execChaseReply (msg : Nat) (s : State) : Answer :=
  match s.msg? msg with
  | none => .next s
  | some m =>
    match m.body with
    | .chaseReply n r q off st v efm =>
      let c := s.ctxAt m.dst n
      let k := replySpan off efm
      let due := c.awaits.contains (.chase r q)
      if s.stranded m then .next (s.loseMsg m)
      else if !s.inTurn m then .next s
      else if due && c.bound && k < efm.length then
        .next ((s.writeBytes (poolAddr m.dst off) (efm.take k)).modMsg msg fun x =>
          { x with body := .chaseReply n r q (off + k) st v (efm.drop k) })
      else
        let s1 := if c.saved && due then s.writeBytes (poolAddr m.dst off) efm else s
        .next ((s1.crossed .word m.from_ m.dst).arriveReply m State.takeChase)
    | _ => .next s

end Sys2Proof.Machine
end

