-- ==== Sys2Proof/Machine/Hub.lean ====
section
/-!
DEFINITION. Sys2Proof/Machine/Hub.lean: the cluster hub: misses, walks, the fault buffer (R282, R289 to R300).
-/

namespace Sys2Proof.Machine

/-! ## Table entries (R289 to R291) -/

/-- The index of an address into a node of level n (R286). -/
def pageIndex (level va : Nat) : Nat := va / 2 ^ (45 - 9 * level) % 512

/-- The byte address that an entry's ADDR field names. -/
def entryAddr (e : Word) : Nat := (e.extractLsb' 12 36).toNat * 4096

/-- Is a valid entry of a level malformed (R290)? -/
def malformed (e : Word) (level : Nat) : Bool :=
  let leaf := e.getLsbD 1
  let a := entryAddr e
  e.extractLsb' 48 16 != 0 || e.extractLsb' 6 6 != 0
    || (if leaf then
          level == 0 || (e.getLsbD 3 && !e.getLsbD 2) || a % 2 ^ pageBits level != 0
            || (addrPool a && (level != 3 || 0xC0000 ≤ a % 2 ^ 26))
        else e.extractLsb' 2 4 != 0 || level == 3 || addrPool a)

/-- The A and D bits that an access sets in a leaf (R292). -/
def usedBits (write : Bool) : Word := if write then 0x30 else 0x10

/-! ## Waiters -/

/-- The core whose TLB a waiter uses: for a chase the owner that holds it (R293). -/
def State.waiterCore (s : State) (w : Waiter) : Nat :=
  match w with
  | .context cid _ => cid
  | .engine cid _ => cid
  | .chase id => match s.msg? id with
    | some m => m.dst
    | none => 0

/-- Is a context still in the park of this miss, its region neither saved nor unloaded (R306)? -/
def State.missParked (s : State) (id cid : Nat) (n : BitVec 4) : Bool :=
  let c := s.ctxAt cid n
  c.bound && !c.saved && c.park == .miss id

/-- An engine changed. -/
def State.modEngine (s : State) (cid g : Nat) (f : Engine → Engine) : State :=
  s.modCore cid fun k => { k with engines := setV k.engines (BitVec.ofNat 2 g) (f (getV k.engines (BitVec.ofNat 2 g : BitVec 2))) }

/-- The engine g of a core. -/
def State.engineAt (s : State) (cid g : Nat) : Engine := getV (s.core cid).engines (BitVec.ofNat 2 g : BitVec 2)

/-- Does an engine still wait for this miss? -/
def State.engineWaits (s : State) (id cid g : Nat) : Bool := (s.engineAt cid g).waitMiss == some id

/-- A command that ends with KIND at an address where an access is refused: earlier elements that it has read are still
written, but not the element or beat of the access itself (R229). -/
def Engine.endsAt (e : Engine) (wr : Bool) (kind : BitVec 4) (addr : Word) : Engine :=
  let whole := !wr && e.cmd == .stream && e.record[2].extractLsb' 0 5 != 0x18
  { e with ending := some (e.ending.getD (kind, addr)), raw := if whole then e.raw else [], got := if wr then [] else e.got
           waitMiss := none }

/-- A waiter goes on: its context is ready, and issues its instruction again, its engine makes its access again (R295). -/
def State.wake (s : State) (m : Miss) : State :=
  match m.waiter with
  | .context cid n =>
    if s.missParked m.id cid (BitVec.ofNat 4 n) then s.modCtxAt cid (BitVec.ofNat 4 n) fun c => { c with park := .none } else s
  | .engine cid g => if s.engineWaits m.id cid g then s.modEngine cid g fun e => { e with waitMiss := none } else s
  | .chase _ => s

/-- The step a chase stands at when the address it waits for fails (R379). -/
def ChasePacket.failStep (p : ChasePacket) : Nat :=
  match p.steps with
  | x :: _ => if stepLast x then p.step else p.step + 1
  | [] => p.step

/-- A chase waiter's chain ends with KIND and the address (R379). -/
def State.endChase (s : State) (id kind va : Nat) : State :=
  match s.msg? id with
  | some m => match m.body with
    | .chase p => s.chaseFail m p kind p.failStep va
    | _ => s
  | none => s

/-- A protection fault for a waiter: an instruction traps when it issues again, an engine or a chase ends with KIND 2
(R290, R294, R299). -/
def State.protect (s : State) (m : Miss) (detail : BitVec 8) : State :=
  match m.waiter with
  | .context cid n =>
    if s.missParked m.id cid (BitVec.ofNat 4 n) then
      s.modCtxAt cid (BitVec.ofNat 4 n) fun c => { c with park := .none, walked := some (m.va, detail) }
    else s
  | .engine cid g =>
    if s.engineWaits m.id cid g then
      s.modEngine cid g fun e => e.endsAt m.write 2 (BitVec.ofNat 64 m.va)
    else s
  | .chase id => s.endChase id 2 m.va

/-- A translation fault for a waiter: the context's miss park becomes a fault park (R296), an engine stops in state 4
(R229), a chase ends with KIND 1 (R379). -/
def State.faultPark (s : State) (m : Miss) : State :=
  match m.waiter with
  | .context cid n =>
    let i : BitVec 4 := BitVec.ofNat 4 n
    if s.missParked m.id cid i then
      (s.modCtxAt cid i fun c => { c with
        park := .fault
        cause := if c.inTrap then c.cause else (⟨0x09, m.operand, 0, 0⟩ : TrapCause).cause
        faddr := if c.inTrap then c.faddr else BitVec.ofNat 64 m.va }).count cid 0x051 (some (i, m.asn))
    else s
  | .engine cid g => if s.engineWaits m.id cid g then s.modEngine cid g fun e => { e with st := .waitXlate } else s
  | .chase id => s.endChase id 1 m.va

/-! ## The fault buffer (R297, R298) -/

/-- ACC of a miss. -/
def Miss.acc (m : Miss) : BitVec 2 := BitVec.ofBool m.write ++ BitVec.ofBool m.read

/-- The 256 KiB page of an address. -/
def page18 (va : Nat) : Nat := va / 2 ^ 18

/-- Is an entry that of a miss's page (R298)? -/
def FaultEntry.isFor (e : FaultEntry) (m : Miss) : Bool := e.asn == m.asn && page18 e.fva == page18 m.va

/-- A waiter and its access added to an entry; a chase adds neither, since ACC says what waiters do (R297, R298). -/
def FaultEntry.join (e : FaultEntry) (m : Miss) : FaultEntry :=
  let e1 := { e with acc := e.acc ||| m.acc }
  match m.waiter with
  | .context cid n => { e1 with ctxs := (e1.ctxs ++ [(cid, n)]).eraseDups, cores := e1.cores ||| BitVec.ofNat 16 (2 ^ (cid % 16)) }
  | .engine cid g => { e1 with eng := e1.eng ||| BitVec.ofNat 64 (2 ^ (4 * (cid % 16) + g % 4)) }
  | .chase _ => e

/-- Does a waiter still wait for its miss? -/
def State.waits (s : State) (m : Miss) : Bool :=
  match m.waiter with
  | .context cid n => s.missParked m.id cid (BitVec.ofNat 4 n)
  | .engine cid g => s.engineWaits m.id cid g
  | .chase _ => true

/-- SRC of a first miss. -/
def Waiter.src : Waiter → BitVec 2
  | .context .. => 0
  | .engine .. => 1
  | .chase _ => 2

/-- A walk's page takes the next entry with its waiters, or sets DROP when none is free (R282, R298). -/
def State.takeEntry (s : State) (h level : Nat) (first : Miss) (ws : List Miss) : State :=
  let live := ws.filter s.waits
  if (s.hub h).faults.length < Config.faultEntries then
    let e : FaultEntry := { fva := first.va, asn := first.asn, level, acc := 0, src := first.waiter.src, ctxs := [], cores := 0, eng := 0 }
    (s.modHub h fun k => { k with faults := k.faults ++ [live.foldl FaultEntry.join e] }).countHub h 0x083 (some (0, first.asn))
  else
    let lost := live.filter fun m => match m.waiter with
      | .context .. => true
      | _ => false
    lost.foldl (fun st m => st.countHub h 0x084 (some (0, m.asn))) (s.modHub h fun k => { k with drop := true })

/-! ## Misses (R295) -/

/-- A walk begun on the page of a miss, with those that wait on it (R295). -/
def State.startWalk (s : State) (h : Nat) (m : Miss) (ws : List Miss) : State :=
  (s.modHub h fun k => { k with walks := k.walks ++ [{
    asn := m.asn, va := m.va, read := m.read, write := m.write, level := 0
    node := ((s.graph? m.asn).bind fun g => g.root).getD 0, waiters := ws, ended := false }] }).countHub h 0x082 (some (0, m.asn))

/-- Has a hub a walker free: one that has found no leaf has freed its own (R295)? -/
def Hub.walkerFree (k : Hub) : Bool := (k.walks.filter fun w => !w.ended).length < Config.walkers

/-- Do two misses lie on one page of one space (R298)? -/
def Miss.samePage (m n : Miss) : Bool := m.asn == n.asn && page18 m.va == page18 n.va

/-- The pages in a walk queue. -/
def queuePages (q : List Miss) : Nat := (q.map fun m => (m.asn, page18 m.va)).eraseDups.length

/-- What the hub does with a miss it takes: hit, join, fault at once, walk, or queue; none when the queue is full
(R282, R295). -/
def State.takeMiss (s : State) (m : Miss) : Option State :=
  let h := m.hub
  let k := s.hub h
  let cid := s.waiterCore m.waiter
  match k.tlb.find? fun e => e.covers m.asn m.va && e.allows m.read m.write with
  | some e =>
    some ((s.modCore cid fun c => { c with tlb := tlbFill Config.coreTlbSize (s.tick + s.nextId) e c.tlb }).wake m)
  | none =>
    let s1 := s.countHub h 0x081 (some (0, m.asn))
    match k.walks.findIdx? fun w => w.asn == m.asn && page18 w.va == page18 m.va with
    | some i => some (s1.modHub h fun k => { k with walks := k.walks.modify i fun w => { w with waiters := w.waiters ++ [m] } })
    | none =>
      if k.faults.any fun e => e.isFor m then
        some ((s1.modHub h fun k => { k with faults := k.faults.map fun e => if e.isFor m && s.waits m then e.join m else e }).faultPark m)
      else if k.walkerFree && k.queue.isEmpty then some (s1.startWalk h m [m])
      else if k.queue.any (fun x => x.samePage m) || queuePages k.queue < Config.walkQueueSize then
        some (s1.modHub h fun k => { k with queue := k.queue ++ [m] })
      else none

/-- The oldest miss of its core goes to the hub, in the order of issue (R282); one that finds the queue full stays. -/
def State.sendMiss (s : State) (id : Nat) : State :=
  match s.misses.find? fun m => m.id == id with
  | none => s
  | some m =>
    let first := s.misses.find? fun x => s.waiterCore x.waiter == s.waiterCore m.waiter
    if (first.map fun x => x.id) == some id then
      match s.takeMiss m with
      | some s1 => { s1 with misses := s1.misses.filter fun x => x.id != id }
      | none => s
    else s

/-- R295: a miss reaches the hub. -/
def execHubMiss (miss : Nat) (s : State) : Answer := .next (s.sendMiss miss)

/-- R295: a miss that found the queue full is tried again. -/
def execHubQueueRetry (miss : Nat) (s : State) : Answer := .next (s.sendMiss miss)

/-! ## Walks (R292) -/

/-- A free walker takes the page that has waited longest (R295). -/
def State.nextWalk (s : State) (h : Nat) : State :=
  match (s.hub h).queue with
  | [] => s
  | m :: rest =>
    if (s.hub h).walkerFree then
      (s.modHub h fun k => { k with queue := rest.filter fun x => !x.samePage m }).startWalk h m
        (m :: rest.filter fun x => x.samePage m)
    else s

/-- A walk gone from its hub. -/
def State.dropWalk (s : State) (h i : Nat) : State :=
  (s.modHub h fun k => { k with walks := k.walks.eraseIdx i }).nextWalk h

/-- The walks that have found no leaf, from the one that began first up to the first that still runs, take their entries: their
waiters are in fault park (R282, R296 to R298). -/
def State.takeEntries (s : State) (h : Nat) : Nat → State
  | 0 => s
  | n + 1 => match (s.hub h).walks with
    | [] => s
    | w :: _ =>
      if !w.ended then s
      else match w.waiters with
        | [] => (s.dropWalk h 0).takeEntries h n
        | m :: _ => (w.waiters.foldl State.faultPark ((s.takeEntry h w.level m w.waiters).dropWalk h 0)).takeEntries h n

/-- A walk is over, and no longer stands before the entries of later ones. -/
def State.endWalk (s : State) (h i : Nat) : State :=
  let s1 := s.dropWalk h i
  s1.takeEntries h (s1.hub h).walks.length

/-- A walk ends with a protection fault: a waiter whose own access the leaf permits only issues again (R294). -/
def State.walkProtect (s : State) (h i : Nat) (w : Walk) (detail : BitVec 8) (rd wr : Bool) : State :=
  w.waiters.foldl (fun st m =>
    if detail = 0x02 && (!m.read || rd) && (!m.write || wr) then st.wake m else st.protect m detail) (s.endWalk h i)

/-- A walk ends with a leaf: A and D are set at the entry's port, both TLBs are filled, every waiter goes on. -/
def State.walkLeaf (s : State) (h i : Nat) (w : Walk) (at_ : Nat) (e : Word) : State :=
  let set := usedBits w.write
  let s1 := if e &&& set = set then s
    else
      let x := (e ||| set).toNat
      (s.countTrip (16 * h) at_ false).portPiece (addrCore at_) 0 w.asn at_ (leBytes 8 x)
  let t : TlbEntry := { asn := w.asn, page := w.va / 2 ^ pageBits w.level, level := w.level, addr := entryAddr e,
                        rd := e.getLsbD 2, w := e.getLsbD 3, d := e.getLsbD 5 || w.write }
  let s2 := (s1.modHub h fun k => { k with tlb := hubFill (s.tick + s.nextId) t k.tlb }).endWalk h i
  w.waiters.foldl (fun st m =>
    (st.modCore (st.waiterCore m.waiter) fun c =>
      { c with tlb := tlbFill Config.coreTlbSize (st.tick + st.nextId) t c.tlb }).wake m) s2

/-- A walk ends with a translation fault: its walker is free, and its entry is taken once no walk begun before it runs (R282,
R295). -/
def State.walkFault (s : State) (h i : Nat) : State :=
  let s1 := (s.modHub h fun k => { k with walks := k.walks.modify i fun w => { w with ended := true } }).nextWalk h
  s1.takeEntries h (s1.hub h).walks.length

/-- R292: the entry of a walk's level is read by message at its owner port, and the walk descends or ends. -/
def execWalkLevelRead (hub walk : Nat) (s0 : State) : Answer :=
  match (s0.hub hub).walks[walk]? with
  | none => .next s0
  | some w =>
    if w.ended then .next s0
    else
    let entry := w.node + 8 * pageIndex w.level w.va
    let s := s0.countTrip (16 * hub) entry true
    match (s.graph? w.asn).bind fun g => g.root with
    | none => .next (s0.walkProtect hub walk w 0x07 false false)
    | some _ =>
      let at_ := s.servedAt entry
      if !s.present (addrCore w.node) then .next (s0.walkProtect hub walk w 0x08 false false)
      else match s0.reachable (16 * hub) entry 8 with
      | .wait => .next s0
      | .down => .next ((s0.haltRegion w.asn).endWalk hub walk)
      | .open_ =>
        let e : Word := BitVec.ofNat 64 (s.readLE at_ 8)
        if !e.getLsbD 0 then .next (s.walkFault hub walk)
        else if malformed e w.level then .next (s.walkProtect hub walk w 0x09 false false)
        else if e.getLsbD 1 then
          if (w.read && !e.getLsbD 2) || (w.write && !e.getLsbD 3) then
            .next (s.walkProtect hub walk w 0x02 (e.getLsbD 2) (e.getLsbD 3))
          else .next (s.walkLeaf hub walk w at_ e)
        else if !s.present (addrCore (entryAddr e)) then .next (s.walkProtect hub walk w 0x08 false false)
        else .next (s.modHub hub fun k => { k with walks := k.walks.modify walk fun w =>
          { w with level := w.level + 1, node := entryAddr e } })

end Sys2Proof.Machine
end

