-- ==== Sys2Proof/Machine/Issue.lean ====
section
/-!
DEFINITION. Sys2Proof/Machine/Issue.lean: fetching the next word of the running block and the checks of R34 that come
before any effect of an instruction: encoding faults of the words of its chain (R26, R34), then prefix faults (R33).
-/

namespace Sys2Proof.Machine

/-- A word's major (R27). -/
def majorOf (w : IWord) : Nat := w.toNat / 2 ^ 25

/-- Does an instruction hand control to the word after it when it stands last (R26)? -/
def fallsThrough : Instr → Bool
  | .next _ | .call _ _ | .ret _ _ | .done | .tret | .jmp _ _ | .trap _ | .bCond .. | .loop .. => false
  | i => !i.isPrefix

/-- The DETAIL of the faults that depend on the running block: 0x07, 0x08, 0x09 (R26, R34). -/
def blockFault (hd : IWord) (idx : Nat) (w : IWord) (i : Instr) : Option (BitVec 8) :=
  let m := majorOf w
  if 0x20 ≤ m ∧ m ≤ 0x22 ∧ wordCount hd ≤ w.toNat / 2 ^ 6 % 64 then some 0x07
  else if idx + 1 = wordCount hd ∧ fallsThrough i then some 0x08
  else if (0x60 ≤ m ∧ m ≤ 0x65 ∧ hd.getLsbD 19 = false) ∨ (0x40 ≤ m ∧ m ≤ 0x49 ∧ hd.getLsbD 18 = false) ∨
      (0x70 ≤ m ∧ m ≤ 0x75 ∧ headerWin hd = 0) then some 0x09
  else none

/-- The first encoding fault of word `idx`, in the order of the table "Trap details of encoding faults" (R34). -/
def wordFault (hd : IWord) (idx : Nat) (w : IWord) : Option (BitVec 8) :=
  match decodeWord w with
  | .ok i => blockFault hd idx w i
  | .error .longLatencyS0 =>
    match decodeRaw w with
    | .ok (i, _) => some ((blockFault hd idx w i).getD 0x0B)
    | .error _ => some 0x0B
  | .error e => some e.detail

/-- The register, port, engine, tile and bank fields of an instruction that do not admit every value, each with the greatest
number it may name (R28, R43, R123). -/
def rangeFields : Instr → List (Reg × Nat)
  | .mulpS d _ _ _ | .mulpU d _ _ _ | .mulpSu d _ _ _ | .divqS d _ _ _ | .divqU d _ _ _ | .divqF d _ _ _ => [(d, 30)]
  | .fadd d a b | .fsub d a b | .fmul d a b | .fmin d a b | .fmax d a b => [(d, 15), (a, 15), (b, 15)]
  | .ffma d a b c => [(d, 15), (a, 15), (b, 15), (c, 15)]
  | .fneg d a | .fabs d a | .fmov d a => [(d, 15), (a, 15)]
  | .feq _ a b | .flt _ a b | .fle _ a b => [(a, 15), (b, 15)]
  | .fcvtSF _ r | .fcvtFS r _ _ | .fmvSF _ r | .fmvFS r _ _ | .pin _ r | .pout r _ _ | .poutc r _ _ _ | .pstat _ r
  | .qstat _ r | .vcfg r _ _ | .pmm _ _ _ r _ | .ecvtEF _ r | .ecvtFE r _ => [(r, 15)]
  | .vcmpEq d _ _ _ _ | .vcmpNe d _ _ _ _ | .vcmpLt d _ _ _ _ | .vcmpLe d _ _ _ _ | .vcmpLtu d _ _ _ _
  | .vcmpLeu d _ _ _ _ | .vfcmpEq d _ _ _ _ | .vfcmpLt d _ _ _ _ | .vfcmpLe d _ _ _ _ | .vfcmpUn d _ _ _ _ => [(d, 7)]
  | .kand d a b | .kor d a b | .kxor d a b => [(d, 7), (a, 7), (b, 7)]
  | .knot d a | .kmov d a => [(d, 7), (a, 7)]
  | .kpopc _ r | .kfrom r _ _ | .tshp r _ _ | .tclr r | .tsave r | .trest r | .trowRd _ _ r _ | .trowWr _ _ r _
  | .tcolRd _ _ r _ | .tcolWr _ _ r _ | .tld r _ _ _ | .tst r _ _ _ => [(r, 7)]
  | .tnorm _ a b _ => [(a, 7), (b, 3)]
  | .arst r | .sopen r _ _ | .sgo _ r | .sstop r | .sstat _ r | .sparm r _ _ | .xcopy _ r _ _ | .xfill _ r _ _
  | .xsplice _ r _ _ => [(r, 3)]
  | _ => []

/-- The number that CAUSE.OPERAND names for DETAIL 0x05: the register, port, engine or tile number concerned, of several the
lowest (R18, R28; log entry 20). -/
def wordOperand (w : IWord) : BitVec 8 :=
  match decodeRaw w with
  | .error _ => 0
  | .ok (i, _) =>
    match ((rangeFields i).filter fun x => decide (x.2 < x.1.toNat)).map fun x => x.1.toNat with
    | [] => 0
    | n :: rest => BitVec.ofNat 8 (rest.foldl min n)

/-- A chain from word `w`: its words up to the first that is no prefix or to the end of the block, or the encoding
fault of lowest index with its DETAIL (R32, R34). -/
def scanChain (get : Nat → IWord) (hd : IWord) : Nat → Nat → Except (BitVec 8 × Nat) (List (Nat × Instr))
  | 0, _ => .ok []
  | fuel + 1, w =>
    if wordCount hd ≤ w then .ok []
    else match wordFault hd w (get w), decodeWord (get w) with
      | some d, _ => .error (d, w)
      | none, .error _ => .ok []
      | none, .ok i =>
        if i.isPrefix then
          match scanChain get hd fuel (w + 1) with
          | .error e => .error e
          | .ok rest => .ok ((w, i) :: rest)
        else .ok [(w, i)]

/-- The place of a prefix in the stacking order `ext`, `fmt`, `scl`, `rnd` (R32). -/
def prefixRank : Instr → Nat
  | .ext _ => 1
  | .fmt .. => 2
  | .scl .. => 3
  | .rnd .. => 4
  | _ => 0

/-- Is a format code reserved (R98)? -/
def reservedFmt (f : BitVec 5) : Bool := 0x19 ≤ f.toNat

/-- FP16, BF16 or FP32 (R126, R322). -/
def isFpFmt (f : BitVec 5) : Bool := f == 0x0D || f == 0x0E || f == 0x0F

/-- A format that `vcvt` converts (R136). -/
def isCvtFmt (f : BitVec 5) : Bool := f.toNat ≤ 0x0F || f == 0x14 || f == 0x15 || f == 0x17

/-- Is `ext` taken (R47)? -/
def takesExt : Instr → Bool
  | .addi .. | .andi .. | .ori .. | .xori .. | .slti .. | .sltiu .. | .li .. | .liu .. | .next _ | .call .. => true
  | _ => false

/-- Is `fmt` taken, and its fields' judgement (R88, R125, R126, R136, R137, R322): none where it is not taken. -/
def fmtVerdict (d a b : BitVec 5) (en : BitVec 3) : Instr → Option Bool
  | .amoAdd .. | .amoAnd .. | .amoOr .. | .amoXor .. | .amoMin .. | .amoMax .. | .amoMinu .. | .amoMaxu ..
  | .amoSwap .. | .amoCas .. => some (en == 0b010 && (a == 0x15 || a == 0x16))
  | .vadds .. | .vsubs .. => some (en == 0b100 && (d == 0x03 || d == 0x04 || d == 0x14 || d == 0x15))
  | .vfadd .. | .vfsub .. | .vfmul .. | .vfma .. =>
    some ((!en.getLsbD 2 || isFpFmt d) && (!en.getLsbD 1 || isFpFmt a) && (!en.getLsbD 0 || isFpFmt b))
  | .vcvt .. | .vscvt .. => some (!en.getLsbD 2 && !en.getLsbD 0 && (!en.getLsbD 1 || isCvtFmt a))
  | .tld .. => some (en == 0b010 && isFpFmt a)
  | .tst .. => some (en == 0b100 && isFpFmt d)
  | _ => none

/-- Is `rnd` taken, and its fields' judgement (R49, R126, R136, R137, R322, R368). -/
def rndVerdict (m : BitVec 3) (sat : BitVec 2) : Instr → Option Bool
  | .fadd .. | .fsub .. | .fmul .. | .ffma .. | .fcvtSF .. | .fcvtFS .. => some (sat == 0)
  | .vfadd .. | .vfsub .. | .vfmul .. | .vfma .. | .vcvt .. => some true
  | .vscvt .. => some (m == 5)
  | .tst .. => some (m.toNat ≤ 4)
  | .ecvtIE .. | .ecvtFE .. | .ecvtDE .. => some true
  | _ => none

/-- Does instruction `i` take prefix `p` (R33), and are the prefix's values ones it can use? -/
def prefixVerdict (p i : Instr) : Option Bool :=
  match p with
  | .ext _ => if takesExt i then some true else none
  | .fmt d a b e =>
    (fmtVerdict d a b e i).map fun ok =>
      ok && !(e.getLsbD 2 && reservedFmt d) && !(e.getLsbD 1 && reservedFmt a) && !(e.getLsbD 0 && reservedFmt b)
  | .scl _ _ g f _ =>
    match i with
    | .mcfg .. => some (g != 3 && (f == 0x17 || f == 0x0D || f == 0x0F))
    | _ => none
  | .rnd m sat => (rndVerdict m sat i).map fun ok => ok && m.toNat ≤ 5 && sat != 3
  | _ => none

/-- Are a prefix's own fields in range, whatever follows (R31, R33)? -/
def prefixInRange : Instr → Bool
  | .fmt d a b e => !(e.getLsbD 2 && reservedFmt d) && !(e.getLsbD 1 && reservedFmt a) && !(e.getLsbD 0 && reservedFmt b)
  | .scl _ _ g f _ => g != 3 && (f == 0x17 || f == 0x0D || f == 0x0F)
  | .rnd m sat => m.toNat ≤ 5 && sat != 3
  | _ => true

/-- The DETAIL of prefix `p` before the word `after` in a chain that `last` ends (R33, in the order of its list). -/
def prefixDetail (p : Instr) (after last : Option Instr) : Option (BitVec 8) :=
  let notTaken := match last with
    | some i => (prefixVerdict p i).isNone
    | none => false
  if notTaken then some 0x01
  else match after with
    | none => some 0x04
    | some q =>
      if q.isPrefix && prefixRank q == prefixRank p then some 0x02
      else if q.isPrefix && prefixRank q < prefixRank p then some 0x03
      else match last with
        | some i => if prefixVerdict p i == some true then none else some 0x05
        | none => if prefixInRange p then none else some 0x05

/-- The prefix fault of lowest index in a chain (R33, R34). -/
def prefixFault (last : Option Instr) : List (Nat × Instr) → Option (BitVec 8 × Nat)
  | [] => none
  | (w, p) :: rest =>
    if p.isPrefix then
      match prefixDetail p (rest.head?.map fun x => x.2) last with
      | some d => some (d, w)
      | none => prefixFault last rest
    else none

/-- What the issue pipe does next in a running turn. -/
inductive Issue where
  /-- the running block or word does not exist -/
  | noBlock
  /-- an encoding fault of the chain: DETAIL and the index of the faulty word -/
  | encoding (detail : BitVec 8) (word : BitVec 6)
  /-- a prefix fault -/
  | badPrefix (detail : BitVec 8) (word : BitVec 6)
  /-- the word at the running position is this instruction, and its chain has no fault -/
  | run (i : Instr)
  deriving DecidableEq, Repr

/-- The instruction that the running block shows at the present word (R24, R34). -/
def State.issueNext (s : State) : Issue :=
  let c := s.ctx
  match c.blockAt c.handler with
  | none => .noBlock
  | some off =>
    let hd := s.poolWord s.focus off
    let get := fun i => s.poolWord s.focus (off + 4 + 4 * i)
    if wordCount hd ≤ c.word.toNat then .noBlock
    else match scanChain get hd 64 c.word.toNat with
      | .error (d, w) => .encoding d (BitVec.ofNat 6 w)
      | .ok chain =>
        let last := (chain.getLast?.map fun x => x.2).bind fun i => if i.isPrefix then none else some i
        match prefixFault last chain with
        | some (d, w) => .badPrefix d (BitVec.ofNat 6 w)
        | none => match chain.head? with
          | some (_, i) => .run i
          | none => .noBlock

/-- The graph states in which turns of a region go on (R172, R174, R177). -/
def RegionState.turnsRun : RegionState → Bool
  | .running | .quiescing | .loaded | .editing => true
  | .unloaded | .configuring | .halting | .saved | .halted => false

/-- Does a running turn of a context stop at the next instruction boundary: its context has stopped, or its region
halts, is saved or halted (R19, R174, R177)? -/
def State.turnStops (s : State) (c : Context) : Bool :=
  c.stopped || c.saved || match s.graph? c.graph with
    | some g => !g.st.turnsRun
    | none => false

/-- A prefix is latched for the next word, and its own word is passed (R31, R32). -/
def State.latch (s : State) (f : Chain → Chain) : Answer :=
  .next (s.modCtx fun c => { c with
    chain := { f c.chain with start := some (match c.chain.start with
      | some w => w
      | none => c.word.setWidth 6) }
    word := c.word + 1 })

/-- R31: HI becomes bits 39:15 of the next instruction's immediate. -/
def execExt (h : BitVec 25) (s : State) : Answer := s.latch fun c => { c with ext := some h }

/-- R31: format codes for the next instruction. -/
def execFmt (d a b : BitVec 5) (e : BitVec 3) (s : State) : Answer :=
  s.latch fun c => { c with fmt := some (d ++ a ++ b ++ e ++ (0 : BitVec 7)) }

/-- R31: the scale array for the next instruction. -/
def execScl (b : BitVec 5) (o : BitVec 10) (g : BitVec 2) (f : BitVec 5) (z : Bool) (s : State) : Answer :=
  s.latch fun c => { c with scl := some (b ++ o ++ g ++ f ++ BitVec.ofBool z ++ (0 : BitVec 2)) }

/-- R31: rounding mode and saturation rule for the next instruction. -/
def execRnd (m : BitVec 3) (t : BitVec 2) (s : State) : Answer :=
  s.latch fun c => { c with rnd := some (m ++ t ++ (0 : BitVec 20)) }

/-- The illegal-instruction trap of an encoding fault, raised at the word of the chain that holds it, with FADDR its index
(R34); so too for operation 3 and an undefined number of a control-register form, where R66's pseudocode passes 0 (log
entry 68). -/
def State.encodingFault (s : State) (detail operand : BitVec 8) (word : BitVec 6) : State :=
  s.trap 0x01 operand detail (word.setWidth 64)

/-- CAUSE.OPERAND for an encoding fault of word `w` of the running block: the number out of range for DETAIL 0x05, else 0
(R18, R34; log entry 20). -/
def State.faultOperand (s : State) (detail : BitVec 8) (w : BitVec 6) : BitVec 8 :=
  if detail = 0x05 then wordOperand ((s.blockWord s.focus s.ctx s.ctx.handler w.toNat).getD 0) else 0

/-- R34: an encoding fault of the chain, raised at the word that holds it. -/
def execUndefinedEncoding (detail operand : BitVec 8) (word : BitVec 6) (s : State) : Answer :=
  .next (s.encodingFault detail operand word)

end Sys2Proof.Machine
end

