-- ==== Sys2Proof/Machine/Stream.lean ====
section
/-!
DEFINITION. Sys2Proof/Machine/Stream.lean: stream engines and transfers: the shape record, the descriptor and the
instructions of majors 0x68 and 0x69 (R210 to R227).
-/

namespace Sys2Proof.Machine

/-! ## The shape record (R212, R213) -/

/-- CTRL and its fields. -/
def Engine.ctrl (e : Engine) : Word := e.record[2]
def ctrlSfmt (c : Word) : BitVec 5 := c.extractLsb' 0 5
def ctrlDfmt (c : Word) : BitVec 5 := c.extractLsb' 5 5
def ctrlRm (c : Word) : BitVec 3 := c.extractLsb' 10 3
def ctrlSat (c : Word) : BitVec 2 := c.extractLsb' 13 2
def ctrlScale (c : Word) : Bool := c.getLsbD 15
def ctrlSkind (c : Word) : Nat := (c.extractLsb' 16 2).toNat
def ctrlDkind (c : Word) : Nat := (c.extractLsb' 18 2).toNat
def ctrlSport (c : Word) : BitVec 4 := c.extractLsb' 20 4
def ctrlDport (c : Word) : BitVec 4 := c.extractLsb' 24 4
def ctrlNdim (c : Word) : Nat := (c.extractLsb' 28 2).toNat
def ctrlEodm (c : Word) : BitVec 4 := c.extractLsb' 32 4
def ctrlAcq (c : Word) : Bool := c.getLsbD 36
def ctrlRel (c : Word) : Bool := c.getLsbD 37
def ctrlScope (c : Word) : BitVec 3 := c.extractLsb' 38 3
def ctrlCtok (c : Word) : Bool := c.getLsbD 41
def ctrlCport (c : Word) : BitVec 4 := c.extractLsb' 42 4
def ctrlGroup (c : Word) : Nat := (c.extractLsb' 46 2).toNat
def ctrlZp (c : Word) : Bool := c.getLsbD 48
def ctrlParm (c : Word) : Bool := c.getLsbD 49
def ctrlPport (c : Word) : BitVec 4 := c.extractLsb' 50 4
def ctrlRounds (c : Word) : Nat := (c.extractLsb' 56 8).toNat

/-- The scope that a code names (R213). -/
def scopeCode (x : BitVec 3) : Scope :=
  match x.toNat with
  | 0 => .core
  | 1 => .cluster
  | 2 => .field
  | 3 => .wafer
  | _ => .system

/-- Extent of dimension j: 1 above NDIM (R215). -/
def recExt (r : Vector Word 9) (j : Nat) : Nat :=
  if j ≤ ctrlNdim r[2] then (r[3].extractLsb' (16 * j) 16).toNat + 1 else 1

/-- Signed stride of dimension j of the source or the sink. -/
def recStride (r : Vector Word 9) (sink : Bool) (j : Nat) : Int :=
  let w := if sink then (if j < 2 then r[6] else r[7]) else (if j < 2 then r[4] else r[5])
  (w.extractLsb' (32 * (j % 2)) 32).toInt

/-- Elements of a round. -/
def recTotal (r : Vector Word 9) : Nat := recExt r 0 * recExt r 1 * recExt r 2 * recExt r 3

/-! ## Which records are refused (R214, R215, R220) -/

/-- Is a format a block format: MX, or INT4A and INT8A? -/
def isMx (f : BitVec 5) : Bool := 0x10 ≤ f.toNat && f.toNat ≤ 0x13
def isAsym (f : BitVec 5) : Bool := f == 0x05 || f == 0x06

/-- Is there a block-format side: the third row (with SCALE for INT4A and INT8A) or the fourth (R214)? -/
def blockSource (c : Word) : Bool :=
  isFpFmt (ctrlDfmt c) && (isMx (ctrlSfmt c) || (isAsym (ctrlSfmt c) && ctrlScale c))
def blockSink (c : Word) : Bool := isFpFmt (ctrlSfmt c) && isMx (ctrlDfmt c)

/-- Is a pair one of the table "Stream format pairs" (R214)? -/
def pairOk (c : Word) : Bool :=
  let sf := ctrlSfmt c
  let df := ctrlDfmt c
  sf.toNat ≤ 0x18 && df.toNat ≤ 0x18
    && !(ctrlSkind c == 1 && (isMx sf || isAsym sf)) && !(ctrlDkind c == 1 && (isMx df || isAsym df))
    && (!ctrlScale c || (isAsym sf && isFpFmt df))
    && (sf == df || blockSource c || blockSink c || (isCvtFmt sf && isCvtFmt df))

/-- Elements of a block or group (R106, R108). -/
def blockLen (c : Word) : Nat := if isAsym (ctrlSfmt c) && ctrlScale c then 32 * 2 ^ ctrlGroup c else 32

/-- Is CTRL refused: reserved fields and codes, the pair, unused port fields, SCALE, GROUP and ZP (R220)? -/
def ctrlBad (c : Word) : Bool :=
  c.extractLsb' 54 2 != 0 || c.extractLsb' 30 2 != 0 || 4 < (ctrlRm c).toNat || ctrlSat c == 3 || ctrlGroup c == 3
    || 4 < (ctrlScope c).toNat || !pairOk c
    || (ctrlSkind c != 1 && ctrlSport c != 0) || (ctrlDkind c != 1 && ctrlDport c != 0)
    || (!ctrlParm c && ctrlPport c != 0) || (!ctrlCtok c && ctrlCport c != 0)
    || (!ctrlScale c && (ctrlZp c || ctrlGroup c != 0))

/-- The unit that a row of elements must fill, in bits (R215). -/
def rowUnit (bits : Nat) : Nat := if bits = 6 then 24 else 8

/-- Is the innermost extent refused for a side (R214, R215)? A port side has no packed row, and its extent need fill no unit (DESIGN
CHOICE; log entry 103). -/
def extBad (r : Vector Word 9) : Bool :=
  let c := r[2]
  let bad := fun (kind : Nat) (f : BitVec 5) =>
    let b := (fmtOf f).bits
    kind != 1 && f != 0x18 && recExt r 0 * b % rowUnit b != 0
  bad (ctrlSkind c) (ctrlSfmt c) || bad (ctrlDkind c) (ctrlDfmt c)
    || ((blockSource c || blockSink c) && recExt r 0 % blockLen c != 0)

/-- Is the stride of dimension j of a side refused (R215)? -/
def strideBad (r : Vector Word 9) (sink : Bool) (j : Nat) : Bool :=
  let c := r[2]
  let kind := if sink then ctrlDkind c else ctrlSkind c
  let f := if sink then ctrlDfmt c else ctrlSfmt c
  let x := recStride r sink j
  let b := (fmtOf f).bits
  if kind = 1 ∨ ctrlNdim c < j then x != 0
  else if f = 0x18 then j == 0 && x != 0
  else if b < 8 then (if j = 0 then x != 1 else x * b % rowUnit b != 0)
  else false

/-- The index of the first doubleword for which a record is refused (R220). -/
def recordFault (r : Vector Word 9) : Option Nat :=
  if ctrlBad r[2] then some 2
  else if extBad r then some 3
  else match [(false, 0, 4), (false, 1, 4), (false, 2, 5), (false, 3, 5), (true, 0, 6), (true, 1, 6), (true, 2, 7), (true, 3, 7)].find?
      fun x => strideBad r x.1 x.2.1 with
    | some x => some x.2.2
    | none => if r[8] ≠ 0 ∧ !(blockSource r[2] || blockSink r[2]) then some 8 else none

/-! ## Ports of a record (R220) -/

/-- Is a port an engine end of engine g on the right side: a destination end for inputs? -/
def State.engineEnd (s : State) (c : Context) (g : Nat) (input : Bool) (p : BitVec 4) : Bool :=
  if input then (match s.inChan c p with
    | some (_, ch) => ch.deng == some g
    | none => false)
  else (match s.outChan c p with
    | some (_, ch) => ch.seng == some g
    | none => false)

/-- The first port of a record that is no engine end of its engine. -/
def State.recordPort (s : State) (c : Context) (g : Nat) (x : Word) : Option (BitVec 4) :=
  ([(ctrlSport x, ctrlSkind x == 1, true), (ctrlDport x, ctrlDkind x == 1, false), (ctrlPport x, ctrlParm x, true),
    (ctrlCport x, ctrlCtok x, false)].find? fun p => p.2.1 && !s.engineEnd c g p.2.2 p.1).map fun p => p.1

/-! ## Descriptors (R226) -/

def Engine.xctl (e : Engine) : Word := e.desc[3]
def xferLen (d : Vector Word 4) : Nat := (d[2].extractLsb' 0 40).toNat
def xctlSkind (x : Word) : Nat := (x.extractLsb' 0 2).toNat
def xctlDkind (x : Word) : Nat := (x.extractLsb' 2 2).toNat
def xctlAcq (x : Word) : Bool := x.getLsbD 4
def xctlRel (x : Word) : Bool := x.getLsbD 5
def xctlScope (x : Word) : BitVec 3 := x.extractLsb' 6 3
def xctlCtok (x : Word) : Bool := x.getLsbD 9
def xctlCport (x : Word) : BitVec 4 := x.extractLsb' 10 4

/-- The index of the first doubleword for which a descriptor is refused (R226, R227); a CPORT that CTOK 0 does not use must be 0,
as in CTRL (log entry 93). -/
def descFault (cmd : EngCmd) (d : Vector Word 4) : Option Nat :=
  let x := d[3]
  let n := xferLen d
  let splice := cmd == .splice
  if splice ∧ (d[0].toNat % 2 ^ 18 ≠ 0 ∨ 2 ^ 26 < d[0].toNat + n * 2 ^ 18) then some 0
  else if splice ∧ (d[1].toNat % 2 ^ 18 ≠ 0 ∨ 2 ^ 47 ≤ d[1].toNat ∨ 2 ^ 26 < d[1].toNat % 2 ^ 26 + n * 2 ^ 18) then some 1
  else if d[2].toNat / 2 ^ 40 ≠ 0 ∨ n = 0 ∨ (splice ∧ 256 < n) then some 2
  else if x.toNat / 2 ^ 14 ≠ 0 ∨ 4 < (xctlScope x).toNat ∨ xctlSkind x = 1 ∨ xctlDkind x = 1
      ∨ (cmd ≠ .copy ∧ xctlSkind x ≠ 0) ∨ (!xctlCtok x ∧ xctlCport x ≠ 0) then some 3
  else none

/-! ## Status (R210, R225) -/

/-- The code of an engine state. -/
def EngState.code : EngState → BitVec 3
  | .closed => 0
  | .opened => 1
  | .running => 2
  | .waitPort => 3
  | .waitXlate => 4
  | .halted => 5
  | .paused => 6

/-- Is a command in progress? -/
def EngState.busy : EngState → Bool
  | .closed => false
  | .opened => false
  | _ => true

/-- The status word (R225). -/
def Engine.status (e : Engine) (g : Nat) (st : BitVec 3) (kind : BitVec 4) : Word :=
  BitVec.ofNat 64 (e.elems % 2 ^ 40 * 2 ^ 24 + e.roundsRun % 256 * 2 ^ 16 + st.toNat * 2 ^ 12 + kind.toNat * 2 ^ 8
    + (e.holder.getD 0).toNat * 16 + g)

/-- An engine of the issuing core changed. -/
def State.setEngine (s : State) (g : Nat) (e : Engine) : State := s.modEngine s.focus g fun _ => e

/-! ## The instructions (R218 to R226) -/

/-- The holder check: another context holds the engine (R219). An engine that none holds is closed, and its state is judged
next. -/
def State.withHolder (s : State) (g : Reg) (k : Engine → State) : State :=
  let e := s.engineAt s.focus g.toNat
  if e.holder = some s.who ∨ e.holder = none then k e else s.trap 0x0A (g.setWidth 8) 0x05 0

/-- The state check (R219). -/
def State.engineState (s : State) (g : Reg) (e : Engine) (ok : Bool) (k : State) : State :=
  if ok then k else s.trap 0x01 (g.setWidth 8) 0x12 (e.st.code.setWidth 64)

/-- R220: 72 bytes of the scratchpad become the record of an engine, held by this context; what the status shows of the last command
stays until the next begins (DESIGN CHOICE; log entry 103). -/
def execSopen (d a : Reg) (w : Bool) (s : State) : Answer :=
  let g := d.toNat
  let e := s.engineAt s.focus g
  let at_ := s.ctx.readS a
  let r : Vector Word 9 := Vector.ofFn fun i => BitVec.ofNat 64 (s.poolRead (at_.toNat + 8 * i.val) 8)
  .next (s.onSources w [a] (s.engineState d e (!e.st.busy) (s.poolChecked a at_ 8 72
    (match s.recordPort s.ctx g r[2] with
     | some p => s.trap 0x06 (p.setWidth 8) 0x05 0
     | none => match recordFault r with
       | some i => s.trap 0x01 (BitVec.ofNat 8 i) 0x13 (at_ + BitVec.ofNat 64 (8 * i))
       | none => (s.setEngine g { e with st := .opened, holder := some s.who, record := r }).retire id))))

/-- A command begun (R221, R226): its completion registers are empty, and ACQ's writes are noted (R228). -/
def State.startEngine (s : State) (g : Nat) (e : Engine) (cmd : EngCmd) (d : Reg) (acq : Bool) : State :=
  (s.setEngine g { e with
    st := .running, holder := some s.who, cmd, dreg := d, idx := 0, sOff := 0, dOff := 0, lanes := [], srcLanes := []
    raw := [], got := [], runs := [], part := []
    roundsRun := 0, elems := 0, parm := none, pausedAt := 0, kind := 0, ending := none, boundary := true
    acq := if acq then s.writesOf s.focus s.who else [], writes := [], waitMiss := none }).retire fun c =>
      if d = 0 then c else (c.markEmpty d).markEmpty (d + 1)

/-- R221: the command of the record starts. -/
def execSgo (d a : Reg) (s : State) : Answer :=
  .next (s.withHolder a fun e => s.engineState a e (e.st == .opened)
    (s.startEngine a.toNat e .stream d (ctrlAcq e.ctrl)))

/-- An engine whose command `sstop` ends: it waits for no translation any more (R222). -/
def Engine.stopped (e : Engine) : Engine :=
  { e with ending := some (1, 0), waitMiss := none, st := if e.st == .waitXlate then .running else e.st }

/-- R222: a running command ends with KIND 1 at its next element boundary, and one that waits at once, once it has written what
it has read; in states 0 and 1 nothing. -/
def execSstop (d : Reg) (s : State) : Answer :=
  .next (s.withHolder d fun e =>
    (if e.st.busy && e.ending.isNone then s.setEngine d.toNat e.stopped else s).retire id)

/-- R223: the status word. -/
def execSstat (d a : Reg) (s : State) : Answer :=
  let e := s.engineAt s.focus a.toNat
  .next (s.retire fun c => c.writeS d (e.status a.toNat e.st.code e.kind))

/-! ### Parameters (R217, R224) -/

/-- Is a parameter word one that changes something? -/
def parmOk (x : Word) : Bool :=
  let sel := (x.extractLsb' 60 4).toNat
  sel ≤ 2 || (4 ≤ sel && sel ≤ 7 && x.toNat / 2 ^ 16 % 2 ^ 44 == 0)

/-- The field that a parameter word selects, written. -/
def parmApply (r : Vector Word 9) (x : Word) : Vector Word 9 :=
  let v : Word := (x.extractLsb' 0 60).setWidth 64
  match (x.extractLsb' 60 4).toNat with
  | 0 => r.set 0 v
  | 1 => r.set 1 v
  | 2 => r.set 8 v
  | 4 => r.set 3 (putBits r[3] 0 (x.extractLsb' 0 16))
  | 5 => r.set 3 (putBits r[3] 16 (x.extractLsb' 0 16))
  | 6 => r.set 3 (putBits r[3] 32 (x.extractLsb' 0 16))
  | 7 => r.set 3 (putBits r[3] 48 (x.extractLsb' 0 16))
  | _ => r

/-- R224: a field of the record written at once in state 1, or pending while a command runs; no state permits it in a
closed engine (R219). -/
def execSparm (d a : Reg) (w : Bool) (s : State) : Answer :=
  let x := s.ctx.readS a
  .next (s.onSources w [a] (s.withHolder d fun e => s.engineState d e (e.st != .closed)
    (if !parmOk x then s.trap 0x01 (a.setWidth 8) 0x0E x
     else if e.st.busy then (s.setEngine d.toNat { e with parm := some x }).retire id
     else (s.setEngine d.toNat { e with record := parmApply e.record x }).retire id)))

/-! ### Transfers (R226, R227) -/

/-- A transfer's checks and start. -/
def State.transfer (s : State) (cmd : EngCmd) (d a b : Reg) (w : Bool) (k : Vector Word 4 → State → State) : State :=
  let g := a.toNat
  let e := s.engineAt s.focus g
  let at_ := s.ctx.readS b
  let r : Vector Word 4 := Vector.ofFn fun i => BitVec.ofNat 64 (s.poolRead (at_.toNat + 8 * i.val) 8)
  s.onSources w [b] (
    if cmd = .splice ∧ ((s.graph? s.ctx.graph).map fun g => g.pager) ≠ some true then s.trap 0x0A (a.setWidth 8) 0x06 0
    else s.engineState a e (!e.st.busy) (s.poolChecked b at_ 8 32
      (if xctlCtok r[3] && !s.engineEnd s.ctx g false (xctlCport r[3]) then s.trap 0x06 ((xctlCport r[3]).setWidth 8) 0x05 0
       else match descFault cmd r with
         | some i => s.trap 0x01 (BitVec.ofNat 8 i) 0x13 (at_ + BitVec.ofNat 64 (8 * i))
         | none => k r (s.startEngine g { e with desc := r } cmd d (xctlAcq r[3])))))

/-- R226: a byte copy. -/
def execXcopy (d a b : Reg) (w : Bool) (s : State) : Answer := .next (s.transfer .copy d a b w fun _ t => t)

/-- R226: a byte fill. -/
def execXfill (d a b : Reg) (w : Bool) (s : State) : Answer := .next (s.transfer .fill d a b w fun _ t => t)

/-- R227: pieces of the core's column copied to a new frame, the writes made meanwhile doubled at the port. -/
def execXsplice (d a b : Reg) (w : Bool) (s : State) : Answer :=
  .next (s.transfer .splice d a b w fun r t => t.modCore s.focus fun k => { k with
    splices := k.splices ++ [{ eng := a.setWidth 2, old := dramAddr s.focus r[0].toNat, len := xferLen r * 2 ^ 18, new := r[1].toNat
                               copied := 0, complete := false, aborted := false }] })

end Sys2Proof.Machine
end

