-- ==== Sys2Proof/Machine/Tiles.lean ====
section
/-!
DEFINITION. Sys2Proof/Machine/Tiles.lean: tile shapes, owners and slots (R21, R23, R325), the tile save area (R355)
and the lazy saves and restores that come before a press or tile instruction (R181, R356).
-/

namespace Sys2Proof.Machine

/-! ## TSHAPE (R21) -/

def shapeRows (x : Word) : Nat := (x.extractLsb' 0 7).toNat
def shapeCols (x : Word) : Nat := (x.extractLsb' 8 8).toNat
def shapeOwner (x : Word) : BitVec 4 := x.extractLsb' 16 4
def shapeDirty (x : Word) : Bool := x.getLsbD 20

/-- Does slot n lie wholly inside the accumulator partition (R21, R23)? -/
def Core.slotFits (k : Core) (n : Nat) : Bool := (n + 1) * 32768 ≤ k.accuBytes

/-- Does a saved shape lie inside the accumulator partition (R356)? -/
def Core.shapeFits (k : Core) (n : Nat) (x : Word) : Bool := n * 32768 + 512 * shapeRows x ≤ k.accuBytes

/-- The tile shape of a core. -/
def Core.shape (k : Core) (n : BitVec 3) : Word := getV k.tshape n

/-- TSHAPEn replaced. -/
def State.setShape (s : State) (cid : Nat) (n : BitVec 3) (x : Word) : State :=
  s.modCore cid fun k => { k with tshape := setV k.tshape n x }

/-- DIRTY of TSHAPEn (R325). -/
def State.setDirty (s : State) (cid : Nat) (n : BitVec 3) (d : Bool) : State :=
  s.setShape cid n (putBits ((s.core cid).shape n) 20 (BitVec.ofBool d))

/-- The pool offset of element (r, c) of tile n (R325). -/
def Core.elemAt (k : Core) (n : BitVec 3) (r c : Nat) : Nat := k.accuLo + 32768 * n.toNat + 512 * r + 4 * c

/-- Does a queued command target tile n: every `tnorm`, and a `pmm` with KEEP = 0 (R326, R336)? -/
def PressCmd.targets (p : PressCmd) (n : BitVec 3) : Bool := p.tile == n && !(p.isPmm && p.cmdWord.getLsbD 30)

/-- Is a tile, or an accumulator, the target of a queued command (R326, R341)? -/
def Core.tileBusy (k : Core) (n : BitVec 3) : Bool :=
  k.pressQ.any (fun p => p.targets n) || k.held.any fun p => p.targets n
def Core.accBusy (k : Core) (a : BitVec 2) : Bool :=
  k.pressQ.any (fun p => p.acc == a) || k.held.any fun p => p.acc == a

/-- Is no entry of the press queue free for a new command: all four are taken, or wait for held commands that re-enter (R342,
R357)? -/
def Core.pressFull (k : Core) : Bool := 4 ≤ k.pressQ.length || k.held.any fun p => p.back

/-! ## The tile save area (R355) -/

/-- The address of row bytes of context x's image of tile n, and of its save header. -/
def imageAddr (cid : Nat) (x : BitVec 4) (n : BitVec 3) : Nat :=
  dramAddr cid (3 * 2 ^ 24 + 0xC00000 + 0x40000 * x.toNat + 0x8000 * n.toNat)
def headerAddr (cid : Nat) (x : BitVec 4) (n : BitVec 3) : Nat :=
  dramAddr cid (3 * 2 ^ 24 + 0xBFFC00 + 64 * x.toNat + 8 * n.toNat)

/-- The save header of (x, n). -/
def State.saveHeader (s : State) (cid : Nat) (x : BitVec 4) (n : BitVec 3) : Word :=
  BitVec.ofNat 64 (leNat (s.portBytes (headerAddr cid x n) 8))

/-- The save header of (x, n) written through the column port. -/
def State.storeHeader (s : State) (cid : Nat) (x : BitVec 4) (n : BitVec 3) (h : Word) : State :=
  s.portStore cid x (s.ctxAt cid x).graph (headerAddr cid x n) (leBytes 8 h.toNat)

/-- The first `width` bytes of each row of tile n copied to its place in the image of context x, or from it (R325, R355). -/
def State.copyOut (s : State) (cid : Nat) (x : BitVec 4) (n : BitVec 3) (rows width : Nat) : State :=
  (List.range rows).foldl (fun st r =>
    st.portStore cid x (s.ctxAt cid x).graph (imageAddr cid x n + 512 * r)
      (st.readBytes (poolAddr cid ((s.core cid).elemAt n r 0)) width)) s
def State.copyIn (s : State) (cid : Nat) (x : BitVec 4) (n : BitVec 3) (rows width : Nat) : State :=
  (List.range rows).foldl (fun st r =>
    st.writeBytes (poolAddr cid ((s.core cid).elemAt n r 0)) (st.portBytes (imageAddr cid x n + 512 * r) width)) s

/-- A tile's rows copied to its owner's image, the header written, DIRTY cleared (R329, R356); `pend` is PEND. A lazy save
copies the whole rows of the slot (R355), `tsave` the elements of the shape (R325; log entry 75). -/
def State.saveTile (s : State) (cid : Nat) (x : BitVec 4) (n : BitVec 3) (pend : Bool) (width : Nat) : State :=
  let sh := (s.core cid).shape n
  let clean := putBits sh 20 (0 : BitVec 1)
  let hd : Word := 0x8000000000000000 ||| (if pend then 0x4000000000000000 else 0) ||| (clean &&& 0x1FFFFF)
  ((s.copyOut cid x n (shapeRows sh) width).storeHeader cid x n hd).setShape cid n clean

/-- An image copied back into the slot, with its shape, the new owner and DIRTY 0; PEND is cleared (R329, R356). A lazy
restore copies whole rows, `trest` the elements of the shape. -/
def State.restoreTile (s : State) (cid : Nat) (x : BitVec 4) (n : BitVec 3) (width : Nat) : State :=
  let hd := s.saveHeader cid x n
  let sh := putBits (putBits (hd &&& 0x1FFFFF) 16 x) 20 (0 : BitVec 1)
  ((s.copyIn cid x n (shapeRows hd) width).storeHeader cid x n (hd &&& 0xBFFFFFFFFFFFFFFF)).setShape cid n sh

/-- Bytes of a row that a lazy copy moves (R355), and those of the elements of a shape (R325). -/
def rowBytes : Nat := 512
def shapeBytes (x : Word) : Nat := 4 * shapeCols x

/-- The answer of a core's own column port to an access in the tile save area of context x: image and header of tile n
(R252, R318). -/
def State.saveAreaPort (s : State) (cid : Nat) (x : BitVec 4) (n : BitVec 3) : PortAnswer :=
  match s.reachable cid (imageAddr cid x n) 0x8000 with
  | .open_ => s.reachable cid (headerAddr cid x n) 8
  | y => y

/-- A copy made once the column port performs it: it waits for a pause or a hold, and a failed bus halts the region of
context `y`, for which it is made (R252). -/
def State.withSaveArea (s : State) (cid : Nat) (x : BitVec 4) (n : BitVec 3) (y : BitVec 4) (k : State) : State :=
  match s.saveAreaPort cid x n with
  | .open_ => k
  | .wait => s
  | .down => s.haltRegion (s.ctxAt cid y).graph

/-- The tiles of a core. -/
def allTiles : List (BitVec 3) := [0, 1, 2, 3, 4, 5, 6, 7]

/-- Is tile n shaped, dirty and another context's (R356)? -/
def Core.foreignDirty (k : Core) (y : BitVec 4) (n : BitVec 3) : Bool :=
  shapeRows (k.shape n) != 0 && shapeDirty (k.shape n) && shapeOwner (k.shape n) != y

/-- Must tile m be restored for context y, its image fitting the partition (R356)? -/
def State.restoreDue (s : State) (cid : Nat) (y : BitVec 4) (m : BitVec 3) : Bool :=
  (s.saveHeader cid y m).getLsbD 62 && (s.core cid).shapeFits m.toNat (s.saveHeader cid y m)

/-- The answer of a core's own column port to the read of the save header of tile n and context y (R252, R318). -/
def State.headerPort (s : State) (cid : Nat) (y : BitVec 4) (n : BitVec 3) : PortAnswer := s.reachable cid (headerAddr cid y n) 8

/-- Does context y's press or tile instruction wait: for copies, or for the port to read the save header of the tile that it names
(R252, R356)? -/
def State.copiesNeeded (s : State) (cid y : Nat) (m : Option (BitVec 3)) : Bool :=
  (allTiles.any fun n => (s.core cid).foreignDirty (BitVec.ofNat 4 y) n) || match m with
    | some n => s.headerPort cid (BitVec.ofNat 4 y) n == .wait || s.restoreDue cid (BitVec.ofNat 4 y) n
    | none => false

/-- The instruction `k` of the issuing context after its lazy saves and restores: it parks until they are made, it raises control
write where the saved shape of the tile it names does not fit (R356), and its region halts where the header lies behind a
failed bus (R252). -/
def State.withTiles (s : State) (m : Option (BitVec 3)) (k : State) : State :=
  if s.copiesNeeded s.focus s.who.toNat m then s.parkAs (.tile m)
  else match m with
    | some n =>
      if s.headerPort s.focus s.who n = .down then s.haltRegion s.ctx.graph
      else if (s.saveHeader s.focus s.who n).getLsbD 62 then s.trap 0x0E (n.setWidth 8) 0x03 0 else k
    | none => k

/-- Does a context wait in the copies of R356, its region not halted or saved (R174, R177, R356)? -/
def State.waitsForTiles (s : State) (cid : Nat) (y : BitVec 4) : Bool :=
  let c := s.ctxAt cid y
  c.bound && !c.saved && (match c.park with
    | .tile _ => true
    | _ => false) && (match s.graph? c.graph with
    | some g => !(g.st == .halting || g.st == .saved || g.st == .halted)
    | none => false)

/-- The tile that step 1 has come to for a waiting context: the lowest dirty one of another owner (R356). -/
def State.nextToSave (s : State) (cid : Nat) (y : BitVec 4) : Option (BitVec 3) :=
  if s.waitsForTiles cid y then allTiles.find? fun n => (s.core cid).foreignDirty y n else none

/-- R356 step 1: the tile at which some parked context waits, once no command targets it, is saved to its owner. -/
def execTileSaveCopy (cid tile : Nat) (s : State) : Answer :=
  let k := s.core cid
  let n : BitVec 3 := BitVec.ofNat 3 tile
  match ((List.range 16).map fun y => (BitVec.ofNat 4 y)).find? fun y => s.nextToSave cid y == some n with
  | none => .next s
  | some y =>
    .next (if k.pressQ.any fun p => p.targets n then s
      else s.withSaveArea cid (shapeOwner (k.shape n)) n y (s.saveTile cid (shapeOwner (k.shape n)) n true rowBytes))

/-- Does a parked context name this pending image, with step 1 done (R356)? -/
def State.restoreWanted (s : State) (cid : Nat) (y : BitVec 4) (n : BitVec 3) : Bool :=
  s.waitsForTiles cid y && (match (s.ctxAt cid y).park with
    | .tile (some m) => m == n
    | _ => false) && s.restoreDue cid y n && !(allTiles.any fun t => (s.core cid).foreignDirty y t)

/-- R356 step 2: a pending image that a parked context names is copied back, after step 1 has nothing left to save. -/
def execTileRestoreCopy (cid ctx tile : Nat) (s : State) : Answer :=
  let y : BitVec 4 := BitVec.ofNat 4 ctx
  let n : BitVec 3 := BitVec.ofNat 3 tile
  .next (if s.restoreWanted cid y n = true then s.withSaveArea cid y n y (s.restoreTile cid y n rowBytes) else s)

end Sys2Proof.Machine
end

