-- ==== Sys2Proof/Machine/Vat.lean ====
section
/-!
DEFINITION. Sys2Proof/Machine/Vat.lean: the simple vector instructions, majors 0x50 to 0x59 but for `vcfg` and `vrun`
(R119 to R139, R145).
-/

namespace Sys2Proof.Machine

/-! ## Lane values (R119) -/

/-- The value of a lane read as a format. -/
def laneRead (f : BitVec 5) (x : Lane) : ExNum := (fmtOf f).read x.toNat

/-- A code in lane form: the value of a signed integer or of TERN sign-extended (TERN code 0b10 is 0, R101), all else
zero-extended; R119 puts E8M0 in none of its classes, and its code is zero-extended too (log entry 64). -/
def laneForm (f : BitVec 5) (code : Nat) : Lane :=
  match fmtOf f with
  | .int b true => BitVec.ofInt 32 (readInt b true code)
  | .tern => if code % 4 = 2 then 0 else BitVec.ofInt 32 (readInt 2 true code)
  | _ => BitVec.ofNat 32 code

/-- A value converted once and written in lane form (R118, R136). -/
def laneWrite (f : BitVec 5) (mode : BitVec 3) (sat : BitVec 2) (draw : BitVec 16) (x : ExNum) : Lane :=
  laneForm f ((fmtOf f).write mode sat draw x)

/-- Sixteen lanes from a function of the lane number. -/
def lanes (f : BitVec 4 → Lane) : Lanes := Vector.ofFn fun i => f (BitVec.ofNat 4 i.val)

/-- A lane. -/
def laneAt (x : Lanes) (i : BitVec 4) : Lane := getV x i

/-- The destination under a mask: merge or zeroing (R121). -/
def mergeLanes (act : Mask) (z : Bool) (old new : Lanes) : Lanes :=
  lanes fun i => if act.getLsbD i.toNat then laneAt new i else if z then 0 else laneAt old i

/-- A mask destination under a mask (R121). -/
def mergeBits (act : Mask) (z : Bool) (old new : Mask) : Mask := (new &&& act) ||| (if z then 0 else old &&& ~~~act)

/-- The draws of the active lanes where the mode is STO, each from its own generator (R116, R121). An inactive lane
takes no draw; where a later stage links to its result, that result is rounded with the upper half of its generator as it
stands (log entry 65). -/
def Context.drawLanes (c : Context) (mode : BitVec 3) (act : Mask) : (BitVec 4 → BitVec 16) × Context :=
  if mode = 5 then
    let g : Vector (BitVec 32) 16 := Vector.ofFn fun i => if act.getLsbD i.val then drawNext c.gen[i] else c.gen[i]
    (fun i => (getV g i).extractLsb' 16 16, { c with gen := g })
  else (fun _ => 0, c)

/-- A lane operation on one or two sources under k and z. -/
def State.laneOp (s : State) (d a b : Reg) (k : BitVec 3) (z : Bool) (f : Lane → Lane → Lane) : Answer :=
  .next (s.retire fun c =>
    c.writeV d (mergeLanes (c.readK k) z (c.readV d) (lanes fun i => f (laneAt (c.readV a) i) (laneAt (c.readV b) i))))

/-- A compare of lanes into a mask register (R128). -/
def State.laneCmp (s : State) (d a b : Reg) (k : BitVec 3) (z : Bool) (f : Lane → Lane → Bool) : Answer :=
  .next (s.retire fun c =>
    let new : Mask := BitVec.ofNat 16 ((List.range 16).foldl (fun n i =>
      if f (laneAt (c.readV a) (BitVec.ofNat 4 i)) (laneAt (c.readV b) (BitVec.ofNat 4 i)) then n + 2 ^ i else n) 0)
    c.writeK (d.setWidth 3) (mergeBits (c.readK k) z (c.readK (d.setWidth 3)) new))

/-! ## Integer lanes (R125) -/

/-- Bits 63:32 of the signed product. -/
def mulHigh (x y : Lane) : Lane := (BitVec.ofInt 64 (x.toInt * y.toInt)).extractLsb' 32 32

/-- The exact sum or difference clamped to a format's range (R125). -/
def addClamped (f : BitVec 5) (x : Int) : Lane := laneWrite f 0 0 0 (ExNum.ofInt x)

/-- The lesser or greater of two lanes, signed or unsigned. -/
def laneMin (sg : Bool) (x y : Lane) : Lane := if (if sg then y.slt x else y.ult x) then y else x
def laneMax (sg : Bool) (x y : Lane) : Lane := if (if sg then x.slt y else x.ult y) then y else x

/-- R125: a + b in each lane. -/
def execVadd (d a b : Reg) (k : BitVec 3) (z : Bool) (s : State) : Answer :=
  s.laneOp d a b k z fun x y => x + y

/-- R125: a - b in each lane. -/
def execVsub (d a b : Reg) (k : BitVec 3) (z : Bool) (s : State) : Answer :=
  s.laneOp d a b k z fun x y => x - y

/-- R125: bits 31:0 of a × b. -/
def execVmul (d a b : Reg) (k : BitVec 3) (z : Bool) (s : State) : Answer :=
  s.laneOp d a b k z fun x y => x * y

/-- R125: bits 63:32 of the signed product. -/
def execVmulh (d a b : Reg) (k : BitVec 3) (z : Bool) (s : State) : Answer :=
  s.laneOp d a b k z fun x y => mulHigh x y

/-- R125: the lesser, signed. -/
def execVmin (d a b : Reg) (k : BitVec 3) (z : Bool) (s : State) : Answer :=
  s.laneOp d a b k z fun x y => laneMin true x y

/-- R125: the greater, signed. -/
def execVmax (d a b : Reg) (k : BitVec 3) (z : Bool) (s : State) : Answer :=
  s.laneOp d a b k z fun x y => laneMax true x y

/-- R125: the lesser, unsigned. -/
def execVminu (d a b : Reg) (k : BitVec 3) (z : Bool) (s : State) : Answer :=
  s.laneOp d a b k z fun x y => laneMin false x y

/-- R125: the greater, unsigned. -/
def execVmaxu (d a b : Reg) (k : BitVec 3) (z : Bool) (s : State) : Answer :=
  s.laneOp d a b k z fun x y => laneMax false x y

/-- R125: |a|; -2^31 stays. -/
def execVabs (d a : Reg) (k : BitVec 3) (z : Bool) (s : State) : Answer :=
  s.laneOp d a a k z fun x _ => if x.getLsbD 31 then 0 - x else x

/-- R125: -a modulo 2^32. -/
def execVneg (d a : Reg) (k : BitVec 3) (z : Bool) (s : State) : Answer :=
  s.laneOp d a a k z fun x _ => 0 - x

/-- R125: shift left by vb<4:0>. -/
def execVsll (d a b : Reg) (k : BitVec 3) (z : Bool) (s : State) : Answer :=
  s.laneOp d a b k z fun x y => x <<< (y.toNat % 32)

/-- R125: shift right by vb<4:0>, zeros in. -/
def execVsrl (d a b : Reg) (k : BitVec 3) (z : Bool) (s : State) : Answer :=
  s.laneOp d a b k z fun x y => x >>> (y.toNat % 32)

/-- R125: shift right by vb<4:0>, sign in. -/
def execVsra (d a b : Reg) (k : BitVec 3) (z : Bool) (s : State) : Answer :=
  s.laneOp d a b k z fun x y => x.sshiftRight (y.toNat % 32)

/-- R125: a + b clamped to DFMT, else INT32. -/
def execVadds (d a b : Reg) (k : BitVec 3) (z : Bool) (s : State) : Answer :=
  s.laneOp d a b k z fun x y => addClamped (s.ctx.chain.dfmt.getD 0x15) (x.toInt + y.toInt)

/-- R125: a - b clamped to DFMT, else INT32. -/
def execVsubs (d a b : Reg) (k : BitVec 3) (z : Bool) (s : State) : Answer :=
  s.laneOp d a b k z fun x y => addClamped (s.ctx.chain.dfmt.getD 0x15) (x.toInt - y.toInt)

/-! ## Floating lanes (R126) -/

/-- A rounded lane operation: sources in AFMT and BFMT, the exact result rounded once into DFMT, where SAT counts only
for a DFMT narrower than FP32 (R126); `f` takes the RDN flag for zero sums. -/
def State.laneFloat (s : State) (d a b : Reg) (k : BitVec 3) (z : Bool) (f : Bool → ExNum → ExNum → ExNum → ExNum) : Answer :=
  .next (s.retire fun c =>
    let m := c.chain.mode 0
    let df := c.chain.dfmt.getD 0x0F
    let sat := if df = 0x0F then 0 else c.chain.sat
    let act := c.readK k
    let (draw, c') := c.drawLanes m act
    c'.writeV d (mergeLanes act z (c.readV d) (lanes fun i =>
      laneWrite df m sat (draw i) (f (m == 3) (laneRead (c.chain.afmt.getD 0x0F) (laneAt (c.readV a) i))
        (laneRead (c.chain.bfmt.getD 0x0F) (laneAt (c.readV b) i)) (laneRead df (laneAt (c.readV d) i))))))

/-- R126: a + b, rounded once. -/
def execVfadd (d a b : Reg) (k : BitVec 3) (z : Bool) (s : State) : Answer :=
  s.laneFloat d a b k z fun rdn x y _ => ExNum.add rdn x y

/-- R126: a - b, rounded once. -/
def execVfsub (d a b : Reg) (k : BitVec 3) (z : Bool) (s : State) : Answer :=
  s.laneFloat d a b k z fun rdn x y _ => ExNum.add rdn x (ExNum.neg y)

/-- R126: a × b, rounded once. -/
def execVfmul (d a b : Reg) (k : BitVec 3) (z : Bool) (s : State) : Answer :=
  s.laneFloat d a b k z fun _ x y _ => ExNum.mul x y

/-- R126: va × vb + vd, one rounding. -/
def execVfma (d a b : Reg) (k : BitVec 3) (z : Bool) (s : State) : Answer :=
  s.laneFloat d a b k z fun rdn x y w => ExNum.add rdn (ExNum.mul x y) w

/-- R126: the lesser, as `fmin`. -/
def execVfmin (d a b : Reg) (k : BitVec 3) (z : Bool) (s : State) : Answer :=
  s.laneOp d a b k z f32Min

/-- R126: the greater, as `fmax`. -/
def execVfmax (d a b : Reg) (k : BitVec 3) (z : Bool) (s : State) : Answer :=
  s.laneOp d a b k z f32Max

/-- R126: bit 31 cleared. -/
def execVfabs (d a : Reg) (k : BitVec 3) (z : Bool) (s : State) : Answer :=
  s.laneOp d a a k z fun x _ => x &&& 0x7FFFFFFF

/-- R126: bit 31 inverted. -/
def execVfneg (d a : Reg) (k : BitVec 3) (z : Bool) (s : State) : Answer :=
  s.laneOp d a a k z fun x _ => x ^^^ 0x80000000

/-! ## Logic lanes and compares (R127, R128) -/

/-- R127: a AND b. -/
def execVand (d a b : Reg) (k : BitVec 3) (z : Bool) (s : State) : Answer :=
  s.laneOp d a b k z fun x y => x &&& y

/-- R127: a OR b. -/
def execVor (d a b : Reg) (k : BitVec 3) (z : Bool) (s : State) : Answer :=
  s.laneOp d a b k z fun x y => x ||| y

/-- R127: a XOR b. -/
def execVxor (d a b : Reg) (k : BitVec 3) (z : Bool) (s : State) : Answer :=
  s.laneOp d a b k z fun x y => x ^^^ y

/-- R127: a AND NOT b. -/
def execVandn (d a b : Reg) (k : BitVec 3) (z : Bool) (s : State) : Answer :=
  s.laneOp d a b k z fun x y => x &&& ~~~y

/-- R127: NOT a. -/
def execVnot (d a : Reg) (k : BitVec 3) (z : Bool) (s : State) : Answer :=
  s.laneOp d a a k z fun x _ => ~~~x

/-- R127: a. -/
def execVmov (d a : Reg) (k : BitVec 3) (z : Bool) (s : State) : Answer :=
  s.laneOp d a a k z fun x _ => x

/-- R128: equal. -/
def execVcmpEq (d a b : Reg) (k : BitVec 3) (z : Bool) (s : State) : Answer :=
  s.laneCmp d a b k z fun x y => x == y

/-- R128: not equal. -/
def execVcmpNe (d a b : Reg) (k : BitVec 3) (z : Bool) (s : State) : Answer :=
  s.laneCmp d a b k z fun x y => x != y

/-- R128: less, signed. -/
def execVcmpLt (d a b : Reg) (k : BitVec 3) (z : Bool) (s : State) : Answer :=
  s.laneCmp d a b k z fun x y => x.slt y

/-- R128: less or equal, signed. -/
def execVcmpLe (d a b : Reg) (k : BitVec 3) (z : Bool) (s : State) : Answer :=
  s.laneCmp d a b k z fun x y => !y.slt x

/-- R128: less, unsigned. -/
def execVcmpLtu (d a b : Reg) (k : BitVec 3) (z : Bool) (s : State) : Answer :=
  s.laneCmp d a b k z fun x y => x.ult y

/-- R128: less or equal, unsigned. -/
def execVcmpLeu (d a b : Reg) (k : BitVec 3) (z : Bool) (s : State) : Answer :=
  s.laneCmp d a b k z fun x y => !y.ult x

/-- R128: equal as FP32, 0 for NaN. -/
def execVfcmpEq (d a b : Reg) (k : BitVec 3) (z : Bool) (s : State) : Answer :=
  s.laneCmp d a b k z fun x y => ExNum.eqB (f32 x) (f32 y)

/-- R128: less as FP32, 0 for NaN. -/
def execVfcmpLt (d a b : Reg) (k : BitVec 3) (z : Bool) (s : State) : Answer :=
  s.laneCmp d a b k z fun x y => ExNum.ltB (f32 x) (f32 y)

/-- R128: less or equal as FP32, 0 for NaN. -/
def execVfcmpLe (d a b : Reg) (k : BitVec 3) (z : Bool) (s : State) : Answer :=
  s.laneCmp d a b k z fun x y => ExNum.leB (f32 x) (f32 y)

/-- R128: 1 when either lane is NaN. -/
def execVfcmpUn (d a b : Reg) (k : BitVec 3) (z : Bool) (s : State) : Answer :=
  s.laneCmp d a b k z fun x y => (f32 x).isNan || (f32 y).isNan

/-! ## Moving lanes (R129 to R131) -/

/-- R129: lane i from va where bit i of k[N] is 1, else from vb. -/
def execVsel (d a b : Reg) (k : BitVec 3) (s : State) : Answer :=
  .next (s.retire fun c => c.writeV d (mergeLanes (c.readK k) false (c.readV b) (c.readV a)))

/-- A permute: lane i from the lane that `f` names, or 0 (R130). -/
def State.permute (s : State) (d a : Reg) (k : BitVec 3) (z : Bool) (f : Nat → Option Nat) : Answer :=
  .next (s.retire fun c =>
    c.writeV d (mergeLanes (c.readK k) z (c.readV d) (lanes fun i => match f i.toNat with
      | some j => laneAt (c.readV a) (BitVec.ofNat 4 j)
      | none => 0)))

/-- R130: lane i from lane i + n modulo 16. -/
def execVrot (d a n : Reg) (k : BitVec 3) (z : Bool) (s : State) : Answer :=
  s.permute d a k z fun i => some ((i + n.toNat) % 16)

/-- R130: lane i from lane i - n, else 0. -/
def execVshup (d a n : Reg) (k : BitVec 3) (z : Bool) (s : State) : Answer :=
  s.permute d a k z fun i => if n.toNat ≤ i then some (i - n.toNat) else none

/-- R130: lane i from lane i + n, else 0. -/
def execVshdn (d a n : Reg) (k : BitVec 3) (z : Bool) (s : State) : Answer :=
  s.permute d a k z fun i => if i + n.toNat ≤ 15 then some (i + n.toNat) else none

/-- R131: s[a]<31:0> to every active lane. -/
def execVbcast (d a : Reg) (k : BitVec 3) (z w : Bool) (s : State) : Answer :=
  s.scalarOp w [a] fun c => c.writeV d (mergeLanes (c.readK k) z (c.readV d) (lanes fun _ => (c.readS a).setWidth 32))

/-- R131: a lane of va, sign-extended, to s[d]. -/
def execVmvSV (d a l : Reg) (s : State) : Answer :=
  .next (s.retire fun c => c.writeS d ((laneAt (c.readV a) (l.setWidth 4)).signExtend 64))

/-- R131: s[a]<31:0> to one lane of vd. -/
def execVmvVS (d a l : Reg) (w : Bool) (s : State) : Answer :=
  s.scalarOp w [a] fun c => c.writeV d (setV (c.readV d) (l.setWidth 4 : BitVec 4) ((c.readS a).setWidth 32))

/-! ## Reductions and scans (R132) -/

/-- One level of the reduction tree. -/
def pairUp (f : Lane → Lane → Lane) : List Lane → List Lane
  | x :: y :: rest => f x y :: pairUp f rest
  | l => l

/-- The tree over sixteen lanes. -/
def treeOf (f : Lane → Lane → Lane) (x : Lanes) : Lane := (pairUp f (pairUp f (pairUp f (pairUp f x.toList)))).headD 0

/-- The scan from lane 0 upward. -/
def scanOf (f : Lane → Lane → Lane) : Lane → List Lane → List Lane
  | _, [] => []
  | acc, x :: rest => f acc x :: scanOf f (f acc x) rest

/-- The lanes with the identity where the mask is off. -/
def maskedBy (act : Mask) (e : Lane) (x : Lanes) : Lanes := lanes fun i => if act.getLsbD i.toNat then laneAt x i else e

/-- The FP32 sum of a node, RNE (R132). -/
def addF32 (x y : Lane) : Lane := toF32 0 0 (ExNum.add false (f32 x) (f32 y))

/-- A reduction into every lane (R132). -/
def reduceLanes (f : Lane → Lane → Lane) (e : Lane) (act : Mask) (x : Lanes) : Lanes :=
  let r := treeOf f (maskedBy act e x)
  lanes fun _ => r

/-- A scan: lane 0 is x[0] (R132). -/
def scanLanes (f : Lane → Lane → Lane) (e : Lane) (act : Mask) (x : Lanes) : Lanes :=
  match (maskedBy act e x).toList with
  | [] => x
  | y :: rest => let l := y :: scanOf f y rest; lanes fun i => l.getD i.toNat 0

/-- A reduction instruction writes every lane. -/
def State.reduceOp (s : State) (d a : Reg) (k : BitVec 3) (f : Lane → Lane → Lane) (e : Lane) : Answer :=
  .next (s.retire fun c => c.writeV d (reduceLanes f e (c.readK k) (c.readV a)))

/-- A scan instruction. -/
def State.scanOp (s : State) (d a : Reg) (k : BitVec 3) (z : Bool) (f : Lane → Lane → Lane) (e : Lane) : Answer :=
  .next (s.retire fun c => c.writeV d (mergeLanes (c.readK k) z (c.readV d) (scanLanes f e (c.readK k) (c.readV a))))

/-- R132: the INT32 sum of the lanes modulo 2^32. -/
def execVredAdd (d a : Reg) (k : BitVec 3) (s : State) : Answer :=
  s.reduceOp d a k (· + ·) 0

/-- R132: the FP32 sum on the tree. -/
def execVredFadd (d a : Reg) (k : BitVec 3) (s : State) : Answer :=
  s.reduceOp d a k addF32 0x80000000

/-- R132: the greatest, signed. -/
def execVredMax (d a : Reg) (k : BitVec 3) (s : State) : Answer :=
  s.reduceOp d a k (laneMax true) 0x80000000

/-- R132: the least, signed. -/
def execVredMin (d a : Reg) (k : BitVec 3) (s : State) : Answer :=
  s.reduceOp d a k (laneMin true) 0x7FFFFFFF

/-- R132: the greatest FP32, as `fmax`. -/
def execVredFmax (d a : Reg) (k : BitVec 3) (s : State) : Answer :=
  s.reduceOp d a k f32Max 0xFF800000

/-- R132: running INT32 sums. -/
def execVscanAdd (d a : Reg) (k : BitVec 3) (z : Bool) (s : State) : Answer :=
  s.scanOp d a k z (· + ·) 0

/-- R132: running FP32 sums. -/
def execVscanFadd (d a : Reg) (k : BitVec 3) (z : Bool) (s : State) : Answer :=
  s.scanOp d a k z addF32 0x80000000

/-! ## Pool access (R133 to R135) -/

/-- A of `vld` and `vst`. -/
def vectorOffset (c : Context) (a o : Reg) : Word := c.readS a + o.signExtend 64 * 64

/-- The active lanes written at their addresses, in ascending order. -/
def State.writeLanes (s : State) (act : Mask) (at_ : BitVec 4 → Nat) (x : Lanes) : State :=
  ((List.range 16).map fun i => BitVec.ofNat 4 i).foldl (fun st i =>
    if act.getLsbD i.toNat then st.poolWrite (at_ i) 4 (laneAt x i).toNat else st) s

/-- R133: 64 bytes of the scratchpad to the active lanes. -/
def execVld (d a o : Reg) (k : BitVec 3) (z w : Bool) (s : State) : Answer :=
  let at_ := vectorOffset s.ctx a o
  .next (s.onSources w [a] (s.poolChecked a at_ 64 64 (s.retire fun c =>
    c.writeV d (mergeLanes (c.readK k) z (c.readV d) (lanes fun i => BitVec.ofNat 32 (s.poolRead (at_.toNat + 4 * i.toNat) 4))))))

/-- R133: the active lanes to 64 bytes of the scratchpad. -/
def execVst (d a o : Reg) (k : BitVec 3) (w : Bool) (s : State) : Answer :=
  let at_ := vectorOffset s.ctx a o
  .next (s.onSources w [a] (s.poolChecked a at_ 64 64
    ((s.writeLanes (s.ctx.readK k) (fun i => at_.toNat + 4 * i.toNat) (s.ctx.readV d)).retire id)))

/-- A_i of `vgat` and `vsct`. -/
def laneOffset (c : Context) (a b : Reg) (i : BitVec 4) : Word := c.readS a + (laneAt (c.readV b) i).setWidth 64

/-- The active lanes in ascending order. -/
def activeLanes (act : Mask) : List (BitVec 4) :=
  ((List.range 16).map fun i => BitVec.ofNat 4 i).filter fun i => act.getLsbD i.toNat

/-- The checks of R134 over the active lanes: misaligned, then bounds. -/
def State.lanesChecked (s : State) (a b : Reg) (act : Mask) (k : State) : State :=
  let c := s.ctx
  match (activeLanes act).find? fun i => (laneOffset c a b i).toNat % 4 != 0 with
  | some i => s.trap 0x03 (a.setWidth 8) 0 (laneOffset c a b i)
  | none =>
    match (activeLanes act).find? fun i => !s.cur.inScratch (laneOffset c a b i).toNat 4 with
    | some i => s.trap 0x04 (a.setWidth 8) 0 (laneOffset c a b i)
    | none => k

/-- R134: one 4-byte lane read at each active lane's address. -/
def execVgat (d a b : Reg) (k : BitVec 3) (z w : Bool) (s : State) : Answer :=
  .next (s.onSources w [a] (s.lanesChecked a b (s.ctx.readK k) (s.retire fun c =>
    c.writeV d (mergeLanes (c.readK k) z (c.readV d) (lanes fun i => BitVec.ofNat 32 (s.poolRead (laneOffset c a b i).toNat 4))))))

/-- R134: the active lanes written at their addresses, the higher lane last. -/
def execVsct (d a b : Reg) (k : BitVec 3) (w : Bool) (s : State) : Answer :=
  .next (s.onSources w [a] (s.lanesChecked a b (s.ctx.readK k)
    ((s.writeLanes (s.ctx.readK k) (fun i => (laneOffset s.ctx a b i).toNat) (s.ctx.readV d)).retire id)))

/-! ## Conversion (R136 to R138) -/

/-- A conversion of the active lanes into the format in vb under a mode. -/
def State.convertOp (s : State) (d a f : Reg) (k : BitVec 3) (z : Bool) (mode : BitVec 3) : Answer :=
  if isCvtFmt f then
    .next (s.retire fun c =>
      let act := c.readK k
      let (draw, c') := c.drawLanes mode act
      c'.writeV d (mergeLanes act z (c.readV d) (lanes fun i =>
        laneWrite f mode c.chain.sat (draw i) (laneRead (c.chain.afmt.getD 0x0F) (laneAt (c.readV a) i)))))
  else .next (s.trap 0x01 0 0x0E (f.setWidth 64))

/-- R136: each active lane converted from FP32 or AFMT. -/
def execVcvt (d a f : Reg) (k : BitVec 3) (z : Bool) (s : State) : Answer := s.convertOp d a f k z (s.ctx.chain.mode 0)

/-- R137: `vcvt` with mode STO. -/
def execVscvt (d a f : Reg) (k : BitVec 3) (z : Bool) (s : State) : Answer := s.convertOp d a f k z 5

/-- A format that `vpack` and `vunpk` take (R138). -/
def isPackFmt (f : BitVec 5) : Bool := f.toNat ≤ 0x0E || f == 0x14

/-- The sixteen lanes as one 512-bit number. -/
def lanesNat (x : Lanes) : Nat := (List.range 16).foldl (fun acc i => acc + (laneAt x (BitVec.ofNat 4 i)).toNat * 2 ^ (32 * i)) 0

/-- A 512-bit number as sixteen lanes. -/
def natLanes (n : Nat) : Lanes := lanes fun i => BitVec.ofNat 32 (n / 2 ^ (32 * i.toNat))

/-- R138: sixteen narrow elements packed below those already in vd. -/
def execVpack (d a f : Reg) (s : State) : Answer :=
  if isPackFmt f then
    let b := (fmtOf f).bits
    .next (s.retire fun c =>
      let p := (List.range 16).foldl (fun acc i => acc + (laneAt (c.readV a) (BitVec.ofNat 4 i)).toNat % 2 ^ b * 2 ^ (b * i)) 0
      c.writeV d (natLanes (lanesNat (c.readV d) * 2 ^ (16 * b) % 2 ^ 512 + p)))
  else .next (s.trap 0x01 0 0x0E (f.setWidth 64))

/-- R138: the sixteen lowest narrow elements of va to lane form. -/
def execVunpk (d a f : Reg) (s : State) : Answer :=
  if isPackFmt f then
    let b := (fmtOf f).bits
    .next (s.retire fun c =>
      let n := lanesNat (c.readV a)
      c.writeV d (lanes fun i => laneForm f (n / 2 ^ (b * i.toNat) % 2 ^ b)))
  else .next (s.trap 0x01 0 0x0E (f.setWidth 64))

/-! ## Mask registers (R139) -/

/-- k[d] from k[a] and k[b]. -/
def State.maskOp (s : State) (d a b : Reg) (f : Mask → Mask → Mask) : Answer :=
  .next (s.retire fun c => c.writeK (d.setWidth 3) (f (c.readK (a.setWidth 3)) (c.readK (b.setWidth 3))))

/-- R139: k[a] AND k[b]. -/
def execKand (d a b : Reg) (s : State) : Answer := s.maskOp d a b (· &&& ·)

/-- R139: k[a] OR k[b]. -/
def execKor (d a b : Reg) (s : State) : Answer := s.maskOp d a b (· ||| ·)

/-- R139: k[a] XOR k[b]. -/
def execKxor (d a b : Reg) (s : State) : Answer := s.maskOp d a b (· ^^^ ·)

/-- R139: NOT k[a]. -/
def execKnot (d a : Reg) (s : State) : Answer := s.maskOp d a a fun x _ => ~~~x

/-- R139: k[a]. -/
def execKmov (d a : Reg) (s : State) : Answer := s.maskOp d a a fun x _ => x

/-- R139: the set bits of k[a] counted in s[d]. -/
def execKpopc (d a : Reg) (s : State) : Answer :=
  .next (s.retire fun c => c.writeS d (BitVec.ofNat 64 (popCount (c.readK (a.setWidth 3)).toNat 16)))

/-- R139: s[a]<15:0> to k[d]. -/
def execKfrom (d a : Reg) (w : Bool) (s : State) : Answer :=
  s.scalarOp w [a] fun c => c.writeK (d.setWidth 3) ((c.readS a).setWidth 16)

/-! ## Park slots (R145) -/

/-- Is a park slot free: inside the accumulator partition, its row in no shaped tile? -/
def Core.slotFree (k : Core) (n : Nat) : Bool :=
  n < k.accuBytes / 64 && allTiles.all fun t =>
    !(64 * t.toNat ≤ n / 8 && n / 8 < 64 * t.toNat + shapeRows (k.shape t))

/-- The check of a park slot. -/
def State.slotChecked (s : State) (a : Reg) (n : Word) (k : State) : State :=
  if s.cur.slotFree n.toNat then k else s.trap 0x04 (a.setWidth 8) 0x01 n

/-- R145: the active lanes of vd to a park slot. -/
def execVpark (d a : Reg) (k : BitVec 3) (w : Bool) (s : State) : Answer :=
  let n := s.ctx.readS a
  .next (s.onSources w [a] (s.slotChecked a n
    ((s.writeLanes (s.ctx.readK k) (fun i => s.cur.accuLo + 64 * n.toNat + 4 * i.toNat) (s.ctx.readV d)).retire id)))

/-- R145: a park slot to the active lanes of vd. -/
def execVunpark (d a : Reg) (k : BitVec 3) (z w : Bool) (s : State) : Answer :=
  let n := s.ctx.readS a
  .next (s.onSources w [a] (s.slotChecked a n (s.retire fun c =>
    c.writeV d (mergeLanes (c.readK k) z (c.readV d) (lanes fun i =>
      BitVec.ofNat 32 (s.poolRead (s.cur.accuLo + 64 * n.toNat + 4 * i.toNat) 4))))))

end Sys2Proof.Machine
end

