-- ==== Sys2Proof/Machine/EngineRun.lean ====
section
/-!
DEFINITION. Sys2Proof/Machine/EngineRun.lean: how an engine runs its command: elements and beats, rounds and
parameters, and the end of the command (R214 to R217, R221, R225 to R230, R300).
-/

namespace Sys2Proof.Machine

/-! ## Reaching the bytes of an access (R215, R229, R300) -/

/-- Why an engine's access cannot be made now. -/
inductive Block where
  /-- the command ends with this KIND and address -/
  | stop (kind : BitVec 4) (addr : Word)
  /-- a TLB miss at a virtual address -/
  | miss (va : Nat)
  /-- an owner refuses a pool offset outside its scratchpad (R78) -/
  | reject (addr : Nat)
  /-- the column pauses or its comparator holds the bytes -/
  | wait
  /-- the column's vertical bus has failed (R252) -/
  | down
  deriving DecidableEq, Repr

/-- Runs of bytes at wafer addresses. -/
abbrev Runs := List (Nat × Nat)

/-- The first `k` bytes of runs, and the rest. -/
def runsTake : Runs → Nat → Runs
  | [], _ => []
  | (a, n) :: rest, k => if k = 0 then [] else if k < n then [(a, k)] else (a, n) :: runsTake rest (k - n)
def runsDrop : Runs → Nat → Runs
  | [], _ => []
  | (a, n) :: rest, k => if k < n then (a + k, n - k) :: rest else runsDrop rest (k - n)

/-- Bytes of runs. -/
def runsLen (r : Runs) : Nat := r.foldl (fun n x => n + x.2) 0

/-- The graph of an engine's holder. -/
def State.engineGraph (s : State) (cid : Nat) (e : Engine) : BitVec 16 := (s.ctxAt cid (e.holder.getD 0)).graph

/-- One run at a wafer address, once the port that performs it lets it through (R303, R304). -/
def State.portRun (s : State) (cid a n : Nat) : Except Block Runs :=
  if s.rejected a n then .error (.reject a)
  else match s.reachable cid a n with
    | .open_ => .ok [(a, n)]
    | .wait => .error .wait
    | .down => .error .down

/-- Bytes at an address by the pieces of 256 KiB that hold them, at most two (R300, R303). -/
def byPages (f : Nat → Nat → Except Block Runs) (a n : Nat) : Except Block Runs :=
  let here := min n (2 ^ 18 - a % 2 ^ 18)
  match f a here with
  | .error b => .error b
  | .ok r =>
    if here = n then .ok r
    else match f (a + here) (n - here) with
      | .error b => .error b
      | .ok r2 => .ok (r ++ r2)

/-- One page of a virtual access (R215, R229). -/
def State.pageRun (s : State) (cid : Nat) (asn : BitVec 16) (va n : Nat) (wr : Bool) : Except Block Runs :=
  if 2 ^ 54 ≤ va then .error (.stop 3 (BitVec.ofNat 64 va))
  else match s.xlate cid asn va (!wr) wr with
    | .fault _ => .error (.stop 2 (BitVec.ofNat 64 va))
    | .miss => .error (.miss va)
    | .ok a =>
      if addrPool a && addrCore a / 16 != cid / 16 then .error (.stop 2 (BitVec.ofNat 64 va))
      else s.portRun cid a n

/-- `n` bytes (at most two pages) of a side of kind 0, 2 or 3 at an address modulo 2^64 (R215, R300). -/
def State.reach (s : State) (cid : Nat) (asn : BitVec 16) (kind : Nat) (at_ : Int) (n : Nat) (wr : Bool) : Except Block Runs :=
  let a := (at_ % 2 ^ 64).toNat
  match kind with
  | 0 => if (s.core cid).inScratch a n then .ok [(poolAddr cid a, n)]
    else .error (.stop 5 (BitVec.ofNat 64 (max a (if a < (s.core cid).scratchLo then a else (s.core cid).scratchHi))))
  | 2 => if a + n ≤ 2 ^ 26 then byPages (fun b k => s.portRun cid (dramAddr cid b) k) a n
    else .error (.stop 5 (BitVec.ofNat 64 (max a (2 ^ 26))))
  | _ => byPages (fun b k => s.pageRun cid asn b k wr) a n

/-- The places of the bytes that an access has still to reach: those that it has translated, or, where it begins, all of its
bytes (R300; log entry 97). -/
def State.places (s : State) (cid : Nat) (e : Engine) (kind : Nat) (at_ : Int) (n : Nat) (wr : Bool) : Except Block Runs :=
  if e.runs.isEmpty then s.reach cid (s.engineGraph cid e) kind at_ n wr else .ok e.runs

/-- The ports' answer to the next piece of an access that has begun, at its places (R78, R90, R252). -/
def State.piecePort (s : State) (cid : Nat) (r : Runs) : Option Block :=
  (r.findSome? fun x => if addrPool x.1 then none else match s.reachable cid x.1 x.2 with
    | .open_ => none
    | .wait => some .wait
    | .down => some .down)

/-- The detour hops of the messages of an access that begins at these places, one to each, and of their replies (R245). -/
def State.countTrips (s : State) (cid : Nat) (e : Engine) (r : Runs) (reply : Bool) : State :=
  if e.runs.isEmpty then r.foldl (fun st x => st.countTrip cid x.1 reply) s else s

/-- The bytes of runs, each where its port performs it (R303). -/
def State.readRuns (s : State) (r : Runs) : List Byte := r.flatMap fun x => s.readBytes (s.servedAt x.1) x.2

/-- A write of an engine forwarded to the home of a piece under migration, up to 32 bytes a message (R303). -/
def State.forwardEngine (s : State) (cid g a home : Nat) (l : List Byte) : State :=
  (List.range ((l.length + 31) / 32)).foldl (fun st i =>
    let e := st.engineAt cid g
    (st.forwardWrite (a + 32 * i) (home + 32 * i) cid (e.holder.getD 0) (st.engineGraph cid e) (some g)
      ((l.drop (32 * i)).take 32)).modEngine cid g fun x => { x with writes := x.writes ++ [st.nextId] }) s

/-- Bytes written to runs by an engine. -/
def State.writeRuns (s : State) (cid g : Nat) : Runs → List Byte → State
  | [], _ => s
  | (a, n) :: rest, l =>
    let at_ := s.servedAt a
    let s1 := s.writeBytes at_ (l.take n)
    let s2 := match s.homeOf at_ with
      | some h => s1.forwardEngine cid g at_ h (l.take n)
      | none => s1
    s2.writeRuns cid g rest (l.drop n)

/-- What a blocked access does to its engine (R78, R229, R252, R295). -/
def State.blocked (s : State) (cid g : Nat) (wr : Bool) (b : Block) : State :=
  let e := s.engineAt cid g
  let asn := s.engineGraph cid e
  match b with
  | .stop k a => s.modEngine cid g fun e => e.endsAt wr k a
  | .miss va =>
    ((s.count cid 0x080 (some (e.holder.getD 0, asn))).addMiss cid (.engine cid g) asn va (!wr) wr 0).modEngine cid g
      fun e => { e with waitMiss := some s.nextId }
  | .reject a => (s.haltRegion asn).machineCheck 0x02 0 cid asn (BitVec.ofNat 64 a)
  | .wait => s
  | .down => s.haltRegion asn

/-! ## Elements (R214, R215) -/

/-- The element offset of an index along the strides of a side. -/
def recLinear (r : Vector Word 9) (sink : Bool) (idx : Nat) : Int :=
  let e0 := recExt r 0
  let e1 := recExt r 1
  let e2 := recExt r 2
  (idx % e0 : Nat) * recStride r sink 0 + (idx / e0 % e1 : Nat) * recStride r sink 1
    + (idx / (e0 * e1) % e2 : Nat) * recStride r sink 2 + (idx / (e0 * e1 * e2) : Nat) * recStride r sink 3

/-- The bit position of an element of a side whose format has `bits` bits. -/
def recBit (r : Vector Word 9) (sink : Bool) (bits idx : Nat) : Int :=
  ((if sink then r[1] else r[0]).toNat : Int) * 8 + recLinear r sink idx * bits

/-- Elements of a format that share bytes, which one access moves together: whole bytes, or whole triples of 6-bit elements
(R100). -/
def unitLen (f : BitVec 5) : Nat :=
  match (fmtOf f).bits with
  | 2 => 4
  | 4 => 2
  | 6 => 4
  | _ => 1

/-- Elements that one read takes, and that one write needs: one at a port. -/
def readUnit (c : Word) : Nat := if ctrlSkind c = 1 then 1 else unitLen (ctrlSfmt c)
def writeUnit (c : Word) : Nat := if ctrlDkind c = 1 then 1 else unitLen (ctrlDfmt c)

/-- Elements that share bytes as one access of a side that is memory: `k` codes of `bits` bits each from bit `low` of the first
of `bytes` bytes at an address (R100, R215). -/
structure Unit_ where
  at_ : Int
  low : Nat
  bits : Nat
  k : Nat
  bytes : Nat

/-- The unit of `k` elements of a side from element `idx` on; the strides of R215 let it lie in consecutive bits. -/
def unitOf (r : Vector Word 9) (sink : Bool) (idx k : Nat) : Unit_ :=
  let c := r[2]
  let b := (fmtOf (if sink then ctrlDfmt c else ctrlSfmt c)).bits
  let p := recBit r sink b idx
  { at_ := p / 8, low := (p % 8).toNat, bits := b, k, bytes := ((p % 8).toNat + k * b + 7) / 8 }

/-- Bytes of a unit that one access moves: an element of 1 to 8 bytes aligned to its size whole, and else each byte for itself
(R319; log entry 35). -/
def Unit_.piece (u : Unit_) : Nat := if 8 ≤ u.bits ∧ u.at_ % u.bytes = 0 then u.bytes else 1

/-- The codes in the bytes of a unit. -/
def Unit_.codes (u : Unit_) (l : List Nat) : List Nat :=
  let x := leNat (l.map (BitVec.ofNat 8))
  (List.range u.k).map fun i => x / 2 ^ (u.low + i * u.bits) % 2 ^ u.bits

/-- The bits that codes fill in the bytes of a unit, and their values there. -/
def Unit_.mask (u : Unit_) : Nat := (2 ^ (u.k * u.bits) - 1) * 2 ^ u.low
def Unit_.image (u : Unit_) (codes : List Nat) : Nat :=
  (codes.zipIdx.foldl (fun x (c, i) => x + c % 2 ^ u.bits * 2 ^ (i * u.bits)) 0) * 2 ^ u.low

/-- A byte of a unit after the codes are written into it: its other bits are kept (R215). -/
def Unit_.byte (u : Unit_) (codes : List Nat) (o : Nat) (old : Byte) : Byte :=
  let m : Byte := BitVec.ofNat 8 (u.mask / 256 ^ o)
  (old &&& ~~~m) ||| (BitVec.ofNat 8 (u.image codes / 256 ^ o) &&& m)

/-! ### Scales (R106 to R108) -/

/-- The scale, and the zero point, of the block that holds an element: side kind, address, bytes. -/
def scalePlaces (r : Vector Word 9) (idx : Nat) : List (Nat × Int × Nat) :=
  let c := r[2]
  let base : Int := r[8].toNat
  let b := idx / blockLen c
  if blockSource c then
    if isMx (ctrlSfmt c) then [(ctrlSkind c, base + b, 1)]
    else (ctrlSkind c, base + 2 * b, 2)
      :: if ctrlZp c then [(ctrlSkind c, base + 2 * (recTotal r / blockLen c : Nat) + b, 1)] else []
  else if blockSink c then [(ctrlDkind c, base + b, 1)]
  else []

/-- The runs of the scale, and of the zero point, of the block that holds an element. -/
def State.scaleRuns (s : State) (cid : Nat) (asn : BitVec 16) (r : Vector Word 9) (idx : Nat) : Except Block (Runs × Runs) :=
  let at_ := fun (x : Nat × Int × Nat) => s.reach cid asn x.1 x.2.1 x.2.2 (!blockSource r[2])
  match scalePlaces r idx with
  | [] => .ok ([], [])
  | [x] => (at_ x).map fun y => (y, [])
  | x :: z :: _ => match at_ x with
    | .error b => .error b
    | .ok y => (at_ z).map fun w => (y, w)

/-- The value of a source element under its scale (R106, R108); where it is a zero, its sign is that of the product (log
entry 89). -/
def scaledValue (f : BitVec 5) (scale zpt code : Nat) : ExNum :=
  if isMx f then (if scale = 255 then .nan else ExNum.scale ((scale : Int) - 127) ((fmtOf f).read code))
  else
    let z := if f = 0x05 then zpt % 16 else zpt
    match fmtFP16.read scale with
    | .fin a m e => ExNum.mul (.fin a m e) (ExNum.ofInt ((code : Int) - z))
    | _ => .nan

/-- EMAX of an MX element format (R107). -/
def mxEmax (f : BitVec 5) : Int :=
  match f.toNat with
  | 0x10 => 2
  | 0x11 => 2
  | 0x12 => 8
  | _ => 0

/-- A block of values written as scale and element codes (R107). -/
def mxBlock (f : BitVec 5) (mode : BitVec 3) (sat : BitVec 2) (l : List ExNum) : Nat × List Nat :=
  if l.any ExNum.isNan then (0xFF, l.map fun _ => 0)
  else
    let amax := l.foldl (fun m x => if ExNum.cmp m (ExNum.abs x) == -1 then ExNum.abs x else m) (.fin false 0 0)
    let x : Int := match amax with
      | .fin _ m e => if m = 0 then -127 else max (-127) (min 127 (ExNum.expOf m e - mxEmax f))
      | _ => 127
    ((x + 127).toNat, l.map fun v => (fmtOf f).write mode sat 0 (ExNum.scale (-x) v))

/-- The sink codes of a group of source codes, with the scale written beside them, if any. -/
def convertGroup (c : Word) (scale zpt : Nat) (l : List Nat) : Nat × List Nat :=
  let sf := ctrlSfmt c
  let df := ctrlDfmt c
  if blockSink c then mxBlock df (ctrlRm c) (ctrlSat c) (l.map fun x => (fmtOf sf).read x)
  else if blockSource c then (0, l.map fun x => (fmtOf df).write (ctrlRm c) (ctrlSat c) 0 (scaledValue sf scale zpt x))
  else if sf = df then (0, l)
  else (0, l.map fun x => (fmtOf df).write (ctrlRm c) (ctrlSat c) 0 ((fmtOf sf).read x))

/-! ### Port sides (R216) -/

/-- The code of the token that holds element `idx` last (R216); a dimension above NDIM has extent 1 (R215). -/
def eodCode (r : Vector Word 9) (idx : Nat) : BitVec 3 :=
  let last := fun j => (List.range (j + 1)).all fun i =>
    idx / (List.range i).foldl (fun n k => n * recExt r k) 1 % recExt r i == recExt r i - 1
  (List.range 4).foldl (fun c j => if (ctrlEodm r[2]).getLsbD j && last j then BitVec.ofNat 3 (j + 1) else c) 0

/-- What a word token or a lane holds of an element (R119, R216). -/
def wordElem (f : BitVec 5) (code : Nat) : Word :=
  match fmtOf f with
  | .int 64 _ => BitVec.ofNat 64 code
  | .int _ true => (laneForm f code).signExtend 64
  | .tern => (laneForm f code).signExtend 64
  | _ => (laneForm f code).setWidth 64
def laneElem (f : BitVec 5) (code : Nat) : Lane :=
  match fmtOf f with
  | .int 64 _ => BitVec.ofNat 32 (Config.wide code)
  | _ => laneForm f code

/-- What an element is of a payload or lane. -/
def elemOf (f : BitVec 5) (word : Bool) (x : Nat) : Nat :=
  match fmtOf f with
  | .int 64 _ => if word then x % 2 ^ 64 else Config.wide x % 2 ^ 64
  | t => x % 2 ^ t.bits

/-- The token of begun lanes (R216). -/
def lanesToken (l : List Lane) (code : BitVec 3) : Token :=
  ⟨packLanes (lanes fun i => l.getD i.toNat 0), BitVec.ofNat 16 (2 ^ l.length - 1), code⟩

/-- A token sent by an engine: it releases nothing (R315), and takes its entry (R158). -/
def State.engineSend (s : State) (n : Nat) (t : Token) (pend : List Nat) : State :=
  (s.send n t pend).modChan n fun ch => { ch with free := ch.free - 1 }

/-- The EFM bytes of a token payload; a word token holds 8, and those of a longer value past them are free (R216; log entry 11). -/
def payloadBytes (vec : Bool) (p : BitVec 512) (n : Nat) : List Byte :=
  if vec || n ≤ 8 then leBytes n p.toNat else leBytes n (p.toNat % 2 ^ 64 + 2 ^ 64 * Config.wide p.toNat)

/-- The token of an EFM value (R216). -/
def efmToken (vec : Bool) (l : List Byte) (code : BitVec 3) : Token :=
  if vec then ⟨BitVec.ofNat 512 (leNat l), BitVec.ofNat 16 (2 ^ ((l.length + 3) / 4) - 1), code⟩
  else wordToken (BitVec.ofNat 64 (if l.length ≤ 8 then leNat l else Config.wide (leNat l))) code

/-! ### One element -/

/-- The channel of an engine's port. -/
def State.enginePort (s : State) (cid : Nat) (e : Engine) (input : Bool) (p : BitVec 4) : Option (Nat × Channel) :=
  if input then s.inChan (s.ctxAt cid (e.holder.getD 0)) p else s.outChan (s.ctxAt cid (e.holder.getD 0)) p

/-- An engine waits for a token or a credit of a channel (R210). -/
def State.waitOnPort (s : State) (cid g : Nat) (ch : Option Nat) : State :=
  s.modEngine cid g fun e => { e with st := .waitPort, waits := ch }

/-- Is an input port of an engine on the vector plane? -/
def State.portVec (s : State) (cid : Nat) (e : Engine) (p : BitVec 4) : Bool :=
  match s.enginePort cid e true p with
  | some (_, ch) => ch.vec
  | none => false

/-- The channel of a port, where it is bound. -/
def State.engineChan (s : State) (cid : Nat) (e : Engine) (input : Bool) (p : BitVec 4) : Option Nat :=
  (s.enginePort cid e input p).map fun x => x.1

/-- A round is over: all rounds run end the command, else the engine stands at a round boundary (R217). -/
def Engine.roundDone (e : Engine) (st : EngState) (mark : Nat) : Engine :=
  let n := e.roundsRun + 1
  if ctrlRounds e.ctrl ≠ 0 ∧ ctrlRounds e.ctrl ≤ n then
    { e with roundsRun := n, ending := some (e.ending.getD (0, 0)), st := .running }
  else { e with roundsRun := n, boundary := true, st, pausedAt := mark }

/-- The element index moved on. -/
def State.stepOver (s : State) (cid g n : Nat) : State :=
  s.modEngine cid g fun e =>
    let e1 := { e with idx := e.idx + n, elems := e.elems + n, st := .running }
    if recTotal e.record ≤ e1.idx then e1.roundDone .running 0 else e1

/-- The source of the next element of a port: a value, a token popped without one, nothing yet, or a marker. -/
inductive Source where
  | value (s : State) (code : Nat) (payload : BitVec 512)
  | popped (s : State)
  | empty
  | marker

/-- Takes an element from a port source (R216); lanes that a round leaves of a token are the first of the next round, and those
that a command leaves are dropped (log entry 92). -/
def State.pullPort (s : State) (cid g : Nat) (e : Engine) : Source :=
  let c := e.ctrl
  let f := ctrlSfmt c
  match e.srcLanes with
  | x :: rest => .value (s.modEngine cid g fun e => { e with srcLanes := rest }) (elemOf f false x.toNat) 0
  | [] =>
    match s.enginePort cid e true (ctrlSport c) with
    | none => .empty
    | some (i, ch) =>
      match ch.queue with
      | [] => .empty
      | t :: _ =>
        if t.code = 5 then .marker
        else
          let s1 := s.modChan i Channel.pop
          if f = 0x18 then .value s1 0 t.payload
          else if ch.vec then
            .popped (s1.modEngine cid g fun e => { e with
              srcLanes := (((List.range 16).filter fun i => t.valid.getLsbD i).map fun i => laneAt (lanesOf t.payload) (BitVec.ofNat 4 i))
              st := .running })
          else .value s1 (elemOf f true (t.payload.extractLsb' 0 64).toNat) t.payload

/-- The sink codes of codes just read, and what an engine then holds of them: a block sink gathers a whole block before it
converts (R107), every other sink takes each element as it comes. -/
def Engine.taken (e : Engine) (scale zpt : Nat) (codes : List Nat) : Engine :=
  if blockSink e.ctrl then { e with raw := e.raw ++ codes, st := .running }
  else { e with got := e.got ++ (convertGroup e.ctrl scale zpt codes).2, st := .running }

/-- An element put on a port sink: a word token, or a lane of a vector token (R216). -/
def State.pushPort (s : State) (cid g i : Nat) (ch : Channel) (code : Nat) : State :=
  let e := s.engineAt cid g
  let f := ctrlDfmt e.ctrl
  let k := eodCode e.record e.idx
  if !ch.vec then s.engineSend i (wordToken (wordElem f code) k) []
  else
    let l := e.lanes ++ [laneElem f code]
    let full : Bool := l.length == 16 || (e.idx + 1) % recExt e.record 0 == 0
    if full then (s.engineSend i (lanesToken l k) []).modEngine cid g fun e => { e with lanes := [] }
    else s.modEngine cid g fun e => { e with lanes := l }

/-- Does the next element of a port sink complete a token? -/
def completesToken (e : Engine) (ch : Channel) : Bool :=
  !ch.vec || ctrlDfmt e.ctrl == 0x18 || e.lanes.length == 15 || (e.idx + 1) % recExt e.record 0 == 0

/-- `k` converted elements written at the sink, the other bits of their bytes kept (R215, R216). -/
def State.writeElements (s : State) (cid g : Nat) (e : Engine) (k : Nat) : State :=
  let c := e.ctrl
  if ctrlDkind c = 1 then
    match s.enginePort cid e false (ctrlDport c) with
    | none => s.waitOnPort cid g none
    | some (i, ch) =>
      if completesToken e ch && ch.free == 0 then s.waitOnPort cid g (some i)
      else ((s.pushPort cid g i ch (e.got.headD 0)).modEngine cid g fun e => { e with got := e.got.drop 1 }).stepOver cid g 1
  else
    let u := unitOf e.record true e.idx k
    match s.places cid e (ctrlDkind c) u.at_ u.bytes true with
    | .error b => s.blocked cid g true b
    | .ok runs =>
      let now := runsTake runs u.piece
      let rest := runsDrop runs u.piece
      match s.piecePort cid now with
      | some b => s.blocked cid g true b
      | none =>
        let o := u.bytes - runsLen runs
        let l := (s.readRuns now).zipIdx.map fun (x, i) => u.byte (e.got.take k) (o + i) x
        let s1 := ((s.countTrips cid e runs false).writeRuns cid g now l).modEngine cid g fun e => { e with runs := rest }
        if rest.isEmpty then (s1.modEngine cid g fun e => { e with got := e.got.drop k }).stepOver cid g k
        else s1.modEngine cid g fun e => { e with st := .running }

/-- A gathered block, or what a marker or `sstop` leaves of one, converted, its scale written (R107). -/
def State.convertBlock (s : State) (cid g : Nat) (e : Engine) : State :=
  match s.scaleRuns cid (s.engineGraph cid e) e.record e.idx with
  | .error b => s.blocked cid g true b
  | .ok x =>
    let (sc, codes) := convertGroup e.ctrl 0 0 e.raw
    ((s.countTrips cid e x.1 false).writeRuns cid g x.1 [BitVec.ofNat 8 sc]).modEngine cid g fun e => { e with raw := [], got := codes, st := .running }

/-- What is begun is carried on to its end without a further read, at a marker, at `sstop` and at the end of a command: a
block is converted, elements are written, a vector token is sent with its remaining lanes invalid (R216, R222). -/
def State.drainStep (s : State) (cid g : Nat) (e : Engine) : State :=
  let c := e.ctrl
  if !e.raw.isEmpty then s.convertBlock cid g e
  else if !e.got.isEmpty then s.writeElements cid g e (min e.got.length (writeUnit c))
  else match s.enginePort cid e false (ctrlDport c) with
    | none => s.modEngine cid g fun e => { e with lanes := [] }
    | some (i, ch) =>
      if ch.free = 0 then s.waitOnPort cid g (some i)
      else (s.engineSend i (lanesToken e.lanes 0) []).modEngine cid g fun e => { e with lanes := [] }

/-- Is an engine inside an element or beat: it has read what it has not yet written, or begun a read or write in pieces? -/
def Engine.inside (e : Engine) : Bool := !e.raw.isEmpty || !e.got.isEmpty || !e.part.isEmpty || !e.runs.isEmpty

/-- Has an engine read what it has not yet written, or begun a token? -/
def Engine.begun (e : Engine) : Bool := !e.lanes.isEmpty || e.inside

/-- A marker at the head of the source port ends the round, once what is begun is out (R216). -/
def State.atMarker (s : State) (cid g : Nat) : State :=
  let e := s.engineAt cid g
  if e.begun then s.drainStep cid g e
  else
    let n := (s.ctxAt cid (e.holder.getD 0)).invocations
    s.modEngine cid g fun e => e.roundDone .paused n

/-- Bytes of an EFM value at a place, as it is read: 3 + n, or 3 for a malformed one (R111, R112). -/
def efmValue (l : List Byte) : List Byte :=
  if 30 < (l.headD 0).toNat then [0x01, 0xFF, 0x7F, 0x80] else l

/-- Bytes of an access at an address up to the end of its aligned 64-byte span: what R319 makes one piece of an EFM value. -/
def spanLen (at_ : Int) (n : Nat) : Nat := min n (64 - (at_ % 64).toNat)

/-- The base of the run of dimension 0 that element `idx` lies in, of an EFM side (R215). -/
def efmBase (e : Engine) (sink : Bool) : Int :=
  recBit e.record sink 8 (e.idx / recExt e.record 0 * recExt e.record 0) / 8

/-- An EFM value is out: the engine steps over it, and a new run of dimension 0 starts at its base (R215). -/
def State.efmStep (s : State) (cid g : Nat) (e : Engine) : State :=
  let s1 := s.stepOver cid g 1
  if (e.idx + 1) % recExt e.record 0 == 0 then s1.modEngine cid g fun x => { x with sOff := 0, dOff := 0 } else s1

/-- The next piece of an EFM value written (R215, R319). -/
def State.efmWrite (s : State) (cid g : Nat) (e : Engine) : State :=
  let c := e.ctrl
  let l : List Byte := e.got.map (BitVec.ofNat 8)
  if ctrlDkind c = 1 then
    match s.enginePort cid e false (ctrlDport c) with
    | none => s.waitOnPort cid g none
    | some (i, ch) =>
      if ch.free = 0 then s.waitOnPort cid g (some i)
      else ((s.engineSend i (efmToken ch.vec l (eodCode e.record e.idx)) []).modEngine cid g fun x => { x with got := [] }).efmStep
        cid g e
  else
    let a := efmBase e true + e.dOff
    match s.places cid e (ctrlDkind c) a l.length true with
    | .error b => s.blocked cid g true b
    | .ok runs =>
      let k := spanLen a l.length
      match s.piecePort cid (runsTake runs k) with
      | some b => s.blocked cid g true b
      | none =>
        let s1 := ((s.countTrips cid e runs false).writeRuns cid g (runsTake runs k) (l.take k)).modEngine cid g fun x =>
          { x with got := x.got.drop k, dOff := x.dOff + k, runs := runsDrop runs k, st := .running }
        if k < l.length then s1 else s1.efmStep cid g e

/-- The places of an EFM value, from those of its byte 0: its size, and where it lies; it has no byte read before every page of it
has translated (R215, R300). -/
def State.efmPlaces (s : State) (cid : Nat) (e : Engine) (a : Int) : Except Block (Nat × Runs) :=
  if e.runs.isEmpty then
    match s.reach cid (s.engineGraph cid e) (ctrlSkind e.ctrl) a 1 false with
    | .error b => .error b
    | .ok first =>
      let n := efmSize ((s.readRuns first).headD 0).toNat
      (s.reach cid (s.engineGraph cid e) (ctrlSkind e.ctrl) a n false).map fun r => (n, r)
  else .ok (efmSize (e.raw.headD 0), e.runs)

/-- The next piece of an EFM value read (R215, R319). -/
def State.efmFetch (s : State) (cid g : Nat) (e : Engine) : State :=
  let c := e.ctrl
  if ctrlSkind c = 1 then
    match s.pullPort cid g e with
    | .value st _ p =>
      st.modEngine cid g fun x => { x with
        got := (efmValue (payloadBytes (s.portVec cid e (ctrlSport c)) p (efmSize (p.extractLsb' 0 8).toNat))).map BitVec.toNat, st := .running }
    | .popped st => st
    | .empty => s.waitOnPort cid g (s.engineChan cid e true (ctrlSport c))
    | .marker => s.atMarker cid g
  else
    let a := efmBase e false + e.sOff
    match s.efmPlaces cid e a with
    | .error b => s.blocked cid g false b
    | .ok (n, runs) =>
      let k := spanLen (a + e.raw.length) (n - e.raw.length)
      match s.piecePort cid (runsTake runs k) with
      | some b => s.blocked cid g false b
      | none =>
        let raw := e.raw ++ (s.readRuns (runsTake runs k)).map BitVec.toNat
        (s.countTrips cid e runs true).modEngine cid g fun x =>
          if raw.length < n then { x with raw := raw, runs := runsDrop runs k, st := .running }
          else { x with raw := [], runs := [], got := (efmValue (raw.map (BitVec.ofNat 8))).map BitVec.toNat, sOff := x.sOff + n
                        st := .running }

/-- The next elements of a stream command read and converted: one at a port, else those of one access (R100, R215). -/
def State.fetchElements (s : State) (cid g : Nat) (e : Engine) : State :=
  let c := e.ctrl
  let r := e.record
  let asn := s.engineGraph cid e
  let at_ := e.idx + e.got.length + e.raw.length
  match if blockSource c then s.scaleRuns cid asn r at_ else .ok ([], []) with
  | .error b => s.blocked cid g false b
  | .ok (sc, zp) =>
    let take := fun (st : State) (codes : List Nat) =>
      ((st.countTrips cid e sc true).countTrips cid e zp true).modEngine cid g fun e =>
        { e.taken (leNat (s.readRuns sc)) (leNat (s.readRuns zp)) codes with runs := [], part := [] }
    if ctrlSkind c = 1 then
      match s.pullPort cid g e with
      | .value st code _ => take st [code]
      | .popped st => st
      | .empty => s.waitOnPort cid g (s.engineChan cid e true (ctrlSport c))
      | .marker => s.atMarker cid g
    else
      let u := unitOf r false at_ (readUnit c)
      match s.places cid e (ctrlSkind c) u.at_ u.bytes false with
      | .error b => s.blocked cid g false b
      | .ok runs =>
        let now := runsTake runs u.piece
        match s.piecePort cid now with
        | some b => s.blocked cid g false b
        | none =>
          let part := e.part ++ (s.readRuns now).map BitVec.toNat
          let s1 := s.countTrips cid e runs true
          if part.length < u.bytes then s1.modEngine cid g fun e => { e with part, runs := runsDrop runs u.piece, st := .running }
          else take s1 (u.codes part)

/-- One access of a stream command: the write of converted elements where enough stand ready, else the conversion of a
gathered block, else a read (R215). -/
def State.streamElement (s : State) (cid g : Nat) (e : Engine) : State :=
  let c := e.ctrl
  if ctrlSfmt c = 0x18 then (if e.got.isEmpty then s.efmFetch cid g e else s.efmWrite cid g e)
  else if writeUnit c ≤ e.got.length then s.writeElements cid g e (writeUnit c)
  else if blockSink c && 32 ≤ e.raw.length then s.convertBlock cid g e
  else s.fetchElements cid g e

/-! ### One beat of a transfer (R226, R227) -/

/-- The pattern bytes of `xfill` from byte i. -/
def fillBytes (p : Word) (i : Nat) : Nat → List Byte
  | 0 => []
  | n + 1 => p.extractLsb' (8 * (i % 8)) 8 :: fillBytes p (i + 1) n

/-- Bytes of a transfer's next access: an aligned 8-byte unit where source and sink lie on 8-byte boundaries, else a byte
(R226, R319). -/
def pieceLen (cmd : EngCmd) (src dst : Nat) (n : Nat) : Nat :=
  if (cmd = .fill ∨ src % 8 = 0) ∧ dst % 8 = 0 ∧ 8 ≤ n then 8 else min 1 n

/-- Bytes of the beat at byte `idx` of a transfer: up to the next 32-byte boundary of the source, of the sink for a fill, so that no
aligned unit of 8 bytes lies in two (R226, R319; log entry 97). -/
def Engine.beatLen (e : Engine) : Nat :=
  min (32 - ((if e.cmd = .fill then e.desc[1] else e.desc[0]).toNat + e.idx) % 32)
    ((if e.cmd = .splice then xferLen e.desc * 2 ^ 18 else xferLen e.desc) - e.idx)

/-- Bytes of a transfer counted as moved; the last end the command, which counts as one round (R225, R226; DESIGN CHOICE, log entry
103). -/
def Engine.moved (e : Engine) (n : Nat) : Engine :=
  let e1 := { e with idx := e.idx + n, elems := e.elems + n, st := .running }
  if (if e.cmd = .splice then xferLen e.desc * 2 ^ 18 else xferLen e.desc) ≤ e1.idx then
    { e1 with roundsRun := 1, ending := some (e.ending.getD (0, 0)) }
  else e1

/-- The next access of a copy or fill: the reads of a whole beat come before its writes, and each side of a beat has translated
whole before a byte of it is read or written (R226, R300). -/
def State.transferPiece (s : State) (cid g : Nat) (e : Engine) : State :=
  let d := e.desc
  if e.got.isEmpty then
    let n := e.beatLen
    let at_ := e.idx + e.raw.length
    if e.cmd = .fill then s.modEngine cid g fun x => { x with got := (fillBytes d[0] e.idx n).map BitVec.toNat, st := .running }
    else
      let k := pieceLen e.cmd (d[0].toNat + at_) (d[1].toNat + at_) (n - e.raw.length)
      match s.places cid e (xctlSkind d[3]) ((d[0].toNat : Int) + at_) n false with
      | .error b => s.blocked cid g false b
      | .ok runs => match s.piecePort cid (runsTake runs k) with
        | some b => s.blocked cid g false b
        | none =>
          let raw := e.raw ++ (s.readRuns (runsTake runs k)).map BitVec.toNat
          (s.countTrips cid e runs true).modEngine cid g fun y =>
            if raw.length < n then { y with raw := raw, runs := runsDrop runs k, st := .running }
            else { y with raw := [], runs := [], got := raw, st := .running }
  else
    let k := pieceLen e.cmd (d[0].toNat + e.idx) (d[1].toNat + e.idx) e.got.length
    match s.places cid e (xctlDkind d[3]) ((d[1].toNat : Int) + e.idx) e.got.length true with
    | .error b => s.blocked cid g true b
    | .ok runs => match s.piecePort cid (runsTake runs k) with
      | some b => s.blocked cid g true b
      | none => ((s.countTrips cid e runs false).writeRuns cid g (runsTake runs k)
          ((e.got.take k).map (BitVec.ofNat 8))).modEngine cid g fun x =>
          ({ x with got := x.got.drop k, runs := runsDrop runs k } : Engine).moved k

/-- Is a splice the one that an engine still copies? -/
def Splice.copies (p : Splice) (g : Nat) : Bool := p.eng == BitVec.ofNat 2 g && !p.complete && !p.aborted

/-- One beat of a splice: read at the old piece under the comparator, and sent to the new frame behind the writes that the
old port has forwarded before it (R193, R227). -/
def State.spliceBeat (s : State) (cid g : Nat) (e : Engine) : State :=
  let a := dramAddr cid (e.desc[0].toNat + e.idx)
  let n := e.beatLen
  match byPages (s.portRun cid) a n with
  | .error b => s.blocked cid g false b
  | .ok _ =>
    ((s.forwardEngine cid g a (e.desc[1].toNat + e.idx) (s.readBytes a n)).modCore cid fun k => { k with
      splices := k.splices.map fun p =>
        if p.copies g then { p with copied := e.idx + n } else p }).modEngine cid g
      fun x => x.moved n

/-! ## The engine's events -/

/-- Is an engine inside an element, which it finishes without reading another: an access in pieces begun, elements read that stand
ready to be written, an EFM value or a beat begun (R174)? -/
def Engine.midway (e : Engine) : Bool :=
  !e.part.isEmpty || !e.runs.isEmpty ||
    if e.cmd == .stream && ctrlSfmt e.ctrl != 0x18 then !e.got.isEmpty && decide (writeUnit e.ctrl ≤ e.got.length)
    else !e.raw.isEmpty || !e.got.isEmpty

/-- Does the region of an engine's holder let it go on: running, halting with an element or token begun, or halted inside an
element (R174, R230)? -/
def State.engineRuns (s : State) (cid : Nat) (e : Engine) : Bool :=
  match s.graph? (s.engineGraph cid e) with
  | some g => g.st.turnsRun || (g.st == .halting && (e.begun || !e.srcLanes.isEmpty)) || (g.st == .halted && e.midway)
  | none => false

/-- The scope of a command's flags. -/
def Engine.scope (e : Engine) : Scope :=
  scopeCode (if e.cmd = .stream then ctrlScope e.ctrl else xctlScope e.xctl)

/-- Are the writes that ACQ waits for visible (R228)? -/
def State.acquired (s : State) (cid : Nat) (e : Engine) : Bool := e.acq.all fun id => !s.invisible e.scope cid id

/-- May an engine make an access now: its command is in progress within a round, waits for no translation, and its region
and ACQ let it? -/
def State.engineGoes (s : State) (cid : Nat) (e : Engine) : Bool :=
  e.st.busy && e.st != .waitXlate && e.st != .halted && !e.boundary && e.waitMiss.isNone && s.engineRuns cid e && s.acquired cid e

/-- R215, R226, R227: an engine makes the next access of its command: it reads and converts, or writes, or it waits. Once its
command is ending, it only carries on what it has read (R222). -/
def execEngineElement (cid g : Nat) (s : State) : Answer :=
  let e := s.engineAt cid g
  if !s.engineGoes cid e || (e.ending.isSome && !e.begun) then .next s
  else match e.cmd with
    | .stream =>
      if e.ending.isSome && e.part.isEmpty && (ctrlSfmt e.ctrl != 0x18 || (e.raw.isEmpty && e.got.isEmpty)) then .next (s.drainStep cid g e)
      else .next (s.streamElement cid g e)
    | .splice => .next (s.spliceBeat cid g e)
    | .copy => .next (s.transferPiece cid g e)
    | .fill => .next (s.transferPiece cid g e)

/-! ### Rounds (R217, R221) -/

/-- Least and greatest element offset of a round, along one side. -/
def recRange (r : Vector Word 9) (sink : Bool) : Int × Int :=
  (List.range 4).foldl (fun acc j =>
    let x := (((recExt r j : Nat) : Int) - 1) * recStride r sink j
    (acc.1 + min 0 x, acc.2 + max 0 x)) (0, 0)

/-- KIND 5 for a range of bytes outside the scratchpad or the column (R221). -/
def State.rangeStop (s : State) (cid kind : Nat) (lo hi : Int) : Option (BitVec 4 × Word) :=
  let k := s.core cid
  let lim : Int × Int := if kind = 0 then (k.scratchLo, k.scratchHi) else (0, 2 ^ 26)
  if (kind = 0 ∨ kind = 2) ∧ (lo < lim.1 ∨ lim.2 < hi) then
    some (5, BitVec.ofInt 64 (if lo < lim.1 then lo else max lim.2 lo))
  else none

/-- The range check of one side of a record. -/
def State.sideStop (s : State) (cid : Nat) (r : Vector Word 9) (sink : Bool) : Option (BitVec 4 × Word) :=
  let c := r[2]
  let b := (fmtOf (if sink then ctrlDfmt c else ctrlSfmt c)).bits
  let base : Int := (if sink then r[1] else r[0]).toNat * 8
  let x := recRange r sink
  if b = 0 then none
  else s.rangeStop cid (if sink then ctrlDkind c else ctrlSkind c) ((base + x.1 * b) / 8) ((base + (x.2 + 1) * b + 7) / 8)

/-- The range check of the scale array. -/
def State.scaleStop (s : State) (cid : Nat) (r : Vector Word 9) : Option (BitVec 4 × Word) :=
  let c := r[2]
  let n := recTotal r / blockLen c
  let base : Int := r[8].toNat
  if blockSource c then
    s.rangeStop cid (ctrlSkind c) base (base + (if isMx (ctrlSfmt c) then n else if ctrlZp c then 3 * n else 2 * n))
  else if blockSink c then s.rangeStop cid (ctrlDkind c) base (base + n)
  else none

/-- KIND 4 for a virtual base that is not a multiple of its element (R221): SBASE or DBASE, not XBASE (log entry 92). -/
def alignStop (kind : Nat) (f : BitVec 5) (base : Word) : Option (BitVec 4 × Word) :=
  let w := (fmtOf f).bits / 8
  if kind = 3 ∧ 0 < w ∧ base.toNat % w ≠ 0 then some (4, base) else none

/-- The checks at the start of a round, or of a transfer (R221, R226); a splice whose DST lies in a core that is not present ends
with KIND 2 (log entry 93). -/
def State.roundStop (s : State) (cid : Nat) (e : Engine) : Option (BitVec 4 × Word) :=
  match e.cmd with
  | .stream =>
    let r := e.record
    (alignStop (ctrlSkind r[2]) (ctrlSfmt r[2]) r[0]).orElse fun _ =>
      (alignStop (ctrlDkind r[2]) (ctrlDfmt r[2]) r[1]).orElse fun _ =>
        (s.sideStop cid r false).orElse fun _ => (s.sideStop cid r true).orElse fun _ => s.scaleStop cid r
  | .splice => if s.present (addrCore e.desc[1].toNat) then none else some (2, e.desc[1])
  | cmd =>
    let d := e.desc
    let n : Int := xferLen d
    let dst : Int := d[1].toNat
    ((if cmd = .copy then s.rangeStop cid (xctlSkind d[3]) (d[0].toNat : Int) ((d[0].toNat : Int) + n) else none).orElse fun _ =>
      s.rangeStop cid (xctlDkind d[3]) dst (dst + n))

/-- The round begins, or its bases end the command (R221). -/
def State.beginRound (s : State) (cid g : Nat) : State :=
  match s.roundStop cid (s.engineAt cid g) with
  | some x => s.modEngine cid g fun e => { e with boundary := false, ending := some x, st := .running }
  | none => s.modEngine cid g fun e => { e with boundary := false, st := .running, idx := 0, sOff := 0, dOff := 0 }

/-- The parameter token before a round: taken, waited for, or a marker that ends the command (R217). -/
def State.takeParameter (s : State) (cid g : Nat) : State :=
  let e := s.engineAt cid g
  match s.enginePort cid e true (ctrlPport e.ctrl) with
  | none => s.waitOnPort cid g none
  | some (i, ch) =>
    match ch.queue with
    | [] => s.waitOnPort cid g (some i)
    | t :: _ =>
      if t.code = 5 then s.modEngine cid g fun e => { e with ending := some (0, 0), st := .running }
      else
        let x : Word := t.payload.setWidth 64
        let s1 := s.modChan i Channel.pop
        let s2 := if parmOk x then s1.modEngine cid g fun e => { e with record := parmApply e.record x }
          else s1.count cid 0x035 (some (e.holder.getD 0, s.engineGraph cid e))
        s2.beginRound cid g

/-- R217: between two rounds the pending value, the parameter token and the checks of the bases, in this order; before
the first round the checks alone. A paused engine goes on once the marker has left the head (R216). -/
def execEngineRoundBoundary (cid g : Nat) (s : State) : Answer :=
  let e := s.engineAt cid g
  let n := (s.ctxAt cid (e.holder.getD 0)).invocations
  if !e.st.busy || e.st == .halted || !e.boundary || e.ending.isSome || !s.engineRuns cid e || !s.acquired cid e
      || (e.st == .paused && e.pausedAt == n) then .next s
  else if e.roundsRun = 0 then .next (s.beginRound cid g)
  else
    let s1 := match e.parm with
      | some x => s.modEngine cid g fun e => { e with record := parmApply e.record x, parm := none }
      | none => s
    .next (if ctrlParm e.ctrl then s1.takeParameter cid g else s1.beginRound cid g)

/-! ### The end of a command (R225) -/

/-- Has every write forwarded from a splice's port landed (R227)? -/
def State.splicesLanded (s : State) (cid : Nat) : Bool :=
  !s.net.any fun m => m.via == some cid && match m.body with
    | .forward .. => true
    | _ => false

/-- A splice whose command ends: complete, or aborted where it ends early (R227, R306). -/
def Splice.ends (p : Splice) (g : Nat) (kind : BitVec 4) : Splice :=
  if p.copies g then (if kind = 0 then { p with complete := true } else { p with aborted := true }) else p

/-- The splice of an engine's command ends. -/
def State.endSplice (s : State) (cid g : Nat) (kind : BitVec 4) : State :=
  if (s.engineAt cid g).cmd = .splice then s.modCore cid fun k => { k with splices := k.splices.map fun p => p.ends g kind }
  else s

/-- R225: the command ends once what is begun is out: REL is waited for, or that the beats of a splice are accepted (R228), the registers are filled, the completion
token is sent, and the engine is open. -/
def execEngineCommandEnd (cid g : Nat) (s : State) : Answer :=
  let e := s.engineAt cid g
  match e.ending with
  | none => .next s
  | some (kind, addr) =>
    let rel := if e.cmd = .stream then ctrlRel e.ctrl else xctlRel e.xctl
    if e.st == .halted || e.begun || !s.engineRuns cid e || (rel && e.writes.any fun id => s.invisible e.scope cid id)
        || (e.cmd = .splice && if kind = 0 then !s.splicesLanded cid else e.writes.any s.inFlight) then .next s
    else
      let word := e.status g 1 kind
      let h := e.holder.getD 0
      let s2 := (s.endSplice cid g kind).modEngine cid g fun e => { e with kind, dreg := 0 }
      let s3 := if e.dreg = 0 then s2
        else s2.modCtxAt cid h fun c => (c.writeS (e.dreg + 1) addr).writeS e.dreg word
      let opened := fun (st : State) => st.modEngine cid g fun e =>
        { e with st := .opened, ending := none, boundary := false, parm := none, waitMiss := none, acq := [], writes := []
                 srcLanes := [], runs := [], part := [] }
      if (if e.cmd = .stream then ctrlCtok e.ctrl else xctlCtok e.xctl) then
        match s3.enginePort cid e false (if e.cmd = .stream then ctrlCport e.ctrl else xctlCport e.xctl) with
        | none => .next (opened s3)
        | some (i, ch) =>
          if ch.free = 0 then .next (s3.waitOnPort cid g (some i))
          else .next (opened (s3.engineSend i (wordToken word 0) e.writes))
      else .next (opened s3)

end Sys2Proof.Machine
end

