-- ==== Sys2Proof/Machine/Control.lean ====
section
/-!
DEFINITION. Sys2Proof/Machine/Control.lean: control flow, majors 0x20 to 0x25 (R50 to R57, R67), the return from the
trap handler (R70), and what ends an invocation (R162, R175).
-/

namespace Sys2Proof.Machine

/-- Does the running word stand last in its block? -/
def State.atLast (s : State) : Bool := s.ctx.word.toNat + 1 == wordCount s.runHeader

/-- Control to a word of the running block. -/
def State.goto (s : State) (t : BitVec 6) (f : Context → Context) : State :=
  s.setCtx { f s.ctx with chain := .empty, word := t.setWidth 7 }

/-- A branch that is not taken: the next word, or the fall-through trap at the last word (R26, R41), with FADDR the index of
that word (log entry 69). -/
def State.notTaken (s : State) (f : Context → Context) : State :=
  if s.atLast then s.trap 0x01 0 0x08 (s.ctx.word.setWidth 64) else s.retire f

/-- The conditions of `b.cond` (R30). -/
def condHolds (c : BitVec 3) (x y : Word) : Bool :=
  match c.toNat with
  | 0 => x == y
  | 1 => x != y
  | 2 => x.slt y
  | 3 => !x.slt y
  | 4 => x.ult y
  | 5 => !x.ult y
  | 6 => x &&& y != 0
  | _ => x &&& y == 0

/-- R50: branch if the condition holds between s[a] and s[b]; the prediction changes only timing. -/
def execBCond (a b : Reg) (c : BitVec 3) (t : BitVec 6) (w _p : Bool) (s : State) : Answer :=
  .next (s.onSources w [a, b] (if condHolds c (s.ctx.readS a) (s.ctx.readS b) then s.goto t id else s.notTaken id))

/-- R51: s[a] ← s[a] - 1, and branch if the new value is not 0. -/
def execLoop (a : Reg) (t : BitVec 6) (w _p : Bool) (s : State) : Answer :=
  .next (s.onSources w [a]
    (if s.ctx.readS a - 1 ≠ 0 then s.goto t fun c => c.writeS a (c.readS a - 1)
     else s.notTaken fun c => c.writeS a (c.readS a - 1)))

/-- R52: always branch. -/
def execJmp (t : BitVec 6) (_p : Bool) (s : State) : Answer := .next (s.goto t id)

/-- Control to word 0 of the block of a handler number, or the trap of R55. -/
def State.toHandler (s : State) (h : Word) (f : Context → Context) : State :=
  if h.toNat < 65536 ∧ (s.ctx.blockAt (h.setWidth 16)).isSome then (s.setCtx (f s.ctx)).enter (h.setWidth 16) 0
  else s.trap 0x01 0 0x0C (h <<< 7)

/-- R53: control to word 0 of the block whose number is the immediate. -/
def execNext (h : BitVec 15) (s : State) : Answer := .next (s.toHandler (s.ctx.chain.immU h) id)

/-- The link word (R54). -/
def linkWord (c : Context) : Word := c.handler.setWidth 64 <<< 7 ||| (c.word + 1).setWidth 64

/-- R54: as `next`, with the link word in s[d]. -/
def execCall (d : Reg) (h : BitVec 15) (s : State) : Answer :=
  .next (s.toHandler (s.ctx.chain.immU h) fun c => c.writeS d (linkWord c))

/-- The block word that a handler number and a word index name, where it exists (R55, R70). -/
def State.target? (s : State) (h : BitVec 16) (w : Nat) : Bool :=
  match s.header s.focus s.ctx h with
  | some hd => decide (w < wordCount hd)
  | none => false

/-- R55: control to the word and block that the link word in s[a] names. -/
def execRet (a : Reg) (w : Bool) (s : State) : Answer :=
  let x := s.ctx.readS a
  let h : BitVec 16 := x.extractLsb' 7 16
  let i := (x.extractLsb' 0 7).toNat
  .next (s.onSources w [a]
    (if x.toNat < 2 ^ 23 ∧ s.target? h i then s.enter h i else s.trap 0x01 0 0x0C x))

/-- R70: return from the trap handler to EPC.HANDLER and EPC.WORD; INTRAP is clear before the header of the target is checked
(R25; log entry 88). -/
def execTret (s : State) : Answer :=
  let c := s.ctx
  let h : BitVec 16 := c.epc.extractLsb' 16 16
  let i := (c.epc.extractLsb' 0 6).toNat
  .next (if !c.inTrap then s.trap 0x01 0 0x0D 0
    else if s.target? h i then (s.setCtx { c with status := c.status &&& ~~~1 }).enter h i
    else s.trap 0x01 0 0x0C (BitVec.ofNat 64 (h.toNat * 128 + i)))

/-- R67: nothing. -/
def execNop (s : State) : Answer := .next (s.retire id)

/-- R67: the software trap. -/
def execTrap (n : BitVec 10) (s : State) : Answer := .next (s.trap 0x0F 0 0 (n.setWidth 64))

/-- R56: the turn ends; the task goes on at the next word when selected, with its firing and counts. -/
def execYield (s : State) : Answer := .next (s.retire id).endTurn

/-! ## The end of an invocation (R162, R171, R175) -/

/-- Is a channel static: its source a port or a host window (R79, R203, R281)? -/
def Channel.isStatic (ch : Channel) : Bool :=
  match ch.src with
  | .port .. => true
  | .window .. => true
  | _ => false

/-- The static inputs of a context (R162). -/
def State.staticInputs (s : State) (c : Context) : List (BitVec 4 × Nat × Channel) :=
  (s.inputs_ c).filter fun x => x.2.2.isStatic

/-- Does an actor belong to no invocation (R183)? -/
def State.noInvocation (s : State) (c : Context) : Bool :=
  !(s.inputs_ c).isEmpty && (s.staticInputs c).isEmpty && (s.outputs_ c).isEmpty

/-- Is a context a sink actor (R175)? -/
def State.isSink (s : State) (c : Context) : Bool := !(s.staticInputs c).isEmpty && (s.outputs_ c).isEmpty

/-- The ended invocations of a graph: what every sink window and sink actor has reached; all that are open where
there is no sink (R175). -/
def State.endedCount (s : State) (g : Graph) : Nat :=
  let wins := (g.windows.filter fun w => w.sink).map fun w => w.markers
  let acts := (g.actors.filter fun p => s.isSink (s.ctxAt p.cid p.ctx)).map fun p => (s.ctxAt p.cid p.ctx).invocations
  (wins ++ acts).foldl min (match g.cap with
    | some k => min k g.launched
    | none => g.launched)

/-- The count of ended invocations brought up to date, and the state after the last one (R172, R175). A service actor of the region
then fires no more until a launch (R183), also where R184 has its requests served with any timing (DEDUCED; log entry 102). -/
def State.settle (s : State) (num : BitVec 16) : State :=
  s.modGraph num fun g =>
    let n := s.endedCount g
    { g with ended := n, st := if g.st == .running && g.edit.isNone && n == g.launched then .loaded else g.st }

/-- Steps 2 and 3 of the end-of-invocation step (R162): one marker on every bound output, the marker at the head of
every static input removed with its credit. -/
def State.endSteps (s : State) (cid : Nat) (n : BitVec 4) : State :=
  let c := s.ctxAt cid n
  let pend := s.writesOf cid n
  let s1 := (s.outputs_ c).foldl (fun st x => st.send x.2.1 ⟨0, 0, 5⟩ pend) s
  let s2 := (s.staticInputs c).foldl (fun st x => if x.2.2.marked then st.modChan x.2.1 Channel.pop else st) s1
  (s2.modCtxAt cid n fun c => { c with invocations := c.invocations + 1, sourceFired := false }).settle c.graph

/-! ## done (R57) -/

/-- The tokens a firing leaves unread on one input are discarded and counted. -/
def State.discardRest (s : State) (x : BitVec 4 × Nat × Channel) : State :=
  let k := (getV s.ctx.consRem x.1).toNat
  if x.2.2.deng.isSome || k == 0 then s
  else (s.modChan x.2.1 fun ch => { ch with queue := ch.queue.drop k, owed := ch.owed + min k ch.queue.length }).countMe 0x030 k

/-- The tokens a firing has not sent on one output are sent as padding and counted. -/
def State.padRest (s : State) (x : BitVec 4 × Nat × Channel) : State :=
  let k := (getV s.ctx.prodRem x.1).toNat
  if x.2.2.seng.isSome || k == 0 then s
  else
    let pend := s.writesOf s.focus s.who
    (s.modChan x.2.1 fun ch => { ch with held := ch.held ++ List.replicate k ⟨⟨0, 0, 0⟩, pend, none⟩ }).countMe 0x031 k

/-- The holds whose tag this firing consumed and that no reply has ended: each ends when the writes of the firing are
accepted; one whose tag asked for a reply counts as a dropped call (R90, R314). -/
def State.dropHolds (s : State) : State :=
  let m := s.takenHolds s.focus
  let mine := fun (h : Hold) => h.ctx == s.who && h.ends.isNone
  let n := ((s.cur.holds.take m).filter fun h => mine h && !h.tag.getLsbD 47).length
  let pend := (s.writesOf s.focus s.who).filter fun id => s.ctx.firedAt ≤ id
  (s.modCur fun k => { k with
    holds := (k.holds.take m).map (fun h =>
      if mine h then { h with ends := some (false, pend), mine := (s.ctx.firedAt, s.nextId) } else h) ++ k.holds.drop m
    }).countMe 0x05B n

/-- The output ports of a context that are engine ends, for which an end firing reserves nothing (R160, R211). -/
def State.engineOutputs (s : State) (c : Context) : List (BitVec 4 × Nat × Channel) :=
  (s.outputs_ c).filter fun x => x.2.2.seng.isSome

/-- Has one of them no entry free for the marker? -/
def State.engineOutputsFull (s : State) (c : Context) : Bool := (s.engineOutputs c).any fun x => x.2.2.free == 0

/-- R57: the task and its firing end; what it left of its counts is discarded and padded. The `done` of an end firing emits
the markers of R162; on an engine end the marker takes its entry now, and waits for one (R158, R211; log entry 26). -/
def execDone (s : State) : Answer :=
  let c := s.ctx
  let s1 := (s.inputs_ c).foldl State.discardRest s
  let s2 := (s.outputs_ c).foldl State.padRest s1
  let s3 := (s2.modCtx fun c => { c with
      status := c.status &&& ~~~1
      firing := false
      endFiring := false
      consRem := Vector.replicate 16 0
      prodRem := Vector.replicate 16 0
      chain := .empty }).dropHolds.endTurn
  .next (if !c.endFiring then s3
    else if s.engineOutputsFull c then s
    else ((s.engineOutputs c).foldl (fun st x => st.modChan x.2.1 fun ch => { ch with free := ch.free - 1 }) s3).endSteps s.focus
      s.who)

end Sys2Proof.Machine
end

