-- ==== Sys2Proof/Machine/Fabric.lean ====
section
/-!
DEFINITION. Sys2Proof/Machine/Fabric.lean: tokens, credits and the rate limiter (R158, R194, R195, R262, R312),
multicast (R198 to R200), barriers (R202 to R205), link retries and failures (R206, R207) and router failures (R247).
-/

namespace Sys2Proof.Machine

/-! ## Tokens and credits -/

/-- The cores at the two ends of a channel; an end that is no port lies at the other end's core. -/
def Channel.home (ch : Channel) : Nat := (ch.src.core?).getD ((ch.dst.core?).getD 0)
def Channel.goal (ch : Channel) : Nat := (ch.dst.core?).getD ((ch.src.core?).getD 0)

/-- The plane of a channel. -/
def Channel.plane (ch : Channel) : Plane := if ch.vec then .vector else .word

/-- The way of a channel's tokens, or of its credits: from core, to core. -/
def Channel.way (ch : Channel) (credit : Bool) : Nat × Nat := if credit then (ch.goal, ch.home) else (ch.home, ch.goal)

/-- The rind port that a channel between two wafers is bound to (R176, R278). -/
def Channel.rindPort (ch : Channel) : Option Nat := ch.rind.map fun x => x.1

/-- The way on the mesh of a channel's tokens, or of its credits: those of a vector channel return on its own circuit (R194,
R209). -/
def Channel.track (ch : Channel) (credit : Bool) : Nat × Nat := ch.way (credit && !ch.vec)

/-- The links of this wafer that a channel's tokens cross, or its credits. -/
def State.chanLinks (s : State) (ch : Channel) (credit : Bool) : List Link :=
  s.homeLinks ch.rindPort ch.plane (ch.track credit).1 (ch.track credit).2

/-- Is the way of a channel's tokens or credits in use (R207, R247)? -/
def State.wayOpen (s : State) (ch : Channel) (credit : Bool) : Bool :=
  s.linkedVia ch.rindPort ch.plane (ch.track credit).1 (ch.track credit).2

/-- A token or credit packet of a channel has left its core: the detour hops of a packet (R245). -/
def State.chanDetours (s : State) (ch : Channel) (credit : Bool) : State :=
  if ch.vec then s else s.countDetoursVia ch.rindPort (ch.way credit).1 (ch.way credit).2

/-- A token or credit of a channel has crossed the links of its way: their runs of retries end (R207). -/
def State.chanCrossed (s : State) (ch : Channel) (credit : Bool) : State :=
  s.crossedVia ch.rindPort ch.plane (ch.track credit).1 (ch.track credit).2

/-- Do two channels' tokens or credits keep one order: on the word plane those of one virtual channel from one core to one
cluster, on the vector plane the tokens of one circuit (R193, R196)? -/
def sameLane (c d : Channel) (cr dr : Bool) : Bool :=
  if c.vec || d.vec then
    c.vec && d.vec && !cr && !dr && c.graph == d.graph && c.circuit.isSome
      && (c.circuit.map fun x => x.1) == (d.circuit.map fun x => x.1)
  else c.vc == d.vc && (c.way cr).1 == (d.way dr).1 && (c.way cr).2 / 16 == (d.way dr).2 / 16

/-- Is a token or credit of a channel the oldest of its lane? A credit passes a token that the limiter holds at its cluster switch
(R262). -/
def State.firstOfLane (s : State) (n : Nat) (ch : Channel) (credit : Bool) : Bool :=
  match s.beats.find? fun b => b == (n, credit) || (match s.chans[b.1]? with
      | some d => sameLane ch d credit b.2 && !(credit && !b.2 && d.limited)
      | none => false) with
  | some b => b == (n, credit)
  | none => true

/-- A token or credit enters the fabric, or leaves it; a vector channel's credits keep no order with others. -/
def State.enterLane (s : State) (n : Nat) (credit : Bool) : State := { s with beats := s.beats ++ [(n, credit)] }
def State.leaveLane (s : State) (n : Nat) (credit : Bool) : State := { s with beats := s.beats.erase (n, credit) }

/-- R312: the oldest token held at a channel's source enters the fabric once the writes before it are visible in the
channel's scope, and a token of the vat once it is pushed (R146, R147). -/
def execTokenInjection (ch : Nat) (s : State) : Answer :=
  match s.chans[ch]? with
  | none => .next s
  | some c =>
    match c.held with
    | [] => .next s
    | h :: rest =>
      if h.pend.any (fun id => s.invisible c.scope c.home id) || !h.pushed (s.core c.home).cycle then .next s
      else
        .next (((s.modChan ch fun c => { c with held := rest, flight := c.flight ++ [h.tok] }).enterLane ch false).chanDetours c false)

/-- A word for an entry that is not bound: discarded, counted and reported with its entry (R195). -/
def State.droppedWord (s : State) (cid entry : Nat) : State :=
  (s.count cid 0x090).fabricError 0x01 (BitVec.ofNat 8 entry) cid 0xFFFF 0

/-- Does FRATE hold back one more token (R262)? -/
def Field.full (f : Field) : Bool := f.frate.getLsbD 28 && (f.frate.extractLsb' 0 16).toNat ≤ f.admitted

/-- A token or credit of the channel that an engine in state 3 waits for ends its wait; so it does in an engine halted there, for the
resume (R210, R230). -/
def Engine.woken (e : Engine) (ch : Nat) : Engine :=
  if e.waits = some ch then
    { e with
      waits := none
      st := if e.st == .waitPort then .running else e.st
      before := if e.st == .halted && e.before == .waitPort then .running else e.before }
  else e

/-- What has come on a channel wakes the engine at the end given. -/
def State.wakes (s : State) (end_ : ChanEnd) (g : Option Nat) (ch : Nat) : State :=
  match end_.core?, g with
  | some cid, some g => s.modEngine cid g fun e => e.woken ch
  | _, _ => s

/-- R207, R247: the oldest token or credit packet of a channel comes to a link or router that has failed: it is discarded and counted
where it was going (log entry 10). -/
def State.strandedBeat (s : State) (n : Nat) (ch : Channel) (credit : Bool) : State :=
  ((s.modChan n fun c => if credit then { c with credits := c.credits.drop 1 } else { c with flight := c.flight.drop 1 }).leaveLane n
    credit).count (ch.way credit).2 0x090

/-- R158: the oldest token in flight enters its queue; one that is not bound is dropped (R195), and one that the
field's limiter holds waits, counted once (R262). -/
def execTokenArrival (ch : Nat) (s : State) : Answer :=
  match s.chans[ch]? with
  | none => .next s
  | some c =>
    match c.flight with
    | [] => .next s
    | t :: rest =>
      let f := c.goal / 1024
      if c.past = 0 && !s.wayOpen c false then .next (s.strandedBeat ch c false)
      else if !s.firstOfLane ch c false then .next s
      else if !c.bound then
        .next ((((s.modChan ch fun c => { c with flight := rest, past := c.past - 1 }).leaveLane ch false).droppedWord c.goal
          c.dent).chanCrossed c false)
      else if c.isStatic && (c.dst.core?).isSome && (s.field f).full then
        .next (if c.limited then s
          else ((s.modChan ch fun c => { c with limited := true }).countField f 0x0A2).chanCrossed c false)
      else
        let s1 := if c.isStatic && (c.dst.core?).isSome && (s.field f).frate.getLsbD 28 then
            s.modField f fun x => { x with admitted := x.admitted + 1 } else s
        .next ((((s1.modChan ch fun c => { c with
          flight := rest, past := c.past - 1, limited := false, queue := c.queue ++ [t] }).leaveLane ch
          false).wakes c.dst c.deng ch).chanCrossed c false)

/-- Credits that one packet carries: up to 255 on the word plane, one a cycle on a circuit (R194). -/
def Channel.packet (ch : Channel) : Nat := if ch.vec then min ch.owed 1 else min ch.owed 255

/-- Does a channel have a free-space counter: all but service bindings do (R79, R203)? -/
def Channel.counted (ch : Channel) : Bool :=
  match ch.src with
  | .port .. => true
  | .window .. => true
  | .barrier _ => true
  | _ => false

/-- R194: the credits a destination holds back leave for the source; a service binding returns none. -/
def execCreditReturn (ch : Nat) (s : State) : Answer :=
  match s.chans[ch]? with
  | none => .next s
  | some c =>
    if c.owed = 0 then .next s
    else if !c.counted then .next (s.modChan ch fun c => { c with owed := 0 })
    else
      let s1 := s.modChan ch fun c => { c with owed := c.owed - c.packet, credits := c.credits ++ [c.packet] }
      .next ((if c.vec then s1 else s1.enterLane ch true).chanDetours c true)

/-- R194: a credit packet raises the free-space counter; one for an output that is not bound is dropped (R195). -/
def execCreditArrival (ch : Nat) (s : State) : Answer :=
  match s.chans[ch]? with
  | none => .next s
  | some c =>
    match c.credits with
    | [] => .next s
    | n :: rest =>
      if c.creditsPast = 0 && !s.wayOpen c true then .next (s.strandedBeat ch c true)
      else if !c.vec && !s.firstOfLane ch c true then .next s
      else if c.bound then
        .next ((((s.modChan ch fun c => { c with
          credits := rest, creditsPast := c.creditsPast - 1, free := c.free + n }).leaveLane ch true).wakes c.src c.seng
          ch).chanCrossed c true)
      else
        .next ((((s.modChan ch fun c => { c with credits := rest, creditsPast := c.creditsPast - 1 }).leaveLane ch
          true).droppedWord c.home c.sent).chanCrossed c true)

/-- R262: a window of a field's limiter begins. -/
def execLimiterWindow (field : Nat) (s : State) : Answer := .next (s.modField field fun f => { f with admitted := 0 })

/-! ## Multicast (R91, R198, R200) -/

/-- One copy for a mesh port, with one hop less; at 0 it is discarded and counted (R198), and so is one that comes to a link or
router that has failed, as a dropped multicast (R207, R247; log entry 10). -/
def State.copyTo (s : State) (h : Nat) (p : McastPacket) (d : Dir) : State :=
  match neighbour p.x p.y d with
  | none => s
  | some (x, y) =>
    if s.failedLinks.contains ⟨p.x, p.y, d, .word⟩ || s.failedRouters.contains (y * 64 + x) then s.countHub h 0x094
    else if p.hops ≤ 1 then s.countHub h 0x093
    else { s with
      packets := s.packets ++ [{ p with id := s.nextId, x, y, from_ := some (dirOpposite d), hops := p.hops - 1 }]
      nextId := s.nextId + 1 }

/-- One copy for each member core of the cluster (R198). -/
def State.copyCores (s : State) (h : Nat) (e : BitVec 32) (p : McastPacket) : State :=
  ((List.range 16).filter fun i => e.getLsbD 16 && e.getLsbD i).foldl (fun st i =>
    { st with
      packets := st.packets ++ [{ p with id := st.nextId, member := some (h * 16 + i) }]
      nextId := st.nextId + 1 }) s

/-- The record of a copy's packet. -/
def State.mcastOf (s : State) (origin : Nat) : Option Mcast := s.mcasts.find? fun x => x.origin == origin

/-- A member has received its copy. -/
def State.mcastGot (s : State) (origin cid : Nat) : State :=
  { s with mcasts := s.mcasts.map fun x => if x.origin == origin then { x with got := x.got ++ [cid] } else x }

/-- A copy handled: it is gone; once none of its packet is left, members under the old and the new entries that a change of
the entries has passed over get theirs, and else the packet's record ends (R200). -/
def State.mcastSettle (s : State) (p : McastPacket) : State :=
  match s.mcastOf p.origin with
  | none => s
  | some r =>
    if s.packets.any fun x => x.origin == p.origin then s
    else
      let missed := if r.changed then
          (s.mcastMembers r.wafer r.group).filter fun c => r.old.contains c && !r.got.contains c
        else []
      if missed.isEmpty then { s with mcasts := s.mcasts.filter fun x => x.origin != p.origin }
      else missed.foldl (fun st c => { st with
        packets := st.packets ++ [{ p with id := st.nextId, member := some c }]
        nextId := st.nextId + 1 }) s

/-- A copy at a member core: one token in its `mcast.g` queue once an entry is free; without that binding it is
discarded, counted and reported (R91). A second copy to one member, which a change of the entries under way can cause, is
discarded (R200). -/
def State.mcastDeliver (s : State) (p : McastPacket) (cid : Nat) : State :=
  let s1 : State := { s with packets := s.packets.filter fun x => x.id != p.id }
  let again := match s.mcastOf p.origin with
    | some r => r.changed && r.got.contains cid
    | none => false
  if again then s1.mcastSettle p
  else match s.serviceChan (.mcast cid p.group) with
  | none => (((s1.countHub (cid / 16) 0x094).fabricError 0x04 0 cid 0xFFFF 0).mcastGot p.origin cid).mcastSettle p
  | some (i, ch) =>
    if ch.queue.length < ch.depth then ((s1.enqueue i [wordToken p.payload 0]).mcastGot p.origin cid).mcastSettle p else s

/-- Is a copy the oldest of its sender and group at its place: a router and its side of arrival, or a member core (R193, R321)? -/
def State.mcastTurn (s : State) (p : McastPacket) : Bool :=
  match s.packets.find? fun x => x.sender == p.sender && x.group == p.group && x.x == p.x && x.y == p.y && x.from_ == p.from_
      && x.member == p.member with
  | some x => x.id == p.id
  | none => false

/-- A copy has crossed the link by which it has come to its router: that link's run of retries ends (R207). -/
def State.copyCrossed (s : State) (p : McastPacket) : State :=
  match p.from_.bind fun d => (neighbour p.x p.y d).map fun n => (⟨n.1, n.2, dirOpposite d, .word⟩ : Link) with
  | some l => { s with badLinks := s.badLinks.filter fun x => x.1 != l }
  | none => s

/-- R198: a router latches the entry of a packet's group at its head flit and sends the copies; without a valid entry it
drops and counts the packet, and so does a sender's router whose entry has no way out (R91). -/
def execMulticastReplication (packet : Nat) (s : State) : Answer :=
  match s.packets.find? fun p => p.id == packet with
  | none => .next s
  | some p =>
    if !s.mcastTurn p then .next s
    else match p.member with
    | some cid => .next (s.mcastDeliver p cid)
    | none =>
      let s1 : State := { s.copyCrossed p with packets := s.packets.filter fun x => x.id != packet }
      let h := s.routerKey (p.sender / 65536) p.x p.y
      let e := (assocGet (s.hub h).mcast p.group).getD 0
      let s2 := (mcastDirs e p.from_).foldl (fun st d => st.copyTo h p d) (s1.copyCores h e p)
      let stuck := p.from_.isNone && s2.packets.length = s1.packets.length
      .next ((if !e.getLsbD 21 || stuck then s1.countHub h 0x094 else s2).mcastSettle p)

/-! ## Barriers (R202 to R205) -/

/-- Has a member core arrived? -/
def State.arrived (s : State) (b : Barrier) (cid : Nat) : Bool := getV (s.core cid).arrive b.ident

/-- R204: the flags satisfy the barrier and every completion channel has an entry: the root sends the release. A new
episode waits for the release before it. -/
def execBarrierEpisodeComplete (bar : Nat) (s : State) : Answer :=
  match s.barriers[bar]? with
  | none => .next s
  | some b =>
    let runs := match s.graph? (BitVec.ofNat 16 b.graph) with
      | some g => g.st == .running
      | none => false
    let met := if b.all then b.members.all (s.arrived b) else b.members.any (s.arrived b)
    let room := b.done.all fun i => match s.chan? i with
      | some ch => 1 ≤ ch.free
      | none => true
    if b.bound && runs && met && room && b.releasing.isEmpty then
      let goals := b.done.filterMap fun i => (s.chan? i).bind fun ch => ch.dst.core?
      let s1 := b.done.foldl (fun st i => st.modChan i fun ch => { ch with free := ch.free - 1 }) s
      .next { s1 with barriers := s1.barriers.modify bar fun b =>
        { b with episode := b.episode + 1, releasing := (b.members ++ goals).eraseDups } }
    else .next s

/-- R204: the release reaches a core: its flag clears, and its done ports receive the episode number. -/
def execBarrierRelease (bar cid : Nat) (s : State) : Answer :=
  match s.barriers[bar]? with
  | none => .next s
  | some b =>
    if !b.releasing.contains cid then .next s
    else
      let s1 : State := { s with barriers := s.barriers.modify bar fun b => { b with releasing := b.releasing.filter (· != cid) } }
      let s2 := if b.members.contains cid then s1.modCore cid fun k => { k with arrive := setV k.arrive b.ident false } else s1
      .next (b.done.foldl (fun st i => match st.chan? i with
        | some ch => if ch.dst.core? == some cid then st.enqueue i [wordToken b.episode 0] else st
        | none => st) s2)

/-! ## Links and routers that fail (R206, R207, R247) -/

/-- The number of a mesh position. -/
def meshNo (x y : Nat) : Nat := y * 64 + x

/-- The logical core 0 of a router's cluster, for a report. -/
def State.coreAt (s : State) (w x y : Nat) : Nat := (w * 4096 + ((s.tablesOf w).clusterAt x y).getD 0) * 16

def planeCode : Plane → BitVec 8
  | .word => 0
  | .vector => 1
  | .control => 2

/-- The links of a way there and back. -/
def bothWays (r : List (Nat × Nat)) : List Link := linksOf .control r ++ linksOf .control r.reverse

/-- The link directions of a barrier's trees, with their wafers: on each wafer those of the routes to the router of the first
core there, arrivals and releases; the tree of this wafer and that of another are joined through a trained rind port of either,
where one is the root's (R202; log entry 79). -/
def State.treeLinks (s : State) (members goals : List Nat) : List (Nat × Link) :=
  match members with
  | [] => []
  | root :: _ =>
    let all := members ++ goals
    let head := fun (c : Nat) => (all.find? fun x => x / 65536 == c / 65536).getD c
    let w0 := root / 65536
    let wafers := ((all.map fun c => c / 65536).eraseDups).filter fun w => w != w0
    (all.flatMap (fun c =>
        if crossesMesh c (head c) then (bothWays (s.route c (head c))).map fun l => (c / 65536, l) else [])
      ++ wafers.flatMap fun w =>
        match if w0 = s.home then s.rindJoint none w else if w = s.home then (s.rindJoint none w0).map fun x => (x.2, x.1) else none with
        | none => []
        | some (here, there) =>
          ((bothWays (s.meshRoute w there (s.routerOf (head (w * 65536))))).map fun l => (w, l))
            ++ (bothWays (s.meshRoute w0 here (s.routerOf root))).map fun l => (w0, l)).eraseDups

/-- The cores of the done ports of a barrier in State. -/
def State.barrierGoals (s : State) (b : Barrier) : List Nat := b.done.filterMap fun i => (s.chan? i).bind fun ch => ch.dst.core?

/-- The links of this wafer that a barrier's tree uses. -/
def State.barrierLinks (s : State) (b : Barrier) : List Link :=
  ((s.treeLinks b.members (s.barrierGoals b)).filter fun x => x.1 == s.home).map fun x => x.2

/-- The virtual addresses of the next accesses of an engine's command. -/
def Engine.nextVirtual (e : Engine) : List Int :=
  let r := e.record
  let d := e.desc
  match e.cmd with
  | .stream =>
    (if ctrlSkind r[2] = 3 then [(unitOf r false e.idx 1).at_, efmBase e false + e.sOff] else [])
      ++ (if ctrlDkind r[2] = 3 then [(unitOf r true e.idx 1).at_, efmBase e true + e.dOff] else [])
      ++ (scalePlaces r e.idx).filterMap fun x => if x.1 = 3 then some x.2.1 else none
  | _ =>
    (if xctlSkind d[3] = 3 then [(d[0].toNat : Int) + e.idx] else [])
      ++ if xctlDkind d[3] = 3 then [(d[1].toNat : Int) + e.idx] else []

/-- The owners that an engine's accesses go to: of the access under way and of the next, as its core's TLB translates them. -/
def State.engineOwners (s : State) (cid : Nat) (e : Engine) : List Nat :=
  (e.runs.map fun r => addrCore r.1) ++ e.nextVirtual.filterMap fun v =>
    let va := (v % 2 ^ 64).toNat
    ((s.core cid).tlb.find? fun t => t.covers (s.engineGraph cid e) va).map fun t => addrCore (t.reach va)

/-- Do the ways between two cores, there and back, use a link of this wafer for which `hit` holds? -/
def State.tripOn (s : State) (hit : Link → Bool) (a b : Nat) : Bool :=
  (s.homeLinks none .word a b ++ s.homeLinks none .word b a).any hit

/-- The graphs whose engines and walks have a route that crosses such a link (R207, R247). -/
def State.accessesOn (s : State) (hit : Link → Bool) : List (BitVec 16) :=
  (s.cores.flatMap fun x => (x.2.engines.toList.filter fun e => e.st.busy && (s.engineOwners x.1 e).any (s.tripOn hit x.1)).map
      fun e => s.engineGraph x.1 e)
    ++ s.hubs.flatMap fun x => (x.2.walks.filter fun w => !w.ended && s.tripOn hit (16 * x.1) (addrCore w.node)).map fun w => w.asn

/-- The graphs with a route, circuit or tree that crosses a link for which `hit` holds (R207, R247); `tree` says it of a
group's tree. -/
def State.graphsOn (s : State) (hit : Link → Bool) (tree : Nat → Bool) : List (BitVec 16) :=
  ((s.chans.filter fun ch => ch.bound && (s.chanLinks ch false ++ s.chanLinks ch true).any hit).map fun ch => BitVec.ofNat 16 ch.graph)
    ++ ((s.barriers.filter fun b => b.bound && (s.barrierLinks b).any hit).map fun b => BitVec.ofNat 16 b.graph)
    ++ ((s.chans.filter fun ch => ch.bound && match ch.src with
      | .mcast _ g => tree g
      | _ => false).map fun ch => BitVec.ofNat 16 ch.graph)
    ++ ((s.graphs.filter fun g => g.groups.any fun x => tree x.1).map fun g => g.num)
    ++ ((s.net.filter fun m => s.onMesh m && (s.homeLinks none .word m.from_ m.dst).any hit).map fun m => m.graph)
    ++ s.accessesOn hit

/-- Does the release of a barrier to one of its cores cross a link for which `hit` holds: a branch of its tree (R202)? -/
def State.releaseOn (s : State) (hit : Link → Bool) (b : Barrier) (c : Nat) : Bool :=
  match b.members with
  | [] => false
  | root :: _ =>
    let head := ((b.members ++ s.barrierGoals b).find? fun x => x / 65536 == c / 65536).getD c
    (s.treeLinks [root, head, c] []).any fun x => x.1 == s.home && hit x.2

/-- The time of a failure, which tells its free values from those of another. -/
def State.failTime (s : State) : Nat := s.tick + 2 ^ 64 * (s.failedLinks.length + s.failedRouters.length)

/-- A message whose way fails: it is lost, or is past the failure, or does not go on (R207, R247; log entry 10). -/
def State.meetMsg (s : State) (m : Msg) : State :=
  match Config.fate s.failTime m.id % 3 with
  | 0 => s.loseMsg m
  | 1 => s.modMsg m.id fun x => { x with past := true }
  | _ => s

/-- Of `n` items in flight on a way that fails, oldest first: those past the failure, and those lost after them (log entry 10). -/
def splitFlight (tick item n : Nat) : Nat × Nat :=
  let p := Config.fate tick (2 * item) % (n + 1)
  (p, Config.fate tick (2 * item + 1) % (n - p + 1))

/-- A list without `k` elements after the first `p` that equal `x`. -/
def cutAfter (x : Nat × Bool) : Nat → Nat → List (Nat × Bool) → List (Nat × Bool)
  | _, _, [] => []
  | p, k, y :: rest =>
    if y != x then y :: cutAfter x p k rest
    else match p with
      | p + 1 => y :: cutAfter x p k rest
      | 0 => match k with
        | 0 => y :: rest
        | k + 1 => cutAfter x 0 k rest

/-- The tokens or credits of channel `n` on a way that fails: the oldest are past it, the next are lost and counted, the others do
not go on (R207, R247; log entry 10). -/
def State.meetChan (s : State) (n : Nat) (credit : Bool) : State :=
  match s.chans[n]? with
  | none => s
  | some ch =>
    let len := if credit then ch.credits.length else ch.flight.length
    let (p, k) := splitFlight s.failTime (4 * (s.nextId + 2 * n + credit.toNat)) len
    let was := if s.wayOpen ch credit then p else min p (if credit then ch.creditsPast else ch.past)
    let s1 := if k = 0 then s else s.count (ch.way credit).2 0x090 none k
    let s2 := s1.modChan n fun c =>
      if credit then { c with credits := c.credits.take p ++ c.credits.drop (p + k), creditsPast := was }
      else { c with flight := c.flight.take p ++ c.flight.drop (p + k), past := was }
    { s2 with beats := cutAfter (n, credit) p k s2.beats }

/-- What is in flight on the links for which `hit` holds meets the failure (R207, R247): packets and control signals are dropped
words of where they were going, copies of a multicast dropped multicasts: those of which `at_` holds all, those of which `near`
holds as far as they have not passed the link; log entry 10. -/
def State.discardOn (s : State) (hit : Link → Bool) (at_ near : McastPacket → Bool) : State :=
  let s1 := (s.net.filter fun m => s.onMesh m && (s.homeLinks none .word m.from_ m.dst).any hit).foldl State.meetMsg s
  let s2 := s.chans.zipIdx.foldl (fun st (ch, n) =>
    let st1 := if (s.chanLinks ch false).any hit && !ch.flight.isEmpty then st.meetChan n false else st
    if (s.chanLinks ch true).any hit && !ch.credits.isEmpty then st1.meetChan n true else st1) s1
  let gone := fun (p : McastPacket) => at_ p || (near p && Config.fate s.failTime p.id % 2 == 0)
  let off := fun (b : Barrier) (c : Nat) => s.releaseOn hit b c && Config.fate s.failTime (s.nextId + c) % 2 == 0
  let s3 := (s2.packets.filter gone).foldl (fun st p => st.countHub (st.routerKey (p.sender / 65536) p.x p.y) 0x094) s2
  let s4 := s3.barriers.foldl (fun st b => (b.releasing.filter (off b)).foldl (fun u c => u.count c 0x090) st) s3
  { s4 with
    packets := s4.packets.filter fun p => !gone p
    mcasts := s4.mcasts.filter fun r => s4.packets.any fun p => p.origin == r.origin && !gone p
    barriers := s4.barriers.map fun b => { b with releasing := b.releasing.filter fun c => !off b c } }

/-- Does a group's tree use a link: its router's entry forwards there (R198)? -/
def State.treeUses (s : State) (l : Link) (g : Nat) : Bool :=
  let e := (assocGet (s.hub (s.routerKey s.home l.x l.y)).mcast g).getD 0
  l.plane == .word && e.getLsbD 21 && e.getLsbD (dirBit l.dir)

/-- The other direction of a link (R186); itself at the wafer's edge. -/
def reverseLink (l : Link) : Link :=
  match neighbour l.x l.y l.dir with
  | some n => ⟨n.1, n.2, dirOpposite l.dir, l.plane⟩
  | none => l

/-- Is a copy of a multicast on a link direction, toward the router where it is to be replicated? -/
def McastPacket.nears (p : McastPacket) (l : Link) : Bool :=
  l.plane == .word && p.member.isNone && p.from_ == some (dirOpposite l.dir) && neighbour l.x l.y l.dir == some (p.x, p.y)

/-- A link that has failed, both its directions (R206, R207; log entry 10): the report with its routers and plane, what is on it
discarded, and every region that uses it halted. -/
def State.failLink (s : State) (l : Link) : State :=
  let hit := fun (x : Link) => x == l || x == (reverseLink l)
  let gs := s.graphsOn hit fun g => s.treeUses l g || s.treeUses (reverseLink l) g
  let n := (neighbour l.x l.y l.dir).getD (l.x, l.y)
  let s1 := s.discardOn hit (fun _ => false) fun p => p.nears l || p.nears (reverseLink l)
  let s2 := gs.foldl (fun st g => st.haltRegion g) s1
  let s3 : State := { s2 with
    failedLinks := [l, (reverseLink l)].foldl (fun acc x => if acc.contains x then acc else acc ++ [x]) s2.failedLinks
    badLinks := s2.badLinks.filter fun x => !hit x.1 }
  s3.machineCheck 0x03 (planeCode l.plane) (s.coreAt s.home l.x l.y) 0xFFFF
    (BitVec.ofNat 64 (meshNo l.x l.y + meshNo n.1 n.2 * 65536))

/-- R206: a flit or beat, with its number on the link, is asked for again and counted, at the cluster of the router that sends it
(log entry 10); its eighth retry in a row fails the link (R207). -/
def execLinkRetries (retry : LinkRetry) (s : State) : Answer :=
  let link := retry.link
  let h := s.coreAt s.home link.x link.y / 16
  let n := match s.badLinks.find? fun x => x.1 == link with
    | some (_, f, k) => if f = retry.flit then k + 1 else 1
    | none => 1
  let s1 := s.countHub h 0x091
  let s2 : State := { s1 with badLinks := (s1.badLinks.filter fun x => x.1 != link) ++ [(link, retry.flit, n)] }
  .next (if 8 ≤ n then s2.failLink link else s2)

/-- R207: two wires of a control line that disagree for 4 cycles in a row fail the link. -/
def execControlLineDisagreement (link : Link) (cycles : Nat) (s : State) : Answer :=
  .next (if 4 ≤ cycles then s.failLink { link with plane := .control } else s)

/-- Does a link begin or end at a router (R247)? -/
def touches (r : Nat) (l : Link) : Bool :=
  meshNo l.x l.y == r || match neighbour l.x l.y l.dir with
    | some n => meshNo n.1 n.2 == r
    | none => false

/-- R247: a router that fails is reported, what passes through it discarded, and every region that crosses it halted.
`router` is its mesh position 64 × Y + X. -/
def execRouterFailed (router : Nat) (s : State) : Answer :=
  let x := router % 64
  let y := router / 64
  let tree := fun g => ((assocGet (s.hub (s.routerKey s.home x y)).mcast g).getD 0).getLsbD 21
  let gs := s.graphsOn (touches router) tree
  let s1 := s.discardOn (touches router) (fun p => p.member.isNone && meshNo p.x p.y == router) fun _ => false
  let s2 := gs.foldl (fun st g => st.haltRegion g) s1
  let s3 : State := { s2 with
    failedRouters := if s2.failedRouters.contains router then s2.failedRouters else s2.failedRouters ++ [router] }
  .next (s3.machineCheck 0x04 0 (s.coreAt s.home x y) 0xFFFF (BitVec.ofNat 64 router))

end Sys2Proof.Machine
end

