-- ==== Sys2Proof/Machine/Flags.lean ====
section
/-!
DEFINITION. Sys2Proof/Machine/Flags.lean: what arithmetic does beside its result: the draw of an STO rounding (R116),
the sticky flags of PREC (R17, R359) and the rounding of a scale-register result (R49), which sets no flag.
-/

namespace Sys2Proof.Machine

/-- f[d] ← Round(x) under the mode of `rnd`, else the default; STO draws from lane 0 (R49). -/
def Context.roundF (c : Context) (d : Reg) (dflt : BitVec 3) (x : Bool → ExNum) : Context :=
  let m := c.chain.mode dflt
  let (n, c') := c.drawFor m 0
  c'.writeF d (toF32 m n (x (m == 3)))

/-- e[d] ← x rounded to P under PREC.RM, with its flags (R359); `nv` for an invalid operation. -/
def Context.roundE (c : Context) (d : Reg) (nv : Bool) (x : ExNum) : Context :=
  let m := c.precRm
  let (n, c') := c.drawFor m 0
  let (r, fl) := efRound c.precP m n x
  (c'.writeE d r).orFlags (if nv then fl ||| flagNV else fl)

/-- The flags a conversion out of EF to a floating format sets (R368). A NaN sets NV, and NX too where rule 2 writes +0
for it, which differs from the source. -/
def floatOutFlags (f : FloatFmt) (mode : BitVec 3) (draw : BitVec 16) (sat : BitVec 2) (x : ExNum) : BitVec 4 :=
  match x with
  | .nan => if sat = 2 then flagNV ||| flagNX else flagNV
  | .inf _ => if (f.write mode sat draw x).inexact then flagNX else 0
  | .fin s m e =>
    let r := f.write mode sat draw x
    let q := ExNum.expOf m e - f.fbits
    let tiny := m ≠ 0 ∧ ExNum.expOf (roundAt mode draw s m e q) q < 1 - f.bias
    (if r.inexact then flagNX else 0) ||| (if r.ovf then flagOF else 0)
      ||| (if tiny ∧ r.inexact then flagUF else 0)

/-- The flags a conversion out of EF to an integer range sets (R368). -/
def intOutFlags (lo hi : Int) (mode : BitVec 3) (draw : BitVec 16) (x : ExNum) : BitVec 4 :=
  match x with
  | .nan => flagNV
  | .inf _ => flagNV
  | .fin s m e =>
    let i := roundInt mode draw s m e
    if i < lo ∨ hi < i then flagNV else if exactAt m e 0 then 0 else flagNX

end Sys2Proof.Machine
end

