-- ==== Sys2Proof/Machine/System.lean ====
section
/-!
DEFINITION. Sys2Proof/Machine/System.lean: control registers (R13 to R22, R66, R240 to R244), barriers and counters
(R67 to R69) and the pool loads and stores (R61).
-/

namespace Sys2Proof.Machine

/-! ## Reading control registers -/

/-- TFREE: rows of the accumulator partition that no shaped tile occupies (R23). -/
def Core.tfree (k : Core) : Nat :=
  k.accuBytes / 512 - allTiles.foldl (fun n t => n + (if shapeCols (k.shape t) = 0 then 0 else shapeRows (k.shape t))) 0

/-- The present value of a control register (R13, R66); a number outside the table never comes here (R14). -/
def State.readCsr (s : State) (num : BitVec 12) : Word :=
  let k := s.cur
  let c := s.ctx
  let n := num.toNat
  let t := (assocGet s.tables (s.focus / 65536)).getD Tables.perfect
  match n with
  | 0x000 => c.status
  | 0x001 => c.prec
  | 0x002 => c.cause
  | 0x003 => c.faddr
  | 0x004 => c.epc
  | 0x005 => c.ctxid
  | 0x006 => c.tvec
  | 0x007 => k.sqlim
  | 0x008 => c.rseed
  | 0x009 => BitVec.ofNat 64 k.tfree
  | 0x00A => k.partn
  | 0x00B => c.pladder
  | 0x00C => c.pbudget
  | 0x00D => k.cycle
  | _ =>
    if 0x010 ≤ n ∧ n ≤ 0x017 then k.shape (num.setWidth 3)
    else if 0x100 ≤ n ∧ n ≤ 0x13F then t.fmap (n - 0x100)
    else if 0x140 ≤ n ∧ n ≤ 0x17F then t.cmap (n - 0x140)
    else if 0x180 ≤ n ∧ n ≤ 0x181 then t.cormap (s.focus / 16 % 4096) (n - 0x180)
    else if 0x182 ≤ n ∧ n ≤ 0x189 then t.drmap (s.focus % 65536) (n - 0x182)
    else if 0x200 ≤ n ∧ n ≤ 0x27F then t.detour ((n - 0x200) / 2) ((n - 0x200) % 2)
    else 0

/-! ## Writing control registers (R14) -/

/-- The control-write trap with a DETAIL (R34). -/
def csrTrap (detail : BitVec 8) : TrapCause := ⟨0x0E, 0, detail, 0⟩

/-- A rounding of one elastic register to a shorter length when P falls (R367): RNE in place of STO, no draw. -/
def shortenE (p : Nat) (rm : BitVec 3) (x : Ereg) : Ereg × BitVec 4 :=
  match x.read with
  | .fin s m e => if m = 0 then (x, 0) else efRound p (if rm = 5 then 0 else rm) 0 (.fin s m e)
  | _ => (x, 0)

/-- The elastic registers laid out again for a new P (R367, R388): the flags of the roundings go to PREC. -/
def Context.relayout (c : Context) (old new : Nat) (rm : BitVec 3) : Context :=
  if new < old then
    let r : Vector (Ereg × BitVec 4) 32 := c.e.map (shortenE new rm)
    Context.orFlags { c with e := r.map fun x => x.1 } (r.toList.foldl (fun f x => f ||| x.2) 0)
  else c

/-- The words per value that a write of PREC.P may ask for: WIN of the running block, or the actor's window where WIN
is 0; none where there is no window (R17). -/
def State.widthLimit (s : State) : Option Nat :=
  let win := headerWin s.runHeader
  if win ≠ 0 then some win else if s.ctx.window ≠ 0 then some s.ctx.window else none

/-- Is a width above the limit (R17)? -/
def overWidth (limit : Option Nat) (w : Nat) : Bool :=
  match limit with
  | some l => decide (l < w)
  | none => false

/-- A write of PREC (R17, R361). -/
def State.writePrec (s : State) (v : Word) : Except TrapCause State :=
  let c := s.ctx
  let p := (v.extractLsb' 0 8).toNat
  let pmin := (v.extractLsb' 8 8).toNat
  let rm : BitVec 3 := v.extractLsb' 17 3
  if v.toNat / 2 ^ 24 ≠ 0 then .error (csrTrap 0x02)
  else if p < 2 ∨ 241 < p ∨ p ≤ pmin ∨ 5 < rm.toNat then .error (csrTrap 0x03)
  else if p ≠ c.precP ∧ overWidth s.widthLimit (efWords p) = true then .error ⟨0x0C, BitVec.ofNat 8 (efWords p), 0x01, BitVec.ofNat 64 p⟩
  else
    let kept := c.prec &&& ~~~v &&& 0xF00000
    .ok (s.setCtx (({ c with prec := (v &&& 0xFFFFF) ||| kept }).relayout c.precP p rm))

/-- Are the rungs of PLADDER in order (R20)? -/
def ladderOk (v : Word) : Bool :=
  let aw := fun i => (v.extractLsb' (10 * i) 5).toNat
  let bw := fun i => (v.extractLsb' (10 * i + 5) 5).toNat
  let n := (v.extractLsb' 40 2).toNat
  (List.range 4).all fun i =>
    if i ≤ n then
      2 ≤ aw i && aw i ≤ 24 && 2 ≤ bw i && bw i ≤ 24
        && (i == 0 || (aw (i - 1) ≤ aw i && bw (i - 1) ≤ bw i && (aw (i - 1) < aw i || bw (i - 1) < bw i)))
    else aw i == 0 && bw i == 0

/-- A write of TSHAPEn, with the clearing of PEND after R356 (R21, R324, R356). -/
def State.writeShape (s : State) (n : BitVec 3) (v : Word) : Except TrapCause State :=
  let k := s.cur
  let rows := shapeRows v
  let cols := shapeCols v
  if v.toNat / 2 ^ 21 ≠ 0 ∨ v.getLsbD 7 then .error (csrTrap 0x02)
  else if (rows = 0 ∧ cols ≠ 0) ∨ (rows ≠ 0 ∧ cols = 0) ∨ 64 < rows ∨ 128 < cols ∨ (rows ≠ 0 ∧ !k.slotFits n.toNat) then
    .error (csrTrap 0x03)
  else if k.tileBusy n then .error (csrTrap 0x04)
  else
    let hd := s.saveHeader s.focus s.who n
    let s1 := if hd.getLsbD 62 then s.storeHeader s.focus s.who n (hd &&& 0xBFFFFFFFFFFFFFFF) else s
    .ok (s1.setShape s.focus n ((v &&& 0xFF7F) ||| s.who.setWidth 64 <<< 16))

/-- WriteCSR of R66: a trap leaves the register unchanged; a register whose fields are all RO refuses (R14). -/
def State.writeCsr (s : State) (num : BitVec 12) (v : Word) : Except TrapCause State :=
  let c := s.ctx
  let n := num.toNat
  match n with
  | 0x001 => s.writePrec v
  | 0x002 => if v.toNat / 2 ^ 24 ≠ 0 then .error (csrTrap 0x02) else .ok (s.setCtx { c with cause := v })
  | 0x003 => .ok (s.setCtx { c with faddr := v })
  | 0x004 =>
    if v.extractLsb' 6 10 ≠ 0 then .error (csrTrap 0x02)
    else .ok (s.setCtx { c with epc := (c.epc &&& 0xFFFFFFFF00000000) ||| (v &&& 0xFFFF003F) })
  | 0x006 => if v.toNat / 2 ^ 17 ≠ 0 then .error (csrTrap 0x02) else .ok (s.setCtx { c with tvec := v })
  | 0x007 =>
    let whey := (v.extractLsb' 8 5).toNat
    let curd := (v.extractLsb' 0 5).toNat
    if v.toNat / 2 ^ 13 ≠ 0 ∨ v.extractLsb' 5 3 ≠ 0 then .error (csrTrap 0x02)
    else if whey = 0 ∨ 16 < whey ∨ curd = 0 ∨ 16 < curd then .error (csrTrap 0x03)
    else .ok (s.modCur fun k => { k with sqlim := v })
  | 0x008 => .ok (s.setCtx { c with rseed := v, gen := laneSeeds v })
  | 0x00B =>
    if v.toNat / 2 ^ 42 ≠ 0 then .error (csrTrap 0x02)
    else if ladderOk v then .ok (s.setCtx { c with pladder := v }) else .error (csrTrap 0x03)
  | 0x00C => if v.toNat / 2 ^ 56 ≠ 0 then .error (csrTrap 0x02) else .ok (s.setCtx { c with pbudget := v })
  | _ => if 0x010 ≤ n ∧ n ≤ 0x017 then s.writeShape (num.setWidth 3) v else .error (csrTrap 0x01)

/-- The tile that an access of a control register names (R356). -/
def csrTile (num : BitVec 12) : Option (BitVec 3) :=
  if 0x010 ≤ num.toNat ∧ num.toNat ≤ 0x017 then some (num.setWidth 3) else none

/-- The bits of a register that are W1C: the flags of PREC (R14, R17). -/
def w1cMask (num : BitVec 12) : Word := if num = 1 then 0xF00000 else 0

/-- A write by `csrw`, `csrx` or `tshp`: lazy copies first where it names a tile (R356), then the write and its trap. R356
lists `csrw` of TSHAPEn and not `csrx`; `csrx` is taken to name the tile too (log entry 70). -/
def State.csrWrite (s : State) (num : BitVec 12) (v : Word) : State :=
  let go := match s.writeCsr num v with
    | .ok s1 => s1.retire id
    | .error t => s.takeTrap t
  match csrTile num with
  | some n => s.withTiles (some n) go
  | none => go

/-- R66: a control register to s[d]. -/
def execCsrr (d : Reg) (n : BitVec 12) (s : State) : Answer := .next (s.retire fun c => c.writeS d (s.readCsr n))

/-- R66: s[a] into a control register. -/
def execCsrw (w : Bool) (a : Reg) (n : BitVec 12) (s : State) : Answer :=
  .next (s.onSources w [a] (s.csrWrite n (s.ctx.readS a)))

/-- R66: a write under the mask in s[d]. -/
def execCsrx (w : Bool) (d a : Reg) (n : BitVec 12) (s : State) : Answer :=
  let m := s.ctx.readS d
  let x := s.ctx.readS a
  let f := w1cMask n
  .next (s.onSources w [d, a] (s.csrWrite n ((((s.readCsr n &&& ~~~m) ||| (x &&& m)) &&& ~~~f) ||| (x &&& m &&& f))))

/-! ## Barriers and counters (R67 to R69) -/

/-- R68: the core's arrival at a barrier; it does not wait. -/
def execBarr (b : Reg) (s : State) : Answer :=
  let id : BitVec 3 := b.setWidth 3
  if s.barriers.any fun x => x.bound && x.ident == id && x.members.contains s.focus then
    .next ((s.modCur fun k => { k with arrive := setV k.arrive id true }).retire fun c => c)
  else .next (s.trap 0x06 (b.setWidth 8) 0x03 0)

/-- The event counter that `evrd` numbers (R69, R269), read as the instruction issues: R69 lets a cluster or field counter be read at
any time until completion (DESIGN CHOICE; log entry 94). -/
def State.counter (s : State) (n : Nat) : BitVec 48 :=
  if h : n < 4 then (s.cur.counters[n]).count
  else if h : n - 4 < 8 then ((s.hub (s.focus / 16)).counters[n - 4]).count
  else if h : n - 12 < 8 then ((s.field (s.focus / 1024)).counters[n - 12]).count
  else 0

/-- R69: a counter to s[d]. -/
def execEvrd (d : Reg) (n : BitVec 10) (s : State) : Answer :=
  .next (s.retire fun c => c.writeS d ((s.counter n.toNat).setWidth 64))

/-! ## Pool loads and stores (R61) -/

/-- R61: a load from the scratchpad. -/
def execLd (w : Bool) (d a : Reg) (z : BitVec 3) (o : BitVec 12) (s : State) : Answer :=
  let n := loadSize z
  let addr := poolOperand s.ctx a o n
  .next (s.onSources w [a] (s.poolChecked a addr n n
    (s.retire fun c => c.writeS d (extendTo64 n (loadUnsigned z) (s.poolRead addr.toNat n)))))

/-- R61: a store to the scratchpad; s[d] and s[a] are sources. -/
def execSt (w : Bool) (d a : Reg) (z : BitVec 2) (o : BitVec 12) (s : State) : Answer :=
  let n := storeSize z
  let addr := poolOperand s.ctx a o n
  .next (s.onSources w [d, a] (s.poolChecked a addr n n
    ((s.poolWrite addr.toNat n (s.ctx.readS d).toNat).retire id)))

end Sys2Proof.Machine
end

