-- ==== Sys2Proof/Machine/Image.lean ====
section
/-!
DEFINITION. Sys2Proof/Machine/Image.lean: graph images as bytes (R395 to R397) read into a plan: the actors with their
blocks, channels, data, groups, barriers and partition words of one load, with every end resolved (R279).
-/

namespace Sys2Proof.Machine

/-! ## Bytes -/

def bytesAt (l : List Byte) (o n : Nat) : List Byte := (l.drop o).take n
def numAt (l : List Byte) (o n : Nat) : Nat := leNat (bytesAt l o n)
def zeroAt (l : List Byte) (o n : Nat) : Bool := (bytesAt l o n).all fun b => b == 0

/-- A record of an image (R395). -/
structure ImgRecord where
  type : Nat
  body : List Byte
  deriving DecidableEq, Repr

/-- One image: its signed bytes, its signature block (key index and signature), its root, NAME and records. -/
structure Image where
  bytes : List Byte
  sig : Option (Nat × List Byte)
  root : Option Nat
  name : List Byte
  recs : List ImgRecord
  deriving DecidableEq, Repr

/-- `n` records that fill the bytes given, each padded to 8 (R395). -/
def imgRecords : Nat → List Byte → Option (List ImgRecord)
  | 0, l => if l.isEmpty then some [] else none
  | n + 1, l =>
    let blen := numAt l 4 4
    let size := 8 + (blen + 7) / 8 * 8
    if l.length < size || !zeroAt l 2 2 || !zeroAt l (8 + blen) (size - 8 - blen) then none
    else (imgRecords n (l.drop size)).map fun rest => ⟨numAt l 0 2, bytesAt l 8 blen⟩ :: rest

/-- The bytes that open an image and a signature block (R276, R395). -/
def imgMagic : List Byte := [0x49, 0x4B, 0x47, 0x49]
def sigMagic : List Byte := [0x49, 0x4B, 0x53, 0x47]

/-- The signature block that stands first in the bytes given: `some none` where there is none, none where it breaks the layout
(R395). A key index of 8 or more names no enrolled key: the block is not valid (R276). -/
def imgSignature (l : List Byte) : Option (Option (Nat × List Byte)) :=
  if bytesAt l 0 4 != sigMagic then some none
  else if l.length < 3320 || !zeroAt l 3314 6 then none
  else some (some (numAt l 4 1, bytesAt l 5 3309))

/-- The image that stands first, and its size with its signature block. -/
def firstImage (l : List Byte) : Option (Image × Nat) :=
  let len := numAt l 8 4
  let flags := numAt l 5 1
  let root := numAt l 16 8
  let name := bytesAt l 24 40
  if l.length < 64 || bytesAt l 0 4 != imgMagic || numAt l 4 1 != 1 || 2 ≤ flags || !zeroAt l 6 2 || len < 64 || l.length < len
      || (flags == 0 && root != 0) || !((name.dropWhile fun b => b != 0).all fun b => b == 0) then none
  else match imgRecords (numAt l 12 4) (bytesAt l 64 (len - 64)), imgSignature (l.drop len) with
    | some recs, some sg =>
      some (⟨bytesAt l 0 len, sg, if flags == 1 then some root else none, name, recs⟩,
        len + match sg with
          | some _ => 3320
          | none => 0)
    | _, _ => none

/-- Every image of a request, to the end of its bytes (R395). -/
def allImages : Nat → List Byte → Option (List Image)
  | 0, _ => none
  | fuel + 1, l =>
    match firstImage l with
    | none => none
    | some (im, n) =>
      if l.length = n then some [im] else (allImages fuel (l.drop n)).map fun rest => im :: rest

/-! ## Records (R396, R397) -/

/-- An actor as its record gives it: index in its image, core, context and the operands of `.place`, `.ladder`,
`.budget`. -/
structure ImgActor where
  idx : Nat
  cid : Nat
  ctx : Nat
  save : Option Nat
  ladder : Option Word
  budget : Option Word
  deriving DecidableEq, Repr

/-- A channel end (R397); an own port names the actor's index. -/
inductive ImgEnd where
  | own (actor port : Nat)
  | window (n : Nat)
  | service (n : Nat)
  | ocall
  | mcast (g : Nat)
  | far (cid ctx port : Nat)
  deriving DecidableEq, Repr

/-- A `.chan` record. -/
structure ImgChan where
  src : ImgEnd
  dst : ImgEnd
  depth : Nat
  cons : Nat
  prod : Nat
  vec : Bool
  prio : Nat
  seng : Option Nat
  deng : Option Nat
  deriving DecidableEq, Repr

/-- A `.barrier` record. -/
structure ImgBarrier where
  ident : Nat
  all : Bool
  prio : Nat
  done : List ImgEnd
  members : List Nat
  deriving DecidableEq, Repr

/-- A record read. -/
inductive ImgItem where
  | pool (cid : Nat) (partn : Word)
  | actor (a : ImgActor)
  | block (actor : Nat) (words : List Byte)
  | chan (c : ImgChan)
  /-- the wafer address of the first byte, and the bytes -/
  | data (addr : Nat) (bytes : List Byte)
  | group (g : Nat) (cores : List Nat)
  | barrier (b : ImgBarrier)
  deriving DecidableEq, Repr

/-- A core: wafer, field, cluster, core (R397). -/
def imgCore (l : List Byte) (o : Nat) : Option Nat :=
  let w := numAt l o 1
  let f := numAt l (o + 1) 1
  let c := numAt l (o + 2) 1
  let k := numAt l (o + 3) 1
  if l.length < o + 4 || 32 ≤ w || 64 ≤ f || 64 ≤ c || 16 ≤ k then none else some (((w * 64 + f) * 64 + c) * 16 + k)

/-- `n` cores one after another. -/
def imgCores (l : List Byte) (o : Nat) : Nat → Option (List Nat)
  | 0 => some []
  | n + 1 => match imgCore l o, imgCores l (o + 4) n with
    | some c, some rest => some (c :: rest)
    | _, _ => none

/-- A channel end (R397). -/
def imgEnd (l : List Byte) (o : Nat) : Option ImgEnd :=
  let n := numAt l (o + 1) 1
  match numAt l o 1 with
  | 0 => if 16 ≤ n || !zeroAt l (o + 4) 4 then none else some (.own (numAt l (o + 2) 2) n)
  | 1 => if 64 ≤ n || !zeroAt l (o + 2) 6 then none else some (.window n)
  | 2 => if 16 ≤ n || !zeroAt l (o + 2) 6 then none else some (.service n)
  | 3 => if n != 0 || !zeroAt l (o + 2) 6 then none else some .ocall
  | 4 => if !zeroAt l (o + 2) 6 then none else some (.mcast n)
  | 5 =>
    if 16 ≤ n || 16 ≤ numAt l (o + 2) 1 || !zeroAt l (o + 3) 1 then none
    else (imgCore l (o + 4)).map fun c => .far c (numAt l (o + 2) 1) n
  | _ => none

/-- `n` done ends: ports (R397). -/
def imgDones (l : List Byte) (o : Nat) : Nat → Option (List ImgEnd)
  | 0 => some []
  | n + 1 => match imgEnd l o, imgDones l (o + 8) n with
    | some (.own a p), some rest => some (.own a p :: rest)
    | some (.far c x p), some rest => some (.far c x p :: rest)
    | _, _ => none

/-- An engine end's operand. -/
def imgEngine (x : Nat) : Option (Option Nat) :=
  if x = 0xFF then some none else if x ≤ 3 then some (some x) else none

/-- Is an end a port? -/
def ImgEnd.isPort : ImgEnd → Bool
  | .own .. => true
  | .far .. => true
  | _ => false

/-- Is an end a service source (R79)? -/
def ImgEnd.isService : ImgEnd → Bool
  | .service _ => true
  | .ocall => true
  | .mcast _ => true
  | _ => false

/-- The rules of a `.chan` line that look at it alone (R79, R155, R211). -/
def ImgChan.ok (c : ImgChan) : Bool :=
  1 ≤ c.depth && c.depth ≤ 1023 && 1 ≤ c.cons && c.prio ≤ 47 && c.cons ≤ c.depth && c.prod ≤ c.depth
    && !c.dst.isService
    && (if c.src.isService then c.prod == 0 && c.dst.isPort && !c.vec else 1 ≤ c.prod)
    && (match c.src with
        | .service _ => c.cons % 2 == 0
        | .ocall => c.cons == 3
        | _ => true)
    && (c.seng.isNone || (c.src.isPort && c.prod == 1)) && (c.deng.isNone || (c.dst.isPort && c.cons == 1))

/-- The rules of a partition word (R22). -/
def partitionOk (p : Word) : Bool :=
  let f := fun i => (p.extractLsb' (6 * i) 6).toNat
  let n := (p.extractLsb' 24 5).toNat
  p.toNat < 2 ^ 29 && 1 ≤ f 0 && 1 ≤ f 1 && f 0 + f 1 + f 2 + f 3 == 48 && 1 ≤ n && n ≤ 16

/-- One record's body by its type (R396); none where it breaks the layout or its directive's rule. -/
def imgItem (r : ImgRecord) : Option ImgItem :=
  let l := r.body
  let n := l.length
  match r.type with
  | 0x0001 =>
    if n != 16 || !zeroAt l 4 4 || !partitionOk (BitVec.ofNat 64 (numAt l 8 8)) then none
    else (imgCore l 0).map fun c => .pool c (BitVec.ofNat 64 (numAt l 8 8))
  | 0x0002 =>
    let fl := numAt l 2 1
    let given := fun i => fl / 2 ^ i % 2 == 1
    let ladder : Word := BitVec.ofNat 64 (numAt l 16 8)
    let budget : Word := BitVec.ofNat 64 (numAt l 24 8)
    if n != 64 || 16 ≤ fl || !given 0 || 16 ≤ numAt l 3 1 || (!given 1 && !zeroAt l 8 8) || (!given 2 && !zeroAt l 16 8)
        || (!given 3 && !zeroAt l 24 8) || numAt l 8 8 % 4096 != 0
        || (given 2 && !(ladder.toNat < 2 ^ 42 && ladderOk ladder)) || 2 ^ 56 ≤ budget.toNat then none
    else (imgCore l 4).map fun c => .actor {
      idx := numAt l 0 2, cid := c, ctx := numAt l 3 1
      save := if given 1 then some (numAt l 8 8) else none
      ladder := if given 2 then some ladder else none
      budget := if given 3 then some budget else none }
  | 0x0003 =>
    let hd : IWord := BitVec.ofNat 32 (numAt l 8 4)
    if n < 16 || !zeroAt l 2 6 || n != 8 + 4 * (wordCount hd + 1) then none
    else some (.block (numAt l 0 2) (l.drop 8))
  | 0x0004 =>
    if n != 24 || 2 ≤ numAt l 20 1 then none
    else match imgEnd l 0, imgEnd l 8, imgEngine (numAt l 22 1), imgEngine (numAt l 23 1) with
      | some a, some b, some se, some de =>
        let c : ImgChan := ⟨a, b, numAt l 16 2, numAt l 18 1, numAt l 19 1, numAt l 20 1 == 1, numAt l 21 1, se, de⟩
        if c.ok then some (.chan c) else none
      | _, _, _, _ => none
  | 0x0005 =>
    let sp := numAt l 0 1
    let layer := numAt l 1 1
    let off := numAt l 8 8
    let len := n - 16
    if n < 16 || !zeroAt l 2 2 || 2 ≤ sp || 4 ≤ layer || (sp == 0 && (layer != 0 || Config.poolBytes ≤ off || Config.poolBytes < off + len))
        || (sp == 1 && (2 ^ 24 ≤ off || 2 ^ 24 < off + len)) then none
    else (imgCore l 4).map fun c => .data (if sp == 0 then poolAddr c off else dramAddr c (layer * 2 ^ 24 + off)) (l.drop 16)
  | 0x0006 =>
    let m := numAt l 2 2
    if n != 8 + 4 * m || !zeroAt l 1 1 || !zeroAt l 4 4 then none
    else match imgCores l 8 m with
      | some (c :: cs) => if cs.all fun x => x / 65536 == c / 65536 then some (.group (numAt l 0 1) (c :: cs)) else none
      | _ => none
  | 0x0007 =>
    let t := numAt l 3 1
    let m := numAt l 4 2
    if n != 8 + 8 * t + 4 * m || 16 < t || 8 ≤ numAt l 0 1 || 2 ≤ numAt l 1 1 || 48 ≤ numAt l 2 1 || !zeroAt l 6 2 || m == 0 then none
    else match imgDones l 8 t, imgCores l (8 + 8 * t) m with
      | some ds, some ms => some (.barrier ⟨numAt l 0 1, numAt l 1 1 == 0, numAt l 2 1, ds, ms⟩)
      | _, _ => none
  | _ => none

/-- A list of options as an option of a list. -/
def allSome {α : Type} : List (Option α) → Option (List α)
  | [] => some []
  | none :: _ => none
  | some x :: rest => (allSome rest).map fun l => x :: l

/-! ## The plan of one load (R279) -/

/-- An actor to bind: its number in the graph, place, operands, and its blocks' bytes. -/
structure PlanActor where
  number : Nat
  cid : Nat
  ctx : Nat
  save : Option Nat
  ladder : Option Word
  budget : Option Word
  blocks : List (List Byte)
  deriving DecidableEq, Repr

/-- A channel to bind, with its ends as State has them. -/
structure PlanChan where
  src : ChanEnd
  dst : ChanEnd
  depth : Nat
  cons : Nat
  prod : Nat
  vec : Bool
  prio : Nat
  seng : Option Nat
  deng : Option Nat
  deriving DecidableEq, Repr

/-- A barrier to build: the done ports as ends. -/
structure PlanBarrier where
  ident : Nat
  all : Bool
  prio : Nat
  done : List ChanEnd
  members : List Nat
  deriving DecidableEq, Repr

/-- All that one load asks for. -/
structure Plan where
  root : Option Nat
  actors : List PlanActor
  chans : List PlanChan
  pools : List (Nat × Word)
  data : List (Nat × List Byte)
  groups : List (Nat × List Nat)
  barriers : List PlanBarrier
  deriving DecidableEq, Repr

/-- The header word of a block's bytes and its handler number. -/
def blockHeader (b : List Byte) : IWord := BitVec.ofNat 32 (numAt b 0 4)
def blockHandler (b : List Byte) : BitVec 16 := (blockHeader b).extractLsb' 0 16

/-- The actors of one image, their numbers from `base` (R279); none where an index is not unique, not below the number
of actors, or a block's actor is not declared. -/
def imgActors (base : Nat) (items : List ImgItem) : Option (List PlanActor) :=
  let acts := items.filterMap fun i => match i with
    | .actor a => some a
    | _ => none
  let blocks := items.filterMap fun i => match i with
    | .block a w => some (a, w)
    | _ => none
  let idx := acts.map fun a => a.idx
  if idx.any (fun i => acts.length ≤ i) || idx.eraseDups.length != idx.length || blocks.any (fun b => !idx.contains b.1) then none
  else some (acts.map fun a =>
    ⟨base + a.idx, a.cid, a.ctx, a.save, a.ladder, a.budget, (blocks.filter fun b => b.1 == a.idx).map fun b => b.2⟩)

/-- An end resolved: a port of an actor of this image, or of the actor that some image places there (R279). `own` are
the image's actors, `all` the graph's; `home` is the core of a service source. -/
def resolveEnd (graph : Nat) (base : Nat) (own all : List PlanActor) (home : Option Nat) (e : ImgEnd) : Option ChanEnd :=
  match e with
  | .own i p => (own.find? fun a => a.number == base + i).map fun a => .port a.cid a.ctx p
  | .far c x p => if all.any fun a => a.cid == c && a.ctx == x then some (.port c x p) else none
  | .window n => some (.window graph n)
  | .service n => home.map fun c => .service c n
  | .ocall => home.map fun c => .ocall c
  | .mcast g => home.map fun c => .mcast c g

/-- The images of one request with their actors' first numbers: items, base and actors of each. -/
def numberImages : Nat → List (List ImgItem) → Option (List (Nat × List ImgItem × List PlanActor))
  | _, [] => some []
  | base, items :: rest =>
    match imgActors base items with
    | none => none
    | some as => (numberImages (base + as.length) rest).map fun l => (base, items, as) :: l

/-- The root that all images agree on (R288, R371): `some none` where none gives one, none where two differ or it is no
DRAM address at a multiple of 4,096. -/
def planRoot (roots : List Nat) : Option (Option Nat) :=
  match roots with
  | [] => some none
  | r :: rest => if rest.all (fun x => x == r) && r % 4096 == 0 && r < 2 ^ 47 then some (some r) else none

/-- The plan of the images of one request for a graph number; none where the loader refuses (R279, R371, R395 to
R397). -/
def planOf (graph : Nat) (ims : List Image) : Option Plan :=
  let names := ims.map fun i => i.name
  match allSome (ims.map fun i => allSome (i.recs.map imgItem)), planRoot (ims.filterMap fun i => i.root) with
  | some itemss, some root =>
    if names.any fun n => n != names.headD [] then none
    else match numberImages 0 itemss with
      | none => none
      | some parts =>
        let all := parts.flatMap fun p => p.2.2
        let chans := parts.flatMap fun p => p.2.1.filterMap fun i => match i with
          | .chan c =>
            let re := resolveEnd graph p.1 p.2.2 all
            let dst := re none c.dst
            let src := re (dst.bind ChanEnd.core?) c.src
            some (match src, dst with
              | some a, some b => some (⟨a, b, c.depth, c.cons, c.prod, c.vec, c.prio, c.seng, c.deng⟩ : PlanChan)
              | _, _ => none)
          | _ => none
        let bars := parts.flatMap fun p => p.2.1.filterMap fun i => match i with
          | .barrier b =>
            some ((allSome (b.done.map (resolveEnd graph p.1 p.2.2 all none))).map fun ds =>
              (⟨b.ident, b.all, b.prio, ds, b.members⟩ : PlanBarrier))
          | _ => none
        match allSome chans, allSome bars with
        | some cs, some bs => some {
            root
            actors := all
            chans := cs
            pools := itemss.flatten.filterMap fun i => match i with
              | .pool c w => some (c, w)
              | _ => none
            data := itemss.flatten.filterMap fun i => match i with
              | .data a b => some (a, b)
              | _ => none
            groups := itemss.flatten.filterMap fun i => match i with
              | .group g cs => some (g, cs)
              | _ => none
            barriers := bs }
        | _, _ => none
  | _, _ => none

end Sys2Proof.Machine
end

