-- ==== Sys2Proof/Machine/Loader.lean ====
section
/-!
DEFINITION. Sys2Proof/Machine/Loader.lean: what the loader refuses (R4, R22, R79, R151, R154, R155, R163, R170, R179,
R183, R197, R202, R233, R355, R377) and what it applies (R11, R169, R170, R197 to R203, R276).
-/

namespace Sys2Proof.Machine

/-! ## The channels of a plan, completion channels included (R203) -/

/-- Every channel to bind; a completion channel has depth 2, cons 1 and its barrier's priority, and its source is the
barrier's number in State. -/
def Plan.channels (p : Plan) (firstBar : Nat) : List PlanChan :=
  p.chans ++ p.barriers.zipIdx.flatMap fun (b, i) =>
    b.done.map fun d => ⟨.barrier (firstBar + i), d, 2, 1, 1, false, b.prio, none, none⟩

/-- Bytes of an input queue (R156). -/
def queueBytes (vec : Bool) (depth : Nat) : Nat := depth * (if vec then 80 else 16)

/-- Is an end on a core, and is it a port of one context? -/
def ChanEnd.onCore (e : ChanEnd) (cid : Nat) : Bool := e.core? == some cid
def ChanEnd.onCtx (e : ChanEnd) (cid ctx : Nat) : Bool :=
  match e with
  | .port c x _ => c == cid && x == ctx
  | _ => false

/-- Is a source static (R162)? -/
def ChanEnd.staticSrc : ChanEnd → Bool
  | .port .. => true
  | .window .. => true
  | _ => false

/-- Are all entries of a list different? -/
def allDistinct {α : Type} [DecidableEq α] (l : List α) : Bool := l.eraseDups.length == l.length

/-! ## Cores and partitions (R4, R22, R170) -/

/-- The cores that a region configures: of its actors, `.pool` lines and pool data (R170). -/
def Plan.cores (p : Plan) : List Nat :=
  (p.actors.map (fun a => a.cid) ++ p.pools.map (fun x => x.1)
    ++ (p.data.filter fun d => addrPool d.1).map fun d => addrCore d.1).eraseDups

/-- The partition word of a core under a plan: the one in force while a loaded region uses the core (R170). -/
def State.partnFor (s : State) (p : Plan) (cid : Nat) : Word :=
  if (s.core cid).users.isEmpty then (assocGet p.pools cid).getD 0 else (s.core cid).partn

/-- Every core named is present, each configured core has one partition word, and shared words agree (R4, R170). -/
def State.coresOk (s : State) (p : Plan) : Bool :=
  p.cores.all s.present && p.data.all (fun d => s.present (addrCore d.1)) && p.groups.all (fun g => g.2.all s.present)
    && p.barriers.all (fun b => b.members.all s.present) && allDistinct (p.pools.map fun x => x.1)
    && p.pools.all (fun x => x.2 == s.partnFor p x.1) && p.cores.all fun c => s.partnFor p c != 0

/-! ## Actors and blocks (R151, R154, R163, R183) -/

/-- One context each, free, below NCTX; one entry block, at most one end block, no handler number twice (R22, R151,
R154, R170). -/
def State.actorsOk (s : State) (p : Plan) : Bool :=
  allDistinct (p.actors.map fun a => (a.cid, a.ctx)) && p.actors.all fun a =>
    let hs := a.blocks.map blockHandler
    a.ctx < ((s.partnFor p a.cid).extractLsb' 24 5).toNat && !(s.ctxAt a.cid (BitVec.ofNat 4 a.ctx)).bound
      && hs.contains 0 && allDistinct hs && a.blocks.all (fun b => headerWin (blockHeader b) ≤ 4) && (a.blocks.filter fun b => (blockHeader b).getLsbD 17).length ≤ 1

/-- Every actor has a channel, and one whose inputs are all services or completions binds no static output (R163,
R183). -/
def actorChannelsOk (p : Plan) (cs : List PlanChan) : Bool :=
  p.actors.all fun a =>
    let ins := cs.filter fun c => c.dst.onCtx a.cid a.ctx
    let outs := cs.filter fun c => c.src.onCtx a.cid a.ctx
    !(ins.isEmpty && outs.isEmpty) && (ins.isEmpty || outs.isEmpty || ins.any fun c => c.src.staticSrc)

/-! ## Channels (R79, R155, R202, R211) -/

/-- Must an end be bound once: a port or a service source (R79, R155)? A window may stand on several lines of a graph (R148; log
entry 81). -/
def ChanEnd.once : ChanEnd → Bool
  | .window .. => false
  | .barrier _ => false
  | _ => true

/-- Each port and each service source is bound once (R79, R155, R202). -/
def State.endsOk (s : State) (cs : List PlanChan) : Bool :=
  allDistinct ((cs.map fun c => c.dst).filter ChanEnd.once) && allDistinct ((cs.map fun c => c.src).filter ChanEnd.once)
    && cs.all fun c => match c.src with
      | .port .. => true
      | .window .. => true
      | e => !s.chans.any fun ch => ch.bound && ch.src == e

/-- Entries of a core's input and output tables in use (R155). -/
def State.inEntries (s : State) (cid : Nat) : List Nat := (s.chans.filter fun ch => ch.bound && ch.dst.onCore cid).map fun ch => ch.dent
def State.outEntries (s : State) (cid : Nat) : List Nat := (s.chans.filter fun ch => ch.bound && ch.src.onCore cid).map fun ch => ch.sent

/-- At most 64 entries of either table on a core. -/
def State.entriesOk (s : State) (p : Plan) (cs : List PlanChan) : Bool :=
  p.cores.all fun cid =>
    (s.inEntries cid).length + (cs.filter fun c => c.dst.onCore cid).length ≤ 64
      && (s.outEntries cid).length + (cs.filter fun c => c.src.onCore cid).length ≤ 64

/-- Edges left after `n` rounds that take away those whose source no edge enters. -/
def peel : Nat → List (ChanEnd × ChanEnd) → List (ChanEnd × ChanEnd)
  | 0, es => es
  | n + 1, es => peel n (es.filter fun e => es.any fun f => f.2 == e.1)

/-- The actor of a port, as an end with port 0. -/
def ChanEnd.actor : ChanEnd → ChanEnd
  | .port c x _ => .port c x 0
  | e => e

/-- The static channels between actors form no directed cycle (R155). -/
def acyclic (cs : List PlanChan) : Bool :=
  let es := (cs.filter fun c => (c.src.core?).isSome && (c.dst.core?).isSome).map fun c => (c.src.actor, c.dst.actor)
  (peel es.length es).isEmpty

/-! ## The register-file part (R22, R155, R156) -/

/-- The greatest WIN among an actor's blocks (R156). -/
def PlanActor.window (a : PlanActor) : Nat := (a.blocks.map fun b => headerWin (blockHeader b)).foldl max 0

/-- The banks, windows and queues of a core fit its register-file part. -/
def State.registersOk (s : State) (p : Plan) (cs : List PlanChan) : Bool :=
  p.cores.all fun cid =>
    let w := s.partnFor p cid
    let loaded := ((s.core cid).ctxs.toList.filter fun c => c.bound).foldl (fun n c => n + 256 * c.window) 0
      + (s.chans.filter fun ch => ch.bound && ch.dst.onCore cid).foldl (fun n ch => n + queueBytes ch.vec ch.depth) 0
    let new := (p.actors.filter fun a => a.cid == cid).foldl (fun n a => n + 256 * a.window) 0
      + (cs.filter fun c => c.dst.onCore cid).foldl (fun n c => n + queueBytes c.vec c.depth) 0
    2560 * (w.extractLsb' 24 5).toNat + loaded + new ≤ 16384 * (w.extractLsb' 6 6).toNat

/-! ## Circuits and lines (R197, R202) -/

/-- What the vector channels that may share a circuit have in common: graph, source and destination cluster, and the rind port
of those between two wafers (R176, R197). -/
structure CircuitKey where
  graph : Nat
  src : Nat
  dst : Nat
  port : Option Nat
  deriving DecidableEq, Repr

/-- The circuit key of a vector channel between two clusters; within one there is none (R197). -/
def circuitOf (graph : Nat) (src dst : ChanEnd) (port : Option Nat) : Option CircuitKey :=
  match src.core?, dst.core? with
  | some a, some b => if a / 16 = b / 16 then none else some ⟨graph, a / 16, b / 16, port⟩
  | _, _ => none

/-- The key of a vector channel that is bound. -/
def Channel.circuitKey (ch : Channel) : Option CircuitKey :=
  if ch.bound && ch.vec then circuitOf ch.graph ch.src ch.dst ch.rindPort else none

/-- The circuits that the vector channels take: up to 8 channels of one key share one. -/
def circuitCounts (l : List CircuitKey) : List (CircuitKey × Nat) := l.eraseDups.map fun k => (k, (l.count k + 7) / 8)

/-- At most 2 circuits on a link direction of either wafer, 4 at the local port of a router in each direction (R197), for the
channels bound in a state. -/
def State.circuitsOk (s : State) : Bool :=
  let all := circuitCounts (s.chans.filterMap Channel.circuitKey)
  let used := all.flatMap fun (k, n) => (s.linksVia k.port .vector (k.src * 16) (k.dst * 16)).flatMap fun l => List.replicate n l
  used.eraseDups.all (fun l => used.count l ≤ 2) && all.all fun (k, _) =>
    (all.filter fun x => x.1.src == k.src).foldl (fun n x => n + x.2) 0 ≤ 4
      && (all.filter fun x => x.1.dst == k.dst).foldl (fun n x => n + x.2) 0 ≤ 4

/-- At most 6 lines on a link direction, and no core in two barriers of one identifier (R202). -/
def State.barriersOk (s : State) (p : Plan) : Bool :=
  let live := s.barriers.filter fun b => b.bound
  let used := live.flatMap (fun b => s.treeLinks b.members (s.barrierGoals b))
    ++ p.barriers.flatMap fun b => s.treeLinks b.members (b.done.filterMap ChanEnd.core?)
  let places := live.flatMap (fun b => b.members.eraseDups.map fun c => (b.ident.toNat, c))
    ++ p.barriers.flatMap fun b => b.members.eraseDups.map fun c => (b.ident, c)
  used.eraseDups.all (fun l => used.count l ≤ 6) && allDistinct places

/-- Is a link of this wafer in use, and are its routers (R207, R247)? -/
def State.linkUsable (s : State) (l : Link) : Bool := !s.failedLinks.contains l && !s.failedRouters.any fun r => touches r l

/-- No channel, tree or group of a plan whose channels are bound in the state crosses a link or router that has failed (R207,
R247). -/
def State.waysOk (s : State) (graph : Nat) (p : Plan) : Bool :=
  s.chans.all (fun ch => !ch.bound || ch.graph != graph || (s.wayOpen ch false && s.wayOpen ch true))
  && p.barriers.all (fun b => (s.treeLinks b.members (b.done.filterMap ChanEnd.core?)).all fun l =>
      l.1 != s.home || s.linkUsable l.2)
  && p.groups.all fun g => g.2.headD 0 / 65536 != s.home || (s.groupEdges g.2 s.route).all fun (x, y) =>
      s.linkUsable ⟨x.1, x.2, dirOf x y, .word⟩ && s.linkUsable ⟨y.1, y.2, dirOf y x, .word⟩

/-! ## Cut edges (R176, R278) -/

/-- The other wafer of a channel between this one and another, and whether this one is its source (R176). -/
def State.cutEdge (s : State) (src dst : ChanEnd) : Option (Bool × Nat) :=
  match src.core?, dst.core? with
  | some a, some b =>
    if a / 65536 = b / 65536 then none
    else if a / 65536 = s.home then some (true, b / 65536)
    else if b / 65536 = s.home then some (false, a / 65536)
    else none
  | _, _ => none

/-- The virtual channels of a rind port taken in a direction. -/
def State.rindTaken (s : State) (out : Bool) (port : Nat) : List Nat :=
  s.chans.filterMap fun ch => match ch.rind, s.cutEdge ch.src ch.dst with
    | some (p, v), some (o, _) => if ch.bound && p == port && o == out then some v else none
    | _, _ => none

/-- Does a barrier of this wafer and others find trained ports to join its trees through (R202, R278)? -/
def State.barrierJoins (s : State) (b : PlanBarrier) : Bool :=
  let ws := ((b.members ++ b.done.filterMap ChanEnd.core?).map fun c => c / 65536).eraseDups
  !ws.contains s.home || ws.all fun w => w == s.home || !(s.rindsTo w).isEmpty

/-- Each cut edge finds a virtual channel of a trained port to its peer: 256 to a port and direction (R278). -/
def State.rindsOk (s : State) (cs : List PlanChan) : Bool :=
  let cuts := cs.filterMap fun c => s.cutEdge c.src c.dst
  cuts.eraseDups.all fun x =>
    let ports := s.rindsTo x.2
    cuts.count x + ports.foldl (fun n r => n + (s.rindTaken x.1 r.port).length) 0 ≤ 256 * ports.length

/-- The rind port and virtual channel that a cut edge is bound to (R278). -/
def State.rindFor (s : State) (src dst : ChanEnd) : Option (Nat × Nat) :=
  (s.cutEdge src dst).bind fun x => (s.rindsTo x.2).findSome? fun r =>
    ((List.range 256).find? fun v => !(s.rindTaken x.1 r.port).contains v).map fun v => (r.port, v)

/-! ## Binding (R155, R176, R196) -/

/-- The lowest number below 64 that is not in use (R155; log entry 9). -/
def lowestFree (used : List Nat) : Nat := ((List.range 64).find? fun n => !used.contains n).getD 0

/-- The circuit of a vector channel between two clusters, and its sub-channel: up to 8 channels of one key share a circuit, in the
order of their lines (R196, R197). -/
def State.circuitFor (s : State) (graph : Nat) (src dst : ChanEnd) (port : Option Nat) : Option (Nat × BitVec 3) :=
  (circuitOf graph src dst port).map fun k =>
    let n := (s.chans.filterMap Channel.circuitKey).count k
    let p := match k.port with
      | some q => q + 1
      | none => 0
    (((k.src * 2 ^ 17 + k.dst) * 256 + p) * 8192 + n / 8, BitVec.ofNat 3 n)

/-- A channel bound (R155). -/
def State.bindChan (s : State) (graph : Nat) (c : PlanChan) : State :=
  let rind := s.rindFor c.src c.dst
  { s with chans := s.chans ++ [{
      bound := true, graph, src := c.src, dst := c.dst, depth := c.depth, cons := c.cons, prod := c.prod, prio := c.prio, vec := c.vec
      seng := c.seng, deng := c.deng, held := [], flight := [], limited := false, queue := [], free := c.depth, owed := 0, credits := []
      past := 0, creditsPast := 0
      sent := match c.src.core? with
        | some cid => lowestFree (s.outEntries cid)
        | none => 0
      dent := match c.dst.core? with
        | some cid => lowestFree (s.inEntries cid)
        | none => 0
      circuit := if c.vec then s.circuitFor graph c.src c.dst (rind.map fun x => x.1) else none
      rind }] }

/-- All channels of a list bound, in its order. -/
def State.bindChans (s : State) (graph : Nat) (cs : List PlanChan) : State := cs.foldl (fun st c => st.bindChan graph c) s

/-! ## Code (R22, R170) -/

/-- A block placed: core, context, pool offset, bytes. -/
structure PlacedBlock where
  cid : Nat
  ctx : Nat
  off : Nat
  bytes : List Byte
  deriving DecidableEq, Repr

/-- Do two ranges (start, length) share a byte? -/
def overlaps (a b : Nat × Nat) : Bool := a.1 < b.1 + b.2 && b.1 < a.1 + a.2

/-- The lowest offset at which `len` bytes lie free below a limit. -/
def firstFit (used : List (Nat × Nat)) (limit len : Nat) : Option Nat :=
  ((0 :: used.map fun u => u.1 + u.2).filter fun o => o + len ≤ limit && used.all fun u => !overlaps u (o, len)).foldl
    (fun acc o => match acc with
      | none => some o
      | some x => some (min x o)) none

/-- The blocks placed in free bytes of their cores' code parts; none where one does not fit (R170): one after another in the order
of actors and blocks, each at the lowest free offset that holds it (log entry 87). -/
def State.placeBlocks (s : State) (p : Plan) : List PlacedBlock → List (Nat × Nat × List Byte) → Option (List PlacedBlock)
  | done, [] => some done
  | done, (cid, ctx, b) :: rest =>
    let used := ((s.core cid).code.map fun x => (x.2.1, x.2.2)) ++ (done.filter fun d => d.cid == cid).map fun d => (d.off, d.bytes.length)
    match firstFit used (16384 * ((s.partnFor p cid).extractLsb' 0 6).toNat) b.length with
    | none => none
    | some o => s.placeBlocks p (done ++ [⟨cid, ctx, o, b⟩]) rest

/-! ## Data and save frames (R170, R179, R233, R355, R377) -/

/-- The wafer address of a byte of layer 3. -/
def layer3 (cid off : Nat) : Nat := dramAddr cid (3 * 2 ^ 24 + off)

/-- Bytes of a save frame at its greatest (R179). -/
def frameSize (queues : Nat) : Nat := (2560 + 64 + 1024 + queues + 4095) / 4096 * 4096

/-- Bytes of the input queues of a context. -/
def State.ctxQueues (s : State) (cid ctx : Nat) : Nat :=
  (s.chans.filter fun ch => ch.bound && ch.dst.onCtx cid ctx).foldl (fun n ch => n + queueBytes ch.vec ch.depth) 0

/-- The save frames in use, as address ranges. -/
def State.frames (s : State) : List (Nat × Nat) :=
  s.graphs.flatMap fun g => g.actors.map fun a =>
    (layer3 a.cid (s.ctxAt a.cid a.ctx).saveBase, frameSize (s.ctxQueues a.cid a.ctx.toNat))

/-- The data of a plan as ranges. -/
def Plan.ranges (p : Plan) : List (Nat × Nat) := p.data.map fun d => (d.1, d.2.length)

/-- Data keeps clear of other regions' data, of frames in use, of the chase spill areas and, where the core has an
accumulator partition, of the tile save areas (R170, R179, R355, R377). -/
def State.dataOk (s : State) (p : Plan) : Bool :=
  p.ranges.all fun r =>
    let cid := addrCore r.1
    !(s.graphs.any fun g => g.data.any fun x => overlaps x r) && !(s.frames.any fun x => overlaps x r)
      && (addrPool r.1 || (!overlaps r (layer3 cid 0xBBFC00, 0x40000)
        && (((s.partnFor p cid).extractLsb' 18 6 == 0) || !overlaps r (layer3 cid 0xBFFC00, 0x400400))))

/-- Is a frame's place free of the ranges given, and below the reserved bytes (R179)? -/
def frameFree (taken : List (Nat × Nat)) (cid off len : Nat) : Bool :=
  off + len ≤ 0xBBFC00 && !taken.any fun t => overlaps t (layer3 cid off, len)

/-- The highest multiple of 4,096 at or below 4,096 × n at which a frame is free. -/
def highestFrame (taken : List (Nat × Nat)) (cid len : Nat) : Nat → Option Nat
  | 0 => if frameFree taken cid 0 len then some 0 else none
  | n + 1 => if frameFree taken cid (4096 * (n + 1)) len then some (4096 * (n + 1)) else highestFrame taken cid len n

/-- The frames of a list of actors, each with its size, placed one after another (R179). -/
def placeFrames (taken : List (Nat × Nat)) : List (PlanActor × Nat) → Option (List (PlanActor × Nat))
  | [] => some []
  | (a, len) :: rest =>
    let off := match a.save with
      | some o => if frameFree taken a.cid o len then some o else none
      | none => highestFrame taken a.cid len ((0xBBF000 - len) / 4096)
    match off with
    | none => none
    | some o => (placeFrames ((layer3 a.cid o, len) :: taken) rest).map fun l => (a, o) :: l

/-- The save frames of a plan: those with `save=` first, then the others in the order of the images (R179; DESIGN CHOICE, log entry
87). -/
def State.planFrames (s : State) (p : Plan) (cs : List PlanChan) : Option (List (PlanActor × Nat)) :=
  let sized := p.actors.map fun a =>
    (a, frameSize ((cs.filter fun c => c.dst.onCtx a.cid a.ctx).foldl (fun n c => n + queueBytes c.vec c.depth) 0))
  placeFrames (s.frames ++ p.ranges ++ s.graphs.flatMap fun g => g.data)
    (sized.filter (fun a => a.1.save.isSome) ++ sized.filter fun a => a.1.save.isNone)

/-! ## The judgement -/

/-- What the loader has worked out for a plan it does not refuse. -/
structure Placement where
  plan : Plan
  chans : List PlanChan
  blocks : List PlacedBlock
  frames : List (PlanActor × Nat)
  deriving DecidableEq, Repr

/-- The placement of a plan, or none where the loader refuses the region (R4). -/
def State.placePlan (s : State) (graph : Nat) (p : Plan) : Option Placement :=
  let cs := p.channels s.barriers.length
  if s.coresOk p && s.actorsOk p && actorChannelsOk p cs && s.endsOk cs && s.entriesOk p cs && acyclic cs && s.registersOk p cs
      && (s.bindChans graph cs).circuitsOk && s.barriersOk p && (s.bindChans graph cs).waysOk graph p && s.rindsOk cs && p.barriers.all s.barrierJoins
      && s.dataOk p then
    match s.placeBlocks p [] (p.actors.flatMap fun a => a.blocks.map fun b => (a.cid, a.ctx, b)), s.planFrames p cs with
    | some bs, some fs => some ⟨p, cs, bs, fs⟩
    | _, _ => none
  else none

/-- Is an image's signature block one that R276 accepts under REQSIG? -/
def State.signedOk (s : State) (im : Image) : Bool :=
  !s.module.reqsig || match im.sig with
    | none => false
    | some (k, sg) => k < 8 && match assocGet s.module.graphKeys k with
      | some key => signatureOk key im.bytes sg
      | none => false

/-- The images of a request judged for a graph: what to apply, or the status that refuses them (R264, R276, R395). -/
def State.judge (s : State) (graph : Nat) (bytes : List Byte) : Except (BitVec 7) (List Image × Placement) :=
  match allImages (bytes.length / 64 + 1) bytes with
  | none => .error 0x07
  | some ims =>
    if !ims.all s.signedOk then .error 0x08
    else match (planOf graph ims).bind (s.placePlan graph) with
      | none => .error 0x07
      | some pl => .ok (ims, pl)

/-! ## Application (R169, R170) -/

/-- Bytes from `a` on cleared to 0, inside one DRAM region or one pool. -/
def State.clearBytes (s : State) (a n : Nat) : State :=
  { s with mem := memClear s.mem (s.place a) (s.place a + n)
           flaws := s.flaws.filter fun x => !(s.place a ≤ x.1 && x.1 < s.place a + n) }

/-- A context as at reset, but the sequence numbers of its requests and chases go on, so that a late answer meets none of a
later actor's (R82, R375, R383; log entry 80). -/
def Context.freed (c : Context) (n : BitVec 4) : Context := { Context.reset n with seq := c.seq, cseq := c.cseq }

/-- A core that no other region uses is cleared: pool, contexts and every core-scope item; its counters, TLB, chase
station, splices, holds and vertical bus stay (R170). -/
def Core.cleared (k : Core) (partn : Word) : Core :=
  { Core.reset with
    ctxs := Vector.ofFn fun i => k.ctxs[i.val].freed (BitVec.ofNat 4 i.val)
    partn
    counters := k.counters
    tlb := k.tlb
    station := k.station
    spill := k.spill
    unread := k.unread
    splices := k.splices
    holds := k.holds
    retrain := k.retrain
    busFailed := k.busFailed }

/-- What is marked of a core, or of one context of it, holds good values again (R260). -/
def State.unspot (s : State) (cid : Nat) (ctx : Option (BitVec 4)) : State :=
  { s with spots := s.spots.filter fun x => match x.1 with
      | .reg c n _ => !(c == cid && ctx.all (· == n))
      | .config c _ => !(c == cid && ctx.isNone)
      | _ => true }

/-- A core configured for a graph, but for the save headers in its column (R170). -/
def State.configureCore (s : State) (p : Plan) (graph cid : Nat) : State :=
  let k := s.core cid
  if k.users.isEmpty then
    ((s.setCore cid { k.cleared (s.partnFor p cid) with users := [graph] }).clearBytes (poolAddr cid 0) Config.poolBytes).unspot cid
      none
  else s.setCore cid { k with users := k.users ++ [graph] }

/-- What the configuration of a graph writes into DRAM columns, once their ports perform it: the save headers that it clears, of
every context on a core that no other region uses, else of the region's own; and the DRAM `.data` (R170, R233, R252, R355). -/
def State.columnWrites (s : State) (pl : Placement) : List (Nat × List Byte) :=
  let alone := pl.plan.cores.filter fun c => (s.core c).users.isEmpty
  alone.map (fun c => (headerAddr c 0 0, List.replicate 1024 0))
    ++ (pl.frames.filter fun a => !alone.contains a.1.cid).map (fun a =>
      (headerAddr a.1.cid (BitVec.ofNat 4 a.1.ctx) 0, List.replicate 64 0))
    ++ pl.plan.data.filter fun d => !addrPool d.1

/-- The channel that a port is bound to. -/
def State.portChan (s : State) (out : Bool) (cid ctx : Nat) (p : Nat) : Option Nat :=
  s.chans.findIdx? fun ch => ch.bound && (if out then ch.src else ch.dst) == .port cid ctx p

/-- CTXID of an actor's context (R19). -/
def ctxidWord (ctx graph actor : Nat) : Word := BitVec.ofNat 64 (ctx + graph * 2 ^ 16 + actor * 2 ^ 32)

/-- An actor bound to its context, with the resets of R11. -/
def State.bindActor (s : State) (graph : Nat) (bs : List PlacedBlock) (ended : Nat) (a : PlanActor) (save : Nat) : State :=
  let n : BitVec 4 := BitVec.ofNat 4 a.ctx
  let mine := bs.filter fun b => b.cid == a.cid && b.ctx == a.ctx
  (s.unspot a.cid (some n)).setCtxAt a.cid n { (s.ctxAt a.cid n).freed n with
    bound := true
    ctxid := ctxidWord a.ctx graph a.number
    pladder := a.ladder.getD (Context.reset n).pladder
    pbudget := a.budget.getD (Context.reset n).pbudget
    handlers := mine.map fun b => (blockHandler b.bytes, b.off)
    window := a.window
    saveBase := save
    inPort := Vector.ofFn fun i => s.portChan false a.cid a.ctx i.val
    outPort := Vector.ofFn fun i => s.portChan true a.cid a.ctx i.val
    invocations := ended }

/-- An entry of a router's multicast table replaced (R198); the group's packets under way are marked (R200). -/
def State.setMcast (s : State) (w x y g : Nat) (e : BitVec 32) : State :=
  let s1 := s.modHub (s.routerKey w x y) fun k => { k with
    mcast := if e = 0 then k.mcast.filter fun p => p.1 != g else assocSet k.mcast g e }
  { s1 with mcasts := s1.mcasts.map fun r => if r.wafer == w && r.group == g then { r with changed := true } else r }

/-- R199: the routers of a group's clusters joined into one tree, each marked with its links and its members. -/
def State.buildGroup (s : State) (g : Nat) (cores : List Nat) : State :=
  match cores with
  | [] => s
  | root :: _ =>
    let w := root / 65536
    let r0 := s.routerOf root
    let edges := s.groupEdges cores s.route
    let routers := r0 :: edges.map fun e => e.1
    routers.foldl (fun st r =>
      let links := edges.filterMap fun e => if e.1 == r then some (dirOf r e.2) else if e.2 == r then some (dirOf r e.1) else none
      let members := (cores.eraseDups.filter fun c => s.routerOf c == r).map fun c => c % 16
      let e := links.foldl (fun n d => n ||| 2 ^ dirBit d) (2 ^ 21 + if members.isEmpty then 0 else 2 ^ 16)
      st.setMcast w r.1 r.2 g (BitVec.ofNat 32 (members.foldl (fun n i => n ||| 2 ^ i) e))) s

/-- A barrier built (R202); an edit that builds it again resets its flags (R205). -/
def State.bindBarrier (s : State) (graph : Nat) (edited : Bool) (b : PlanBarrier) : State :=
  let me := s.barriers.length
  let done := s.chans.zipIdx.filterMap fun (ch, i) => if ch.bound && ch.src == .barrier me then some i else none
  let s1 := if edited then b.members.foldl (fun st c => st.modCore c fun k =>
      { k with arrive := setV k.arrive (BitVec.ofNat 3 b.ident) false }) s else s
  { s1 with barriers := s1.barriers ++ [{ bound := true, graph, ident := BitVec.ofNat 3 b.ident, all := b.all, prio := b.prio
                                          members := b.members.eraseDups, done, episode := 0, releasing := [] }] }

/-- The windows of a graph, one for each of its channels that ends there (R148). -/
def State.graphWindows (s : State) (graph ended : Nat) : List Window :=
  (s.chans.zipIdx.filterMap fun (ch, i) =>
    if !ch.bound || ch.graph != graph then none
    else some ((match ch.src with
        | .window _ n => [(⟨n, i, false, ended, false⟩ : Window)]
        | _ => []) ++ match ch.dst with
        | .window _ n => [⟨n, i, true, ended, false⟩]
        | _ => [])).flatten

/-- R169: a placement applied to every core of its region, but for what its columns are still to take; `old` is the graph's record before an edit. -/
def State.applyPlacement (s : State) (graph : BitVec 16) (pager : Bool) (ims : List Image) (pl : Placement) (old : Option Graph) :
    State :=
  let g := graph.toNat
  let p := pl.plan
  let ended := match old with
    | some o => o.ended
    | none => 0
  let s1 := p.cores.foldl (fun st c => st.configureCore p g c) s
  let s2 := (p.data.filter fun d => addrPool d.1).foldl (fun st d => st.writeBytes d.1 d.2) s1
  let s3 := pl.blocks.foldl (fun st b => (st.writeBytes (poolAddr b.cid b.off) b.bytes).modCore b.cid fun k =>
    { k with code := k.code ++ [(g, b.off, b.bytes.length)] }) s2
  let s4 := s3.bindChans g pl.chans
  let s5 := pl.frames.foldl (fun st a => st.bindActor g pl.blocks ended a.1 a.2) s4
  let s6 := p.barriers.foldl (fun st b => st.bindBarrier g old.isSome b) s5
  let s7 := p.groups.foldl (fun st x => st.buildGroup x.1 x.2) s6
  { s7 with
    graphs := s7.graphs ++ [{
      num := graph, st := .configuring, pager, root := p.root
      actors := p.actors.map fun a => ⟨a.cid, BitVec.ofNat 4 a.ctx⟩
      cores := p.cores
      windows := s7.graphWindows g ended
      launched := match old with
        | some o => o.launched
        | none => 0
      cap := none, ended, edit := none
      digest := digest (ims.flatMap fun i => i.bytes)
      data := p.ranges, writes := s.columnWrites pl, groups := p.groups, moved := false, resuming := false }]
    module := { s7.module with m2 := ims.foldl (fun m i => measure m i.bytes) s7.module.m2 } }

end Sys2Proof.Machine
end

