-- ==== Sys2Proof/Machine/PressSet.lean ====
section
/-!
DEFINITION. Sys2Proof/Machine/PressSet.lean: the mould and its plane sets: mould words (R330 to R332), the layout of a
set (R333), aligned integers (R346), and `mcfg`, `plda` and `pldb` (R332, R334).
-/

namespace Sys2Proof.Machine

/-! ## Set geometry (R330, R331, R333) -/

/-- Elements of a block code; 0 for none and for the reserved codes (R330). -/
def setBlockLen (code : Nat) : Nat := if 1 ≤ code ∧ code ≤ 4 then 8 * 2 ^ code else 0

/-- Elements of a GROUP code (R31). -/
def setGroupLen (code : Nat) : Nat := 32 * 2 ^ code

/-- What a set header says of its set (R333). -/
structure SetGeom where
  opb : Bool
  signed : Bool
  sc : Bool
  zp : Bool
  group : Nat
  block : Nat
  fmt : BitVec 5
  w : Nat
  k : Nat
  deriving DecidableEq, Repr

/-- The geometry in a header's first doubleword (R333). -/
def setGeom (h : Word) : SetGeom where
  opb := h.getLsbD 62
  signed := h.getLsbD 61
  sc := h.getLsbD 60
  zp := h.getLsbD 59
  group := if h.extractLsb' 56 3 = 0 then 0 else setGroupLen ((h.extractLsb' 56 3).toNat - 1)
  block := setBlockLen (h.extractLsb' 53 3).toNat
  fmt := h.extractLsb' 48 5
  w := (h.extractLsb' 43 5).toNat
  k := (h.extractLsb' 0 13).toNat + 1

/-- VALID and NREC of a header (R333). -/
def setValid (h : Word) : Bool := h.getLsbD 63
def setCount (h : Word) : Nat := (h.extractLsb' 13 21).toNat

/-- The group length of a set, 0 for none (R331). -/
def SetGeom.gamma (g : SetGeom) : Nat := if g.block ≠ 0 then g.block else g.group

/-- Rows of an A set, columns of a B set (R333). -/
def SetGeom.rows (g : SetGeom) : Nat := if g.opb then 128 else 64

/-- Digits of a B element (R333). -/
def SetGeom.digits (g : SetGeom) : Nat := (g.w + 7) / 8

/-- Blocks and scale groups of one row (R333). -/
def SetGeom.blocks (g : SetGeom) : Nat := if g.block = 0 then 0 else g.k / g.block
def SetGeom.groups (g : SetGeom) : Nat := if g.group = 0 then 0 else g.k / g.group

/-- The next multiple of 64. -/
def align64 (n : Nat) : Nat := (n + 63) / 64 * 64

/-- Bytes of the planes, and the offsets of the exponent, scale and zero-point areas from the header (R333). -/
def SetGeom.planeBytes (g : SetGeom) : Nat := if g.opb then g.k * g.digits * 128 else g.k * g.w * 8
def SetGeom.expOff (g : SetGeom) : Nat := 64 + align64 g.planeBytes
def SetGeom.scaleOff (g : SetGeom) : Nat := g.expOff + align64 (2 * g.rows * g.blocks)
def SetGeom.zeroOff (g : SetGeom) : Nat := g.scaleOff + (if g.sc then align64 (4 * g.rows * g.groups) else 0)

/-- Bytes from the header to the last byte of the set (R333). -/
def SetGeom.bytes (g : SetGeom) : Nat :=
  if g.zp then g.zeroOff + 2 * g.rows * g.groups
  else if g.sc then g.scaleOff + 4 * g.rows * g.groups
  else if g.block ≠ 0 then g.expOff + 2 * g.rows * g.blocks
  else 64 + g.planeBytes

/-! ## Elements in a set (R333) -/

/-- Element n of row or column `row` at step `k` stored as planes or digits. -/
def State.putAligned (s : State) (cid base : Nat) (g : SetGeom) (row k : Nat) (n : Int) : State :=
  let u := (n % 2 ^ g.w).toNat
  if g.opb then
    let v := u * 2 ^ (8 * g.digits - g.w)
    (List.range g.digits).foldl (fun t q =>
      t.writeByte (poolAddr cid (base + 64 + 128 * (k * g.digits + q) + row)) (BitVec.ofNat 8 (v / 256 ^ (g.digits - 1 - q)))) s
  else
    (List.range g.w).foldl (fun t p =>
      let a := poolAddr cid (base + 64 + 8 * (k * g.w + p) + row / 8)
      let m : Byte := BitVec.ofNat 8 (2 ^ (row % 8))
      t.writeByte a (if u / 2 ^ (g.w - 1 - p) % 2 = 1 then t.readByte a ||| m else t.readByte a &&& ~~~m)) s

/-- The aligned integer of row or column `row` at step `k`. -/
def State.getAligned (s : State) (cid base : Nat) (g : SetGeom) (row k : Nat) : Int :=
  let u := if g.opb then
      (List.range g.digits).foldl (fun acc q =>
        acc * 256 + (s.readByte (poolAddr cid (base + 64 + 128 * (k * g.digits + q) + row))).toNat) 0 / 2 ^ (8 * g.digits - g.w)
    else (List.range g.w).foldl (fun acc p =>
      2 * acc + (s.readByte (poolAddr cid (base + 64 + 8 * (k * g.w + p) + row / 8))).toNat / 2 ^ (row % 8) % 2) 0
  if g.signed && decide (2 ^ g.w ≤ 2 * u) then (u : Int) - 2 ^ g.w else u

/-- A signed halfword of a set's area. -/
def State.getHalf (s : State) (cid off : Nat) : Int := (BitVec.ofNat 16 (s.readLE (poolAddr cid off) 2)).toInt

/-! ## Aligned blocks (R346) -/

/-- The exponent entry and the integers that a block of values lands as. -/
def alignBlock (w : Nat) (vs : List ExNum) : Int × List Int :=
  if vs.any fun v => v.isNan then (0x7FFF, vs.map fun _ => 0)
  else if vs.any fun v => match v with
    | .inf _ => true
    | _ => false then (0x7FFE, vs.map fun _ => 0)
  else
    let es := vs.filterMap fun v => match v with
      | .fin _ m e => if m = 0 then none else some (ExNum.expOf m e)
      | _ => none
    match es with
    | [] => (0, vs.map fun _ => 0)
    | e :: rest =>
      let q := rest.foldl max e - ((w : Int) - 2)
      (q, vs.map fun v => match v with
        | .fin neg m x =>
          let n := roundAt 0 0 neg m x q
          if neg then -(n : Int) else if n = 2 ^ (w - 1) then n - 1 else n
        | _ => 0)

/-! ## Mould words (R330 to R332) -/

def mouldK (m : Word) : Nat := (m.extractLsb' 51 13).toNat + 1
def mouldFifo (m : Word) : Nat := (m.extractLsb' 43 8).toNat
def mouldBcode (m : Word) : BitVec 3 := m.extractLsb' 40 3
def mouldW (m : Word) : BitVec 5 := m.extractLsb' 35 5
def mouldFmt (m : Word) : BitVec 5 := m.extractLsb' 30 5
def mouldBase (m : Word) : Nat := (m.extractLsb' 10 20).toNat
def mouldPort (m : Word) : BitVec 4 := m.extractLsb' 3 4
def mouldFromPort (m : Word) : Bool := m.getLsbD 2
def mouldB (m : Word) : Bool := m.getLsbD 1

/-- The rows of the table "Press formats in the mould" (R331): integers with optional scales, raw codes with required
ones, blocked floats, MX formats. -/
inductive MouldKind where
  | plain | grouped | blocked | mx
  deriving DecidableEq, Repr

/-- A format's row, its widths and whether its sets are signed (R331). -/
def mouldRow (f : BitVec 5) : Option (MouldKind × Nat × Nat × Bool) :=
  match f.toNat with
  | 0x00 | 0x07 => some (.plain, 2, 2, true)
  | 0x01 => some (.plain, 4, 4, true)
  | 0x03 => some (.plain, 8, 8, true)
  | 0x02 => some (.plain, 4, 4, false)
  | 0x04 => some (.plain, 8, 8, false)
  | 0x05 => some (.grouped, 4, 4, false)
  | 0x06 => some (.grouped, 8, 8, false)
  | 0x08 | 0x09 | 0x0A | 0x0B | 0x0C | 0x0D | 0x0E | 0x0F => some (.blocked, 2, 24, true)
  | 0x10 | 0x11 | 0x12 => some (.mx, 2, 24, true)
  | 0x13 => some (.mx, 8, 8, true)
  | _ => none

def mouldKind (f : BitVec 5) : Option MouldKind := (mouldRow f).map fun r => r.1

/-- Fields of a captured `scl` (R31). -/
def sclBase (p : BitVec 25) : Reg := p.extractLsb' 20 5
def sclOff (p : BitVec 25) : Nat := 64 * (p.extractLsb' 10 10).toNat
def sclGroup (p : BitVec 25) : Nat := (p.extractLsb' 8 2).toNat
def sclFmt (p : BitVec 25) : BitVec 5 := p.extractLsb' 3 5
def sclZp (p : BitVec 25) : Bool := p.getLsbD 2

/-- Bytes of one scale (R98). -/
def sclSize (p : BitVec 25) : Nat := if sclFmt p = 0x17 then 1 else if sclFmt p = 0x0D then 2 else 4

/-- Are a set's scales kept in the set: not those of an MX block, which its exponent entry takes in (R334)? -/
def keepsScales (m : Word) (scl : Option (BitVec 25)) : Bool :=
  scl.isSome && (mouldKind (mouldFmt m) == some .plain || mouldKind (mouldFmt m) == some .grouped)

/-- The header that `mcfg` writes: VALID 0, NREC 0 (R332, R333). -/
def mouldHeader (m : Word) (scl : Option (BitVec 25)) : Word :=
  let sc := keepsScales m scl
  let signed := match mouldRow (mouldFmt m) with
    | some (_, _, _, b) => b
    | none => false
  let p := scl.getD 0
  BitVec.ofNat 64 ((if mouldB m then 2 ^ 62 else 0) + (if signed then 2 ^ 61 else 0) + (if sc then 2 ^ 60 else 0)
    + (if sc && sclZp p then 2 ^ 59 else 0) + (if sc then (sclGroup p + 1) * 2 ^ 56 else 0) + (mouldBcode m).toNat * 2 ^ 53
    + (mouldFmt m).toNat * 2 ^ 48 + (mouldW m).toNat * 2 ^ 43 + (mouldK m - 1))

/-- Groups of a scale array in one row, and the array's bytes, zero points included (R332). -/
def scalesPerRow (m : Word) (p : BitVec 25) : Nat := (mouldK m + setGroupLen (sclGroup p) - 1) / setGroupLen (sclGroup p)
def scaleBytes (m : Word) (p : BitVec 25) : Nat :=
  (if mouldB m then 128 else 64) * scalesPerRow m p * (sclSize p + (if sclZp p then 1 else 0))

/-- Is the mould word refused (R332, DETAIL 0x16)? -/
def mouldRefused (m : Word) (scl : Option (BitVec 25)) : Bool :=
  let block := setBlockLen (mouldBcode m).toNat
  let w := (mouldW m).toNat
  let g := if block ≠ 0 then block else match scl with
    | some p => setGroupLen (sclGroup p)
    | none => 0
  m.getLsbD 0 || m.extractLsb' 7 3 != 0
    || (match mouldRow (mouldFmt m) with
        | none => true
        | some (kind, lo, hi, _) =>
          w < lo || hi < w
            || (match kind with
                | .plain => mouldBcode m != 0
                | .grouped => mouldBcode m != 0 || scl.isNone
                | .blocked => block == 0
                | .mx => mouldBcode m != 2 || scl.isNone))
    || mouldFifo m != block || mouldK m % 16 != 0 || (g != 0 && mouldK m % g != 0)
    || (!mouldFromPort m && mouldPort m != 0)

/-- The DETAIL of the illegal-prefix fault of an `scl` that does not suit the format (R332). -/
def mouldPrefixFault (m : Word) (p : BitVec 25) : Option (BitVec 8) :=
  match mouldKind (mouldFmt m) with
  | some .blocked => some 0x01
  | some .plain => if (sclFmt p = 0x0D ∨ sclFmt p = 0x0F) ∧ !sclZp p then none else some 0x05
  | some .grouped => if sclFmt p = 0x0D then none else some 0x05
  | some .mx => if sclFmt p = 0x17 ∧ sclGroup p = 0 ∧ !sclZp p then none else some 0x05
  | none => none

/-- R330, R332: a mould slot configured, and its new set's header written. -/
def State.configureMould (s : State) (m : Word) (scl : Option (BitVec 25)) (scaleAt : Nat) : State :=
  let slot := if mouldB m then 1 else 0
  let h := mouldHeader m scl
  let s1 := s.modCur fun k => { k with
    moulds := k.moulds.setIfInBounds slot (some ⟨m, s.who, scaleAt, scl, []⟩) }
  (s1.poolWrite (mouldBase m) 8 h.toNat).poolWrite (mouldBase m + 8) 56 0

/-- R332: `mcfg`. -/
def execMcfg (a : Reg) (w : Bool) (s : State) : Answer :=
  let c := s.ctx
  let m := c.readS a
  let scl := c.chain.scl
  let srcs := match scl with
    | some p => [a, sclBase p]
    | none => [a]
  let scaleAt := match scl with
    | some p => (c.readS (sclBase p) + BitVec.ofNat 64 (sclOff p)).toNat
    | none => 0
  let scaleLen := match scl with
    | some p => scaleBytes m p
    | none => 0
  let port := if mouldFromPort m then portDetail (s.inChan c (mouldPort m)) true false else none
  .next (s.onSources w srcs
    (match port with
     | some d => s.trap 0x06 ((mouldPort m).setWidth 8) d 0
     | none =>
       if mouldBase m % 64 ≠ 0 then s.trap 0x03 (a.setWidth 8) 0 (BitVec.ofNat 64 (mouldBase m))
       else match s.cur.failsAt (mouldBase m) (setGeom (mouldHeader m scl)).bytes, s.cur.failsAt scaleAt scaleLen with
         | some x, _ => s.trap 0x04 (a.setWidth 8) 0 (BitVec.ofNat 64 x)
         | none, some x => s.trap 0x04 ((sclBase (scl.getD 0)).setWidth 8) 0 (BitVec.ofNat 64 x)
         | none, none =>
           s.withTiles none
             (if mouldRefused m scl then s.trap 0x01 (a.setWidth 8) 0x16 m
              else match scl.bind (mouldPrefixFault m) with
                | some d => s.trap 0x02 0 d (BitVec.ofNat 64 c.first)
                | none => (s.configureMould m scl scaleAt).retire id)))

/-! ## Deliveries (R334) -/

/-- Scale i of a mould's scale array widened to FP32, a NaN as R103 writes it, and its zero point (R108, R334). -/
def State.scaleOf (s : State) (cid : Nat) (m : Mould) (p : BitVec 25) (i : Nat) : BitVec 32 :=
  let x := s.readLE (poolAddr cid (m.scaleBase + sclSize p * i)) (sclSize p)
  toF32 0 0 ((if sclFmt p = 0x0D then fmtFP16 else fmtFP32).read x)
def State.zeroOf (s : State) (cid : Nat) (m : Mould) (p : BitVec 25) (g : SetGeom) (i : Nat) : Nat :=
  let x := (s.readByte (poolAddr cid (m.scaleBase + sclSize p * (g.rows * g.groups) + i))).toNat
  if g.fmt = 0x05 then x % 16 else x

/-- A run of elements landed at the row and step of its first element (R334, R346). -/
def State.land (s : State) (cid : Nat) (m : Mould) (g : SetGeom) (n0 : Nat) (run : List Lane) : State :=
  let base := mouldBase m.word
  let row := n0 / g.k
  let k0 := n0 % g.k
  let vals := run.map fun x => (fmtOf g.fmt).read x.toNat
  let put := fun (t : State) (ns : List Int) =>
    (List.range ns.length).foldl (fun t j => t.putAligned cid base g row (k0 + j) (ns.getD j 0)) t
  if g.rows ≤ row then s
  else if g.block ≠ 0 then
    let i := row * g.blocks + k0 / g.block
    let scale := if mouldKind g.fmt = some .mx then (fmtOf 0x17).read (s.readByte (poolAddr cid (m.scaleBase + i))).toNat
      else .fin false 1 0
    let (e, ns) := alignBlock g.w (vals.map fun v => ExNum.mul v scale)
    (put s ns).writeLE (poolAddr cid (base + g.expOff + 2 * i)) 2 (BitVec.ofInt 16 e).toNat
  else
    let ns := vals.map fun v => match v with
      | .fin neg x e => signedAt neg x e 0
      | _ => 0
    let s1 := put s ns
    match m.scl with
    | some p =>
      if g.sc && (k0 + run.length) % g.group == 0 then
        let i := row * g.groups + k0 / g.group
        let s2 := s1.writeLE (poolAddr cid (base + g.scaleOff + 4 * i)) 4 (s.scaleOf cid m p i).toNat
        if g.zp then s2.writeLE (poolAddr cid (base + g.zeroOff + 2 * i)) 2 (s.zeroOf cid m p g i) else s2
      else s1
    | none => s1

/-- Sixteen elements taken by a slot: the FIFO, the header's NREC and VALID, and the run that is now complete
(R334). -/
def State.feed (s : State) (cid : Nat) (slot : Nat) (m : Mould) (xs : List Lane) : State :=
  let base := poolAddr cid (mouldBase m.word)
  let h : Word := BitVec.ofNat 64 (s.readLE base 8)
  let g := setGeom (mouldHeader m.word m.scl)
  let n := setCount h + 16
  let run := m.fifo ++ xs
  let full := g.block ≤ run.length
  let s1 := if full then s.land cid m g (n - run.length) run else s
  let s2 := s1.modCore cid fun k => { k with
    moulds := k.moulds.setIfInBounds slot (some { m with fifo := if full then [] else run }) }
  let h1 := putBits h 13 (BitVec.ofNat 21 n)
  s2.writeLE base 8 (if n = g.rows * g.k then h1 ||| 0x8000000000000000 else h1).toNat

/-- `plda` and `pldb` (R323 step 2, R334). -/
def State.deliver (s : State) (b : Bool) (a : Reg) : State :=
  let c := s.ctx
  let slot := if b then 1 else 0
  match (s.cur.moulds[slot]?).join with
  | none => s.trap 0x01 0 0x14 0
  | some m =>
    let base := mouldBase m.word
    let port := mouldPort m.word
    let x := s.inChan c port
    if setValid (BitVec.ofNat 64 (s.poolRead base 8)) || (mouldFromPort m.word && a != 0) then
      s.trap 0x01 0 0x14 (BitVec.ofNat 64 base)
    else if m.owner ≠ s.who then s.trap 0x0A 0 0x0A 0
    else if !mouldFromPort m.word then s.withTiles none ((s.feed s.focus slot m (c.readV a).toList).retire id)
    else match portDetail x true (inIsEngine x), x with
      | some d, _ => s.trap 0x06 (port.setWidth 8) d 0
      | none, none => s.trap 0x06 (port.setWidth 8) 0x01 0
      | none, some (ci, ch) =>
        if getV c.consRem port = 0 then s.trap 0x05 (port.setWidth 8) 0x01 0
        else
          let t := ch.queue.headD ⟨0, 0, 0⟩
          let xs := (List.range 16).map fun i => if t.valid.getLsbD i then t.payload.extractLsb' (32 * i) 32 else 0
          s.withTiles none (((s.modChan ci Channel.pop).feed s.focus slot m xs).retire fun c => c.readPort port t.code)

/-- R334: sixteen elements to slot A. -/
def execPlda (a : Reg) (s : State) : Answer := .next (s.deliver false a)

/-- R334: sixteen elements to slot B. -/
def execPldb (a : Reg) (s : State) : Answer := .next (s.deliver true a)

end Sys2Proof.Machine
end

