-- ==== Sys2Proof/Machine/Press.lean ====
section
/-!
DEFINITION. Sys2Proof/Machine/Press.lean: the tile instructions (R324 to R329), accumulators (R341), the issue of `pmm`
and `tnorm` (R335 to R338, R341, R342) and `pstatus` (R342).
-/

namespace Sys2Proof.Machine

/-! ## Tiles (R324 to R326) -/

/-- A tile field (R28, R322). -/
def tileOf (r : Reg) : BitVec 3 := r.setWidth 3

/-- Is tile n shaped by the issuing context (R324)? -/
def State.ownsTile (s : State) (n : BitVec 3) : Bool :=
  shapeRows (s.cur.shape n) != 0 && shapeOwner (s.cur.shape n) == s.who

/-- An instruction that names tile n: the copies of R356, then tile unconfigured (R323 step 6, R324), then `k`, which is
given the state it goes on from. -/
def State.onTile (s : State) (n : BitVec 3) (k : State) : State :=
  s.withTiles (some n) (if s.ownsTile n then k else s.trap 0x0D (n.setWidth 8) 0 0)

/-- A write of tile n goes on where no queued command targets it (R323 step 8, R326). -/
def State.onFreeTile (s : State) (n : BitVec 3) (k : State) : State :=
  if s.cur.tileBusy n then s.trap 0x01 (n.setWidth 8) 0x15 0 else k

/-- Element (r, c) of tile n (R325). -/
def State.elem (s : State) (cid : Nat) (n : BitVec 3) (r c : Nat) : BitVec 32 :=
  BitVec.ofNat 32 (s.readLE (poolAddr cid ((s.core cid).elemAt n r c)) 4)

/-- Element (r, c) of tile n written. -/
def State.setElem (s : State) (cid : Nat) (n : BitVec 3) (r c : Nat) (x : BitVec 32) : State :=
  s.writeLE (poolAddr cid ((s.core cid).elemAt n r c)) 4 x.toNat

/-- The places of a shape, rows ascending and columns ascending within a row. -/
def cellsOf (rows cols : Nat) : List (Nat × Nat) :=
  (List.range (rows * cols)).map fun i => (i / cols, i % cols)

/-- The elements at some places written, and DIRTY set (R325). -/
def State.fillTile (s : State) (cid : Nat) (n : BitVec 3) (cells : List (Nat × Nat)) (f : Nat → Nat → BitVec 32) : State :=
  (cells.foldl (fun t p => t.setElem cid n p.1 p.2 (f p.1 p.2)) s).setDirty cid n true

/-- R324: s[a] to TSHAPEn, as `csrw`. -/
def execTshp (d a : Reg) (w : Bool) (s : State) : Answer :=
  .next (s.onSources w [a] (s.csrWrite (0x010 ||| (tileOf d).setWidth 12) (s.ctx.readS a)))

/-- R325: +0.0 to every element of the shape. -/
def execTclr (d : Reg) (s : State) : Answer :=
  let n := tileOf d
  let sh := s.cur.shape n
  .next (s.onTile n (s.onFreeTile n
    ((s.fillTile s.focus n (cellsOf (shapeRows sh) (shapeCols sh)) fun _ _ => 0).retire id)))

/-- R329: tile n to the issuing context's save area; PEND stays as it is (R356). -/
def execTsave (d : Reg) (s : State) : Answer :=
  let n := tileOf d
  let sh := s.cur.shape n
  .next (s.onTile n (s.withSaveArea s.focus s.who n s.who
    ((s.saveTile s.focus s.who n ((s.saveHeader s.focus s.who n).getLsbD 62) (shapeBytes sh)).retire id)))

/-- R329: the saved image of tile n brought back. -/
def execTrest (d : Reg) (s : State) : Answer :=
  let n := tileOf d
  let h := s.saveHeader s.focus s.who n
  .next (s.withTiles (some n)
    (if !h.getLsbD 63 then s.trap 0x0D (n.setWidth 8) 0 0
     else if !s.cur.shapeFits n.toNat h then s.trap 0x0E (n.setWidth 8) 0x03 0
     else s.onFreeTile n (s.withSaveArea s.focus s.who n s.who ((s.restoreTile s.focus s.who n (shapeBytes h)).retire id))))

/-! ## Slices (R327) -/

/-- The places of a slice, lane 0 first. -/
def sliceCells (row : Bool) (x : Word) : List (Nat × Nat) :=
  let i := if row then x.toNat % 64 else x.toNat % 128
  let g := if row then x.toNat / 256 % 8 else x.toNat / 256 % 4
  (List.range 16).map fun j => if row then (i, 16 * g + j) else (16 * g + j, i)

/-- The bits that a slice index names (R327). -/
def sliceBits (row : Bool) : Word := if row then 0x73F else 0x37F

/-- Is a place inside a shape? -/
def inShape (sh : Word) (p : Nat × Nat) : Bool := p.1 < shapeRows sh && p.2 < shapeCols sh

/-- Does a slice lie wholly outside the shape: its first place does (R327)? -/
def sliceOut (row : Bool) (sh x : Word) : Bool :=
  match sliceCells row x with
  | p :: _ => !inShape sh p
  | [] => true

/-- The checks of a slice move (R323, R327); `k` is the move. -/
def State.onSlice (s : State) (row : Bool) (n : BitVec 3) (a : Reg) (w : Bool) (k : State) : State :=
  let x := s.ctx.readS a
  s.onSources w [a]
    (if x &&& ~~~(sliceBits row) ≠ 0 then s.trap 0x01 (a.setWidth 8) 0x0E x
     else s.onTile n (if sliceOut row (s.cur.shape n) x then s.trap 0x01 (a.setWidth 8) 0x14 0 else k))

/-- The lanes that a slice reads: 0 outside the shape (R327). -/
def State.sliceRead (s : State) (row : Bool) (n : BitVec 3) (x : Word) : Lanes :=
  Vector.ofFn fun i =>
    let p := (sliceCells row x).getD i.val (0, 0)
    if inShape (s.cur.shape n) p then s.elem s.focus n p.1 p.2 else 0

/-- A slice written: lanes outside the shape are discarded (R327). -/
def State.sliceWrite (s : State) (row : Bool) (n : BitVec 3) (x : Word) (v : Lanes) : State :=
  let lane := fun (r c : Nat) => v.toList.getD ((if row then c else r) % 16) 0
  s.fillTile s.focus n ((sliceCells row x).filter (inShape (s.cur.shape n))) lane

/-- R327: row slice to v[d]. -/
def execTrowRd (d a b : Reg) (w : Bool) (s : State) : Answer :=
  .next (s.onSlice true (tileOf b) a w (s.retire fun c => c.writeV d (s.sliceRead true (tileOf b) (c.readS a))))

/-- R327: v[d] to a row slice. -/
def execTrowWr (d a b : Reg) (w : Bool) (s : State) : Answer :=
  .next (s.onSlice true (tileOf b) a w (s.onFreeTile (tileOf b)
    ((s.sliceWrite true (tileOf b) (s.ctx.readS a) (s.ctx.readV d)).retire id)))

/-- R327: column slice to v[d]. -/
def execTcolRd (d a b : Reg) (w : Bool) (s : State) : Answer :=
  .next (s.onSlice false (tileOf b) a w (s.retire fun c => c.writeV d (s.sliceRead false (tileOf b) (c.readS a))))

/-- R327: v[d] to a column slice. -/
def execTcolWr (d a b : Reg) (w : Bool) (s : State) : Answer :=
  .next (s.onSlice false (tileOf b) a w (s.onFreeTile (tileOf b)
    ((s.sliceWrite false (tileOf b) (s.ctx.readS a) (s.ctx.readV d)).retire id)))

/-! ## Loads and stores (R328) -/

/-- Bytes of an element in the pool: 4 for FP32, 2 for FP16 and BF16. -/
def poolElem (f : BitVec 5) : Nat := if f = 0x0F then 4 else 2

/-- A + r × S + c × z, modulo 2^64. -/
def tileByte (a st : Word) (z r c : Nat) : Nat := (a + BitVec.ofNat 64 r * st + BitVec.ofNat 64 (c * z)).toNat

/-- The lowest byte of a transfer outside the scratchpad. -/
def State.tileFails (s : State) (sh a st : Word) (z : Nat) : Option Nat :=
  ((cellsOf (shapeRows sh) (shapeCols sh)).filterMap fun p => s.cur.failsAt (tileByte a st z p.1 p.2) z).foldl
    (fun acc x => match acc with
      | none => some x
      | some y => some (min x y)) none

/-- The checks of `tld` and `tst`: step 6 before steps 4 and 5 (R323). -/
def State.onTransfer (s : State) (n : BitVec 3) (a b : Reg) (z : Nat) (w : Bool) (k : State) : State :=
  let c := s.ctx
  let x := c.readS a
  let st := c.readS b
  s.onSources w [a, b] (s.onTile n
    (if x.toNat % z ≠ 0 then s.trap 0x03 (a.setWidth 8) 0 x
     else if st.toNat % z ≠ 0 then s.trap 0x03 (b.setWidth 8) 0 st
     else match s.tileFails (s.cur.shape n) x st z with
       | some y => s.trap 0x04 (a.setWidth 8) 0 (BitVec.ofNat 64 y)
       | none => k))

/-- An element of a pool format widened to FP32, exactly; a NaN becomes the one of R103 (R328). -/
def widen (f : BitVec 5) (x : Nat) : BitVec 32 := toF32 0 0 ((fmtOf f).read x)

/-- R328: the shaped elements from the scratchpad. -/
def execTld (d a b : Reg) (w : Bool) (s : State) : Answer :=
  let n := tileOf d
  let c := s.ctx
  let f := c.chain.afmt.getD 0x0F
  let z := poolElem f
  let sh := s.cur.shape n
  .next (s.onTransfer n a b z w (s.onFreeTile n
    ((s.fillTile s.focus n (cellsOf (shapeRows sh) (shapeCols sh)) fun i j =>
        widen f (s.poolRead (tileByte (c.readS a) (c.readS b) z i j) z)).retire id)))

/-- R328: the shaped elements to the scratchpad, each converted once. -/
def execTst (d a b : Reg) (w : Bool) (s : State) : Answer :=
  let n := tileOf d
  let c := s.ctx
  let f := c.chain.dfmt.getD 0x0F
  let z := poolElem f
  let sh := s.cur.shape n
  let code := fun (i j : Nat) => (fmtOf f).write (c.chain.mode 0) c.chain.sat 0 (f32 (s.elem s.focus n i j))
  .next (s.onTransfer n a b z w
    (((cellsOf (shapeRows sh) (shapeCols sh)).foldl (fun t p =>
        t.poolWrite (tileByte (c.readS a) (c.readS b) z p.1 p.2) z (code p.1 p.2)) s).retire id))

/-! ## Accumulators and status (R341, R342) -/

/-- R341: every cell of aM to 0. -/
def execArst (d : Reg) (s : State) : Answer :=
  let m : BitVec 2 := d.setWidth 2
  .next (s.withTiles none
    (if s.cur.accBusy m then s.trap 0x01 (d.setWidth 8) 0x15 0
     else (s.modCur fun k => { k with acc := setV k.acc m [], accUser := setV k.accUser m (some s.who) }).retire id))

/-- The press status word (R342). -/
def Core.pressStatus (k : Core) : Word :=
  let slot := fun (i : Nat) => (k.moulds[i]?).join
  let owner := fun (i : Nat) => match slot i with
    | some m => m.owner.toNat
    | none => 0
  let busyT := (List.range 8).foldl (fun n i => n + if k.tileBusy (BitVec.ofNat 3 i) then 2 ^ i else 0) 0
  let busyA := (List.range 4).foldl (fun n i => n + if k.accBusy (BitVec.ofNat 2 i) then 2 ^ i else 0) 0
  BitVec.ofNat 64 (owner 1 * 2 ^ 24 + owner 0 * 2 ^ 20 + busyA * 2 ^ 16 + busyT * 2 ^ 8 + k.pressQ.length % 8 * 32
    + (if (slot 1).isSome then 8 else 0) + (if (slot 0).isSome then 4 else 0))

/-- R342: the press status to s[d]. -/
def execPstatus (d : Reg) (s : State) : Answer :=
  .next (s.withTiles none (s.retire fun c => c.writeS d s.cur.pressStatus))

/-! ## Commands at issue (R335 to R338, R341, R342) -/

/-- Rungs, widths of a rung (R20). -/
def rungs (ladder : Word) : Nat := (ladder.extractLsb' 40 2).toNat
def rungA (ladder : Word) (i : Nat) : Nat := (ladder.extractLsb' (10 * i) 5).toNat
def rungB (ladder : Word) (i : Nat) : Nat := (ladder.extractLsb' (10 * i + 5) 5).toNat

/-- The refusal of a `pmm` with DETAIL 0x14: its OPERAND and FADDR (R335, R337, R338, R341). -/
def pmmRefusal (a b : Reg) (abase bbase : Nat) (ha hb ladder : Word) (keep : Bool) : Option (Reg × Nat) :=
  let ga := setGeom ha
  let gb := setGeom hb
  let wide := fun (f : Nat → Nat) (w : Nat) => (List.range (rungs ladder + 1)).any fun i => w < f i
  if !setValid ha || ga.opb then some (a, abase)
  else if !setValid hb || !gb.opb then some (b, bbase)
  else if ga.k ≠ gb.k then some (b, bbase)
  else if ga.gamma ≠ 0 ∧ gb.gamma ≠ 0 ∧ ga.gamma ≠ gb.gamma then some (b, bbase)
  else if wide (rungA ladder) ga.w then some (a, abase)
  else if wide (rungB ladder) gb.w then some (b, bbase)
  else if keep && (ga.block != 0 || ga.sc) then some (a, abase)
  else if keep && (gb.block != 0 || gb.sc) then some (b, bbase)
  else none

/-- A command queued, its completion register marked empty; a full queue parks (R337, R342). -/
def State.queuePress (s : State) (d : Reg) (p : PressCmd) : State :=
  if s.cur.pressFull then (s.countMe 0x050).parkAs .press
  else (s.modCur fun k => { k with pressQ := k.pressQ ++ [p] }).retire fun c => c.markEmpty d

/-- A command as it stands when it is queued. -/
def State.pressCmd (s : State) (isPmm : Bool) (d : Reg) (cmd bw ha hb : Word) (f : BitVec 32) (tile : BitVec 3)
    (acc : BitVec 2) (zt : Bool) : PressCmd where
  isPmm := isPmm
  ctx := s.who
  graph := s.ctx.graph
  dreg := d
  cmdWord := cmd
  bWord := bw
  ladder := s.ctx.pladder
  budget := s.ctx.pbudget
  fscale := f
  hdrA := ha
  hdrB := hb
  shape := s.cur.shape tile
  tile := tile
  acc := acc
  zt := zt
  phase := .queued
  rung := 0
  replays := 0
  chkr := 0
  rerun := false
  rst := false
  atk := false
  err := false
  scnt := 0
  ucnt := 0
  ccnt := 0
  bex := false
  snapshot := []
  result := []
  acq := s.writesOf s.focus s.who
  left := 2
  back := false

/-- The bits of a command word (R336). -/
def cmdKeep (x : Word) : Bool := x.getLsbD 30
def cmdAcq (x : Word) : Bool := x.getLsbD 25
def cmdScope (x : Word) : BitVec 3 := x.extractLsb' 27 3
def cmdBase (x : Word) : Nat := (x.extractLsb' 0 20).toNat

/-- R337: a matrix multiply queued. -/
def execPmm (d a b f : Reg) (w : Bool) (s : State) : Answer :=
  let c := s.ctx
  let x := c.readS a
  let y := c.readS b
  let ab := cmdBase x
  let bb := cmdBase y
  let keep := cmdKeep x
  let tile : BitVec 3 := x.extractLsb' 20 3
  let ha : Word := BitVec.ofNat 64 (s.poolRead ab 8)
  let hb : Word := BitVec.ofNat 64 (s.poolRead bb 8)
  let go := match pmmRefusal a b ab bb ha hb c.pladder keep with
    | some (r, at_) => s.trap 0x01 (r.setWidth 8) 0x14 (BitVec.ofNat 64 at_)
    | none => s.queuePress d (s.pressCmd true d x y ha hb (c.readF f) tile (x.extractLsb' 23 2) (x.getLsbD 31))
  .next (s.onSources w [a, b]
    (if x.toNat / 2 ^ 32 ≠ 0 ∨ 4 < (cmdScope x).toNat then s.trap 0x01 (a.setWidth 8) 0x0E x
     else if y.toNat / 2 ^ 20 ≠ 0 then s.trap 0x01 (b.setWidth 8) 0x0E y
     else if ab % 64 ≠ 0 then s.trap 0x03 (a.setWidth 8) 0 (BitVec.ofNat 64 ab)
     else if bb % 64 ≠ 0 then s.trap 0x03 (b.setWidth 8) 0 (BitVec.ofNat 64 bb)
     else match s.cur.failsAt ab 64, s.cur.failsAt bb 64 with
       | some z, _ => s.trap 0x04 (a.setWidth 8) 0 (BitVec.ofNat 64 z)
       | none, some z => s.trap 0x04 (b.setWidth 8) 0 (BitVec.ofNat 64 z)
       | none, none => if keep then s.withTiles none go else s.onTile tile go))

/-- R341: a normalisation queued. -/
def execTnorm (d a b : Reg) (z : Bool) (s : State) : Answer :=
  let n := tileOf a
  .next (s.onTile n (s.queuePress d (s.pressCmd false d 0 0 0 0 0 n (b.setWidth 2) z)))

end Sys2Proof.Machine
end

