-- ==== Sys2Proof/Machine/PressRun.lean ====
section
/-!
DEFINITION. Sys2Proof/Machine/PressRun.lean: the press's own events: a command starts (R340, R354, R357), a pass ends
with its sum, monitors and checks (R347 to R353), and a commit ends (R337, R339, R341, R354).
-/

namespace Sys2Proof.Machine

/-! ## What a pass reads (R347, R349, R350) -/

/-- One group of a row of A or a column of B: the integers read at the rung, zero point, exponent, scale, and whether
the group is special (R349, R350). -/
structure PressGroup where
  vals : List Int
  zp : Int
  exp : Int
  scale : ExNum
  special : Bool

/-- An integer with its low bits taken as 0 (R347). -/
def truncLow (drop : Nat) (n : Int) : Int := n / 2 ^ drop * 2 ^ drop

/-- Is a number an infinity or a NaN? -/
def ExNum.notFinite : ExNum → Bool
  | .fin .. => false
  | _ => true

/-- Group g of a row of a set, of Γ elements. -/
def State.pressGroup (s : State) (cid base : Nat) (t : SetGeom) (drop gamma row g : Nat) : PressGroup :=
  let e : Int := if t.block = 0 then 0 else s.getHalf cid (base + t.expOff + 2 * (row * t.blocks + g))
  let sc := if t.sc then f32 (BitVec.ofNat 32 (s.readLE (poolAddr cid (base + t.scaleOff + 4 * (row * t.groups + g))) 4))
    else .fin false 1 0
  { vals := (List.range gamma).map fun k => truncLow drop (s.getAligned cid base t row (g * gamma + k))
    zp := if t.zp then s.getHalf cid (base + t.zeroOff + 2 * (row * t.groups + g)) else 0
    exp := e
    scale := sc
    special := e == 0x7FFE || e == 0x7FFF || ExNum.notFinite sc }

/-- Sums over two rows of integers. -/
def dot (f : Int → Int → Int) : List Int → List Int → Int
  | x :: xs, y :: ys => f x y + dot f xs ys
  | _, _ => 0

def total : List Int → Int
  | [] => 0
  | x :: xs => x + total xs

/-- A result element on its way: its FP32 bits, saturated, cancelled. -/
structure PressElem where
  bits : BitVec 32
  sat : Bool
  canc : Bool

/-- The value G of a group, and whether its rounding overflows (R349, R350). -/
def groupValue (a b : PressGroup) (f : ExNum) (z : Int) : Rounded :=
  if a.special || b.special || ExNum.notFinite f then fmtFP32.write 0 0 0 .nan
  else fmtFP32.write 0 0 0 (ExNum.mul (ExNum.mul (ExNum.mul (ExNum.scale (a.exp + b.exp) (ExNum.ofInt z)) a.scale) b.scale) f)

/-- Does a group cancel beyond CDEPTH (R351)? -/
def cancels (depth : Nat) (m z : Int) : Bool :=
  m != 0 && (z == 0 || depth + Nat.log2 z.natAbs < Nat.log2 m.natAbs)

/-- One group added into an element (R349, R351). -/
def addGroup (gamma depth : Nat) (f : ExNum) (r : PressElem) (a b : PressGroup) : PressElem :=
  let z := dot (fun x y => x * y) a.vals b.vals - b.zp * total a.vals - a.zp * total b.vals + gamma * a.zp * b.zp
  let m := dot (fun x y => ((x - a.zp).natAbs * (y - b.zp).natAbs : Nat)) a.vals b.vals
  let g := groupValue a b f z
  let t := fmtFP32.write 0 0 0 (ExNum.add false (f32 r.bits) (fmtFP32.read g.code))
  { bits := BitVec.ofNat 32 t.code
    sat := r.sat || g.ovf || t.ovf
    canc := r.canc || cancels depth m z }

/-- The groups of every element of a row with those of a column, in ascending order. -/
def addGroups (gamma depth : Nat) (f : ExNum) : PressElem → List PressGroup → List PressGroup → PressElem
  | r, a :: as, b :: bs => addGroups gamma depth f (addGroup gamma depth f r a b) as bs
  | r, _, _ => r

/-- A count that stops at 0xFFFF (R351). -/
def capped (n : Nat) : Nat := min n 0xFFFF

/-- What a pass forms: the counts, the result buffer and, with KEEP, the products. -/
structure PassResult where
  scnt : Nat
  ucnt : Nat
  ccnt : Nat
  result : List (Nat × BitVec 32)
  sums : List (Nat × BitVec 80)

/-- Elements of a set that a rung loses whole: nonzero and below the planes read (R351). -/
def State.lostOf (s : State) (cid base : Nat) (t : SetGeom) (drop rows : Nat) : Nat :=
  (List.range rows).foldl (fun acc r => (List.range t.k).foldl (fun n k =>
    let x := s.getAligned cid base t r k
    if x ≠ 0 ∧ x.natAbs < 2 ^ drop then n + 1 else n) acc) 0

/-- The base that a product is added to: +0.0 with ZT, else the tile's element as the result buffer took it at the start of the
pass (R337, R349). -/
def PressCmd.baseOf (p : PressCmd) (r c : Nat) : BitVec 32 := if p.zt then 0 else (assocGet p.result (r * 128 + c)).getD 0

/-- The cycles of a pass: of a `pmm` at its rung, of a `tnorm` (R340). -/
def PressCmd.passLength (p : PressCmd) : Nat :=
  if p.isPmm then 12 + (setGeom p.hdrA).k * rungA p.ladder p.rung * ((rungB p.ladder p.rung + 7) / 8) else 12

/-- A command whose pass begins: the result buffer takes the tile's elements within the shape, none with ZT or KEEP (R340, R349). -/
def State.beginPass (s : State) (cid : Nat) (p : PressCmd) : PressCmd :=
  { p with
    result := if p.zt || p.isPmm && cmdKeep p.cmdWord then []
      else (cellsOf (shapeRows p.shape) (shapeCols p.shape)).map fun q => (q.1 * 128 + q.2, s.elem cid p.tile q.1 q.2)
    left := p.passLength }

/-- The cycles from the last pass to the filling of the register: a commit of ROWS cycles, none with KEEP or where nothing is
committed, and 2 more (R340). -/
def PressCmd.commitLength (p : PressCmd) : Nat := if p.err || p.isPmm && cmdKeep p.cmdWord then 2 else shapeRows p.shape + 2

/-- A pass of a `pmm` at its rung (R347 to R351). -/
def State.pmmPass (s : State) (cid : Nat) (p : PressCmd) : PassResult :=
  let ga := setGeom p.hdrA
  let gb := setGeom p.hdrB
  let ab := cmdBase p.cmdWord
  let bb := cmdBase p.bWord
  let da := ga.w - rungA p.ladder p.rung
  let db := gb.w - rungB p.ladder p.rung
  let keep := cmdKeep p.cmdWord
  let rows := if keep then 64 else shapeRows p.shape
  let cols := if keep then 128 else shapeCols p.shape
  let gamma := if ga.gamma ≠ 0 then ga.gamma else if gb.gamma ≠ 0 then gb.gamma else ga.k
  let groups := fun (base : Nat) (t : SetGeom) (drop row : Nat) =>
    (List.range (ga.k / gamma)).map fun g => s.pressGroup cid base t drop gamma row g
  let ucnt := capped (s.lostOf cid ab ga da rows + s.lostOf cid bb gb db cols)
  let as := (List.range rows).map (groups ab ga da)
  let bs := (List.range cols).map (groups bb gb db)
  if keep then
    { scnt := 0, ucnt := ucnt, ccnt := 0, result := []
      sums := (cellsOf rows cols).map fun q =>
        (q.1 * 128 + q.2, BitVec.ofInt 80 (dot (fun x y => x * y)
          ((as.getD q.1 []).flatMap fun g => g.vals) ((bs.getD q.2 []).flatMap fun g => g.vals))) }
  else
    let depth := (p.budget.extractLsb' 48 8).toNat
    let es := (cellsOf rows cols).map fun q =>
      (q.1 * 128 + q.2, addGroups gamma depth (f32 p.fscale) ⟨p.baseOf q.1 q.2, false, false⟩
        (as.getD q.1 []) (bs.getD q.2 []))
    { scnt := capped (es.countP fun e => e.2.sat), ucnt := ucnt, ccnt := capped (es.countP fun e => e.2.canc)
      result := es.map fun e => (e.1, e.2.bits), sums := [] }

/-- A cell of an accumulator (R341). -/
def Core.cell (k : Core) (m : BitVec 2) (i : Nat) : BitVec 80 := (assocGet (getV k.acc m) i).getD 0

/-- The normaliser pass of a `tnorm` (R341). -/
def State.tnormPass (s : State) (cid : Nat) (p : PressCmd) : PassResult :=
  let es := (cellsOf (shapeRows p.shape) (shapeCols p.shape)).map fun q =>
    let i := q.1 * 128 + q.2
    (i, fmtFP32.write 0 0 0 (ExNum.add false (f32 (p.baseOf q.1 q.2)) (ExNum.ofInt ((s.core cid).cell p.acc i).toInt)))
  { scnt := capped (es.countP fun e => e.2.ovf), ucnt := 0, ccnt := 0
    result := es.map fun e => (e.1, BitVec.ofNat 32 e.2.code), sums := [] }

/-! ## Events -/

/-- The running command, or the one that starts next: the first of the queue. -/
def State.pressHead (s : State) (cid : Nat) : Option PressCmd := (s.core cid).pressQ.head?

/-- The first command of the queue changed. -/
def State.setPressHead (s : State) (cid : Nat) (p : PressCmd) : State :=
  s.modCore cid fun k => { k with pressQ := p :: k.pressQ.drop 1 }

/-- An event of the context that issued a command (R358). -/
def State.countPress (s : State) (cid code : Nat) (p : PressCmd) : State := s.count cid code (some (p.ctx, p.graph))

/-- May a queued command read its first plane: it asks for no acquire, or every earlier write of its context is visible
within its scope (R317)? -/
def State.pressAcquired (s : State) (cid : Nat) (p : PressCmd) : Bool :=
  !(p.isPmm && cmdAcq p.cmdWord) || p.acq.all fun id => !s.invisible (scopeCode (cmdScope p.cmdWord)) cid id

/-- Step 2 of R356 for the tile of a restarted command (R357). -/
def State.restoreFor (s : State) (cid : Nat) (p : PressCmd) : State :=
  if p.rst && p.targets p.tile && s.restoreDue cid p.ctx p.tile then
    let k := s.core cid
    let s1 := if k.foreignDirty p.ctx p.tile then s.saveTile cid (shapeOwner (k.shape p.tile)) p.tile true rowBytes else s
    s1.restoreTile cid p.ctx p.tile rowBytes
  else s

/-- The cycles of its copies: 8 + 16 × ROWS for each (R356). -/
def State.restoreCycles (s : State) (cid : Nat) (p : PressCmd) : Nat :=
  let k := s.core cid
  if p.rst && p.targets p.tile && s.restoreDue cid p.ctx p.tile then
    (if k.foreignDirty p.ctx p.tile then 8 + 16 * shapeRows (k.shape p.tile) else 0)
      + 8 + 16 * shapeRows ((s.restoreFor cid p).core cid |>.shape p.tile)
  else 0

/-- Released commands re-enter the queue behind those in it, in their order and as far as entries are free, marked restarted, and
are counted (R342, R357). -/
def State.refillPress (s : State) (cid : Nat) : State :=
  let k := s.core cid
  let back := (k.held.filter fun p => p.back).take (4 - k.pressQ.length)
  if back.isEmpty then s else
  let s1 := s.setCore cid { k with
    pressQ := k.pressQ ++ back.map fun p => { p with rst := true, back := false }
    held := back.foldl (fun l p => l.erase p) k.held }
  back.foldl (fun st p => st.countPress cid 0x06F p) s1

/-- R340, R354: the first queued command starts, no earlier than 2 cycles after its issue, with a new snapshot of its
accumulator. -/
def execPressCommandStart (cid : Nat) (s0 : State) : Answer :=
  let s := s0.refillPress cid
  match s.pressHead cid with
  | none => .next s
  | some p =>
    if p.phase ≠ .queued || p.left ≠ 0 || !s.pressAcquired cid p then .next s
    else if p.rst && p.targets p.tile && s.restoreDue cid p.ctx p.tile && s.saveAreaPort cid p.ctx p.tile != .open_ then
      .next (s.withSaveArea cid p.ctx p.tile p.ctx s)
    else
      let s1 := s.restoreFor cid p
      let q := s1.beginPass cid { p with
        phase := .running
        rung := 0
        replays := 0
        chkr := 0
        rerun := false
        snapshot := getV (s.core cid).acc p.acc }
      .next ((s1.setPressHead cid { q with left := q.left + s.restoreCycles cid p }).countPress cid 0x068 p)

/-- The nonzero cells of an accumulator after sums are added to a snapshot (R341). -/
def addCells (snap sums : List (Nat × BitVec 80)) : List (Nat × BitVec 80) :=
  (sums.map fun x => (x.1, (assocGet snap x.1).getD 0 + x.2)).filter fun x => x.2 != 0

/-- A command whose pass is good: it commits, or is squashed where a count exceeds its limit and a rung is left
(R352). -/
def State.decidePass (s : State) (cid : Nat) (p : PressCmd) (r : PassResult) : State :=
  let past := (p.budget.extractLsb' 16 16).toNat < r.ucnt || (p.budget.extractLsb' 0 16).toNat < r.scnt
    || (p.budget.extractLsb' 32 16).toNat < r.ccnt
  if p.isPmm && past && p.rung < rungs p.ladder then
    ((s.setPressHead cid (s.beginPass cid { p with rung := p.rung + 1, replays := p.replays + 1, rerun := false })).countPress cid
      (0x069 + p.rung) p).countPress cid 0x068 p
  else
    let q := { p with
      phase := .committing
      scnt := r.scnt
      ucnt := r.ucnt
      ccnt := r.ccnt
      bex := p.isPmm && past
      result := r.result
      left := p.commitLength }
    let s1 := s.setPressHead cid q
    let s2 := if p.isPmm && cmdKeep p.cmdWord then
        s1.modCore cid fun k => { k with acc := setV k.acc p.acc (addCells p.snapshot r.sums) }
      else s1
    if q.bex then s2.countPress cid 0x06D p else s2

/-- R352, R353: a pass ends, after its cycles (R340). A checksum that fails runs the pass once more at its rung; a second failure ends the
command with ERR and machine check 0x08. A `tnorm` has no checksum. -/
def execPressPassEnd (cid : Nat) (mismatch : Bool) (s : State) : Answer :=
  match s.pressHead cid with
  | none => .next s
  | some p =>
    if p.phase ≠ .running || p.left ≠ 0 || (mismatch && !p.isPmm) then .next s
    else
      let r := if p.isPmm then s.pmmPass cid p else s.tnormPass cid p
      if mismatch && !p.rerun then
        .next (((s.setPressHead cid (s.beginPass cid { p with rerun := true, chkr := p.chkr + 1 })).countPress cid 0x06E p).countPress cid
          0x068 p)
      else if mismatch then
        .next ((s.setPressHead cid { p with
          phase := .committing
          err := true
          left := 2
          scnt := r.scnt
          ucnt := r.ucnt
          ccnt := r.ccnt }).machineCheck 0x08 0 cid p.graph 0)
      else .next (s.decidePass cid p r)

/-- The status word of a command (R339, R341). -/
def PressCmd.status (p : PressCmd) (atk : Bool) : Word :=
  BitVec.ofNat 64 ((if p.isPmm then
      p.ccnt % 65536 * 2 ^ 48 + p.ucnt % 65536 * 2 ^ 32 + p.rung % 4 * 2 ^ 14 + p.replays % 4 * 2 ^ 12 + p.chkr % 8 * 2 ^ 9
        + (if p.bex then 256 else 0) + (if p.err then 128 else 0)
    else 0) + p.scnt % 65536 * 2 ^ 16 + (if p.rst then 64 else 0) + (if atk then 32 else 0))

/-- Has another context used a command's accumulator since its own last use (R354)? -/
def Core.shared (k : Core) (p : PressCmd) : Bool :=
  match getV k.accUser p.acc with
  | some c => c != p.ctx
  | none => false

/-- The commit of a tile: the whole shape at once, DIRTY set; the cells of a `pmm` are left at 0 (R337, R354). -/
def State.commit (s : State) (cid : Nat) (p : PressCmd) : State :=
  if p.err || !p.targets p.tile then s
  else
    let s1 := s.fillTile cid p.tile (cellsOf (shapeRows p.shape) (shapeCols p.shape)) fun r c =>
      (assocGet p.result (r * 128 + c)).getD 0
    if p.isPmm then s1.modCore cid fun k => { k with acc := setV k.acc p.acc [] } else s1

/-- Is a command's context still that of its region: neither an edit nor an unload has freed it (R170)? -/
def State.pressHome (s : State) (cid : Nat) (p : PressCmd) : Bool :=
  (s.ctxAt cid p.ctx).bound && (s.ctxAt cid p.ctx).graph == p.graph

/-- R337, R339, R340: the commit ends after its cycles, the completion register fills, and the queue entry frees. -/
def execPressCommitEnd (cid : Nat) (s : State) : Answer :=
  match s.pressHead cid with
  | none => .next s
  | some p =>
    if p.phase ≠ .committing || p.left ≠ 0 then .next s
    else
      let st := p.status ((s.core cid).shared p)
      let s1 := s.commit cid p
      .next (((if s.pressHome cid p then s1.modCtxAt cid p.ctx fun c => c.writeS p.dreg st else s1).modCore cid fun k => { k with
        pressQ := k.pressQ.drop 1
        accUser := setV k.accUser p.acc (some p.ctx) }).refillPress cid)

end Sys2Proof.Machine
end

