-- ==== Sys2Proof/Machine/Task.lean ====
section
/-!
DEFINITION. Sys2Proof/Machine/Task.lean: the firing rule, the selection of a context and the end-of-invocation step
(R154, R158 to R167, R183).
-/

namespace Sys2Proof.Machine

/-- An operation done as if a core's pipe did it, the focus kept. -/
def State.at_ (s : State) (cid : Nat) (f : State → State) : State := { f { s with focus := cid } with focus := s.focus }

/-- The graph states in which firings are granted (R159, R172, R177). -/
def RegionState.firesIn : RegionState → Bool
  | .running | .quiescing => true
  | _ => false

/-- Has a context's condition for leaving its park come (R65, R167, R342, R376)? -/
def State.parkOver (s : State) (cid : Nat) (n : BitVec 4) (c : Context) : Bool :=
  let k := s.core cid
  match c.park with
  | .none => true
  | .regs rs => rs.all fun r => c.isFull r
  | .press => !k.pressFull
  | .chase => s.chasesOut cid < Config.chaseLimit
  | .tile m => !s.copiesNeeded cid n.toNat m
  | .miss _ => false
  | .fault => false

/-- The bound inputs and outputs that the firing rule consults: engine ends are none of them (R159, R211). -/
def State.fireInputs (s : State) (c : Context) : List (BitVec 4 × Nat × Channel) :=
  (s.inputs_ c).filter fun x => x.2.2.deng.isNone
def State.fireOutputs (s : State) (c : Context) : List (BitVec 4 × Nat × Channel) :=
  (s.outputs_ c).filter fun x => x.2.2.seng.isNone

/-- How many invocations a region opens in all (R171, R177). -/
def Graph.opens (g : Graph) : Nat :=
  match g.cap with
  | some k => min k g.launched
  | none => g.launched

/-- Is a context fireable for data, the region open for its actor's present invocation (R159, R161, R171, R183)? An actor whose
only inputs are multicast services bound as engine ends is granted one firing in all (log entry 91). -/
def State.fireable (s : State) (c : Context) (g : Graph) : Bool :=
  g.st.firesIn && !c.firing && c.park == .none
    && (s.fireOutputs c).all (fun x => x.2.2.prod ≤ x.2.2.free)
    && (if (s.fireInputs c).isEmpty then !c.sourceFired && c.invocations < g.opens
        else (s.noInvocation c || decide (c.invocations < g.opens))
          && (s.fireInputs c).all fun x => x.2.2.cons ≤ x.2.2.tokens)

/-- Do markers head every static input, with space for a marker on every output (R161, R162)? -/
def State.endDue (s : State) (c : Context) (g : Graph) : Bool :=
  g.st.firesIn && !c.firing && !s.noInvocation c
    && (s.staticInputs c).all (fun x => x.2.2.marked)
    && (s.outputs_ c).all (fun x => 1 ≤ x.2.2.free)
    && (if (s.fireInputs c).isEmpty then c.sourceFired else !(s.staticInputs c).isEmpty)

/-- The end block of an actor: the one whose header sets ENDH (R154). -/
def State.endBlock (s : State) (cid : Nat) (c : Context) : Option (BitVec 16) :=
  (c.handlers.find? fun h => (s.poolWord cid h.2).getLsbD 17).map fun h => h.1

/-- The priority of a firing: an engine end lends its prio like any input (R163, R211). -/
def State.firingPrio (s : State) (c : Context) : Nat :=
  if (s.inputs_ c).isEmpty then (s.outputs_ c).foldl (fun m x => max m x.2.2.prio) 0
  else (s.inputs_ c).foldl (fun m x => max m x.2.2.prio) 0

/-- The level at which a context is ready (R165). -/
def State.readyAt (s : State) (cid : Nat) (n : BitVec 4) : Option Nat :=
  let c := s.ctxAt cid n
  if !c.bound || c.stopped || c.saved then none
  else match s.graph? c.graph with
    | none => none
    | some g =>
      if c.firing then (if g.st.turnsRun && s.parkOver cid n c then some c.prio else none)
      else if s.endDue c g && (s.endBlock cid c).isSome then some (s.firingPrio c)
      else if s.fireable c g then some (s.firingPrio c)
      else none

/-- The highest level at which some context is ready. -/
def State.topLevel (s : State) (cid : Nat) : Option Nat :=
  allPorts.foldl (fun acc n => match acc, s.readyAt cid n with
    | some a, some b => some (max a b)
    | none, x => x
    | x, none => x) none

/-- The first context ready at a level, scanning from C[L] modulo 16 (R165). -/
def State.scan (s : State) (cid level : Nat) (start : BitVec 4) : Option (BitVec 4) :=
  (allPorts.map fun i => start + i).find? fun n => s.readyAt cid n == some level

/-- A firing granted to the issuing context (R160), data or end. -/
def State.grant (s : State) (isEnd : Bool) (h : BitVec 16) : State :=
  let c := s.ctx
  let prio := s.firingPrio c
  let ins := s.fireInputs c
  let outs := s.fireOutputs c
  let cons := if isEnd then Vector.replicate 16 0
    else ins.foldl (fun (v : Vector (BitVec 8) 16) x => setV v x.1 (BitVec.ofNat 8 x.2.2.cons)) (Vector.replicate 16 0)
  let prod := if isEnd then Vector.replicate 16 0
    else outs.foldl (fun (v : Vector (BitVec 8) 16) x => setV v x.1 (BitVec.ofNat 8 x.2.2.prod)) (Vector.replicate 16 0)
  let s1 := outs.foldl (fun st x => st.modChan x.2.1 fun ch => { ch with free := ch.free - (if isEnd then 1 else ch.prod) }) s
  let s2 := s1.setCtx { c with
    consRem := cons
    prodRem := prod
    firing := true
    endFiring := isEnd
    sourceFired := c.sourceFired || (ins.isEmpty && !isEnd)
    firedAt := s.nextId
    status := putBits c.status 8 (BitVec.ofNat 6 prio) }
  (s2.countMe prio).enter h 0

/-- R165: the pipe takes the first ready context of the highest ready level; it resumes its task or is granted a
firing (R160, R162). -/
def State.select (s : State) (cid : Nat) : State :=
  match s.topLevel cid with
  | none => s
  | some l =>
    let k := s.core cid
    let lv : BitVec 6 := BitVec.ofNat 6 l
    match s.scan cid l (k.prioCtr[lv.toNat % 48]'(Nat.mod_lt _ (by decide))) with
    | none => s
    | some n =>
      let s1 := s.setCore cid { k with
        prioCtr := k.prioCtr.set (lv.toNat % 48) (n + 1) (Nat.mod_lt _ (by decide))
        current := n
        turn := true }
      s1.at_ cid fun st =>
        let c := st.ctx
        if c.firing then st.setCtx { c with park := .none }
        else match st.graph? c.graph with
          | none => st
          | some g =>
            match (if st.endDue c g then st.endBlock cid c else none) with
            | some h => st.grant true h
            | none => st.grant false 0

/-- R165: when the core's turn has ended, or stops at this instruction boundary (R174, R177), the next is chosen. -/
def execSelection (cid : Nat) (s : State) : Answer :=
  let k := s.core cid
  let c := s.ctxAt cid k.current
  if k.turn then
    .next (if c.chain.start.isNone && s.turnStops c then (s.setCore cid { k with turn := false }).select cid else s)
  else .next (s.select cid)

/-! ## The end-of-invocation step (R162, R164) -/

/-- Is an invocation unbalanced on an actor (R164)? An engine end counts as a static input here, as it does for R162
(log entry 72). -/
def State.unbalanced (s : State) (c : Context) : Bool :=
  let ins := s.staticInputs c
  let closed := fun (ch : Channel) => ch.queue.any fun t => t.code == 5
  let marked := ins.any fun x => x.2.2.marked
  ins.any fun x => closed x.2.2 && 0 < x.2.2.tokens && (x.2.2.tokens < x.2.2.cons || marked)

/-- The data ahead of the markers discarded, with credits and count (R164). -/
def State.discardAhead (s : State) (cid : Nat) (n : BitVec 4) : State :=
  let c := s.ctxAt cid n
  let bad := (s.staticInputs c).filter fun x => (x.2.2.queue.any fun t => t.code == 5) && 0 < x.2.2.tokens
  let total := bad.foldl (fun k x => k + x.2.2.tokens) 0
  let s1 := bad.foldl (fun st x => st.modChan x.2.1 fun ch =>
    { ch with queue := ch.queue.drop ch.tokens, owed := ch.owed + ch.tokens }) s
  (s1.count cid 0x032 (some (n, c.graph)) total).fabricError 0x03 0 cid c.graph
    ((c.ctxid.extractLsb' 32 16).setWidth 64)

/-- R162: unbalanced data goes first (R164); an actor without an end block then emits its markers and removes those at
its inputs; one with an end block is granted its end firing by the selection. -/
def execEndOfInvocationStep (cid ctx : Nat) (s : State) : Answer :=
  let n : BitVec 4 := BitVec.ofNat 4 ctx
  let c := s.ctxAt cid n
  match s.graph? c.graph with
  | none => .next s
  | some g =>
    if !c.bound || c.stopped || c.saved || c.firing || !g.st.firesIn then .next s
    else
      let s1 := if s.unbalanced c then s.discardAhead cid n else s
      if s1.endDue c g && (s1.endBlock cid c).isNone then
        let s2 := (s1.outputs_ c).foldl (fun st x => st.modChan x.2.1 fun ch => { ch with free := ch.free - 1 }) s1
        .next (s2.endSteps cid n)
      else .next s1

end Sys2Proof.Machine
end

