-- ==== Sys2Proof/Machine/Region.lean ====
section
/-!
DEFINITION. Sys2Proof/Machine/Region.lean: what becomes of a region: quiescence, save frames, pre-emption, resume, edit and
unload (R169 to R181, R230, R306, R357).
-/

namespace Sys2Proof.Machine

/-- GSTAT's code of a region state (R264). -/
def RegionState.code : RegionState → Nat
  | .unloaded => 0
  | .configuring => 1
  | .loaded => 2
  | .running => 3
  | .quiescing => 4
  | .halting => 5
  | .saved => 6
  | .editing => 7
  | .halted => 8

/-! ## Invocations opened (R171, R177) -/

/-- Is a context's actor a source actor: one bound, with no bound input but engine ends (R161)? -/
def State.isSource (s : State) (c : Context) : Bool := c.bound && (s.fireInputs c).isEmpty && !s.noInvocation c

/-- The invocations that a region has opened: at its source actors, where the next opens as soon as the one before has ended
there, and at its source windows, where it opens with its first token (R161, R171, R177). -/
def State.openedCount (s : State) (g : Graph) : Nat :=
  let acts := (g.actors.map fun a => s.ctxAt a.cid a.ctx).filter s.isSource
  let wins := g.windows.filter fun w => !w.sink
  if acts.isEmpty && wins.isEmpty then g.launched
  else
    let a := acts.foldl (fun n c => max n (if c.invocations < g.opens then c.invocations + 1 else c.invocations)) 0
    min g.launched (wins.foldl (fun n w => max n (w.markers + if w.begun then 1 else 0)) a)

/-! ## Quiescence (R173) -/

/-- Does a context belong to a graph? -/
def Context.of (c : Context) (g : BitVec 16) : Bool := c.bound && c.graph == g

/-- Is an engine's holder a context of the graph? -/
def State.engineOf (s : State) (cid : Nat) (e : Engine) (g : BitVec 16) : Bool :=
  match e.holder with
  | some x => (s.ctxAt cid x).of g
  | none => false

/-- Is a region quiescent (R173)? -/
def State.quiescent (s : State) (g : Graph) : Bool :=
  let n := s.openedCount g
  let mine := fun (cid : Nat) (x : BitVec 4) => g.actors.any fun a => a.cid == cid && a.ctx == x
  g.windows.all (fun w => !w.sink || w.markers == n)
    && s.chans.all (fun ch => !(ch.bound && ch.graph == g.num.toNat) || (ch.queue.isEmpty && ch.held.isEmpty && ch.flight.isEmpty))
    && g.actors.all (fun a => let c := s.ctxAt a.cid a.ctx; !c.firing && c.awaits.isEmpty)
    && !s.fences.any (fun f => mine f.cid f.ctx)
    && g.cores.all (fun cid =>
      let k := s.core cid
      !(k.pressQ ++ k.held).any (fun p => p.graph == g.num) && !k.engines.toList.any fun e => s.engineOf cid e g.num && e.st.busy)
    && !s.net.any fun m => m.entry && m.graph == g.num

/-! ## Saving (R177 to R179) -/

/-- Bytes of the elastic window that a save writes: 256 × w where a running block has WIN ≥ 1 (R178, R389). -/
def State.savedWindow (s : State) (cid : Nat) (c : Context) : Nat :=
  if c.firing && headerWin ((s.header cid c c.handler).getD 0) != 0 then 256 * efWords c.precP else 0

/-- Bytes of the bank and of the firing state, which come first in a save frame (R178). -/
def bankBytes : Nat := 2560
def frameHead : Nat := bankBytes + 64

/-- Bytes of the save frame in use (R178). -/
def State.savedBytes (s : State) (cid : Nat) (n : BitVec 4) : Nat :=
  let c := s.ctxAt cid n
  frameHead + s.savedWindow cid c + (s.inputs_ c).foldl (fun k x => k + queueBytes x.2.2.vec x.2.2.queue.length) 0

/-- The elastic window at `w` words a value: e0 to e31 in order, word 0 of each lowest (R385, R389). -/
def Context.windowBytes (c : Context) (w : Nat) : List Byte := c.e.toList.flatMap fun x => leBytes (8 * w) x.toNat

/-- An entry of an input queue in a save frame: its payload, then its mask and code as TAG holds them (R178, R265; log
entry 7). -/
def Token.bytes (t : Token) (vec : Bool) : List Byte :=
  leBytes (if vec then 64 else 8) t.payload.toNat ++ leBytes (if vec then 16 else 8) (t.code.toNat * 65536 + t.valid.toNat)
def tokenFrom (vec : Bool) (l : List Byte) : Token :=
  let n := if vec then 64 else 8
  let tag := leNat (l.drop n)
  ⟨BitVec.ofNat 512 (leNat (l.take n)), BitVec.ofNat 16 tag, BitVec.ofNat 3 (tag / 65536)⟩

/-- The bytes of a context's save frame: bank and firing state with bytes that the manual leaves open, then the window, then the
entries of its input queues from port 0 up (R178, R389; log entry 7). -/
def State.frameBytes (s : State) (cid : Nat) (n : BitVec 4) : List Byte :=
  let c := s.ctxAt cid n
  ((List.range frameHead).map fun i => Config.frameByte (s.nextId + i)) ++ c.windowBytes (s.savedWindow cid c / 256)
    ++ (s.inputs_ c).flatMap fun x => x.2.2.queue.flatMap fun t => t.bytes x.2.2.vec

/-- The address of a context's save frame (R179). -/
def State.frameAt (s : State) (a : ActorPlace) : Nat := layer3 a.cid (s.ctxAt a.cid a.ctx).saveBase

/-- One context saved: its frame is written at its column's port (R178, R179). -/
def State.saveContext (s : State) (a : ActorPlace) : State :=
  let c := s.ctxAt a.cid a.ctx
  let s1 := s.portStore a.cid a.ctx c.graph (s.frameAt a) (s.frameBytes a.cid a.ctx)
  { s1 with nextId := s1.nextId + frameHead }.setCtxAt a.cid a.ctx { c with
    saved := true
    frameSeed := (s.nextId, s.nextId + bankBytes)
    framed := Vector.ofFn fun p => match s.inChan c (BitVec.ofNat 4 p.val) with
      | some (_, ch) => ch.queue.length
      | none => 0 }

/-- Every context of a region saved. -/
def State.saveAll (s : State) (g : Graph) : State := g.actors.foldl State.saveContext s

/-- The entries of the input queues read back from the bytes of a frame, in place of those that the save wrote (R178, R179). -/
def State.restoreQueues (s : State) (c : Context) : List (BitVec 4 × Nat × Channel) → List Byte → State
  | [], _ => s
  | (p, i, ch) :: rest, l =>
    let n := getV c.framed p
    let size := queueBytes ch.vec 1
    let ts := (List.range n).map fun k => tokenFrom ch.vec (bytesAt l (size * k) size)
    (s.modChan i fun ch => { ch with queue := ts ++ ch.queue.drop n }).restoreQueues c rest (l.drop (size * n))

/-- The free bytes that a save has written from a seed on. -/
def seededBytes (seed n : Nat) : List Byte := (List.range n).map fun i => Config.frameByte (seed + i)

/-- The bank read back from its bytes in a frame: as it was where the save wrote them, and else registers of which only these
bytes decide (R12, R178; log entry 7). -/
def Context.bankFrom (c : Context) (l : List Byte) : Context :=
  if l = seededBytes c.frameSeed.1 bankBytes then c
  else
    let x := Config.frameItem l
    { c with
      s := Vector.ofFn fun i => BitVec.ofNat 64 (x i.val)
      full := Vector.ofFn fun i => x (32 + i.val) % 2 == 1
      v := Vector.ofFn fun i => lanes fun j => BitVec.ofNat 32 (x (64 + 16 * i.val + j.toNat))
      k := Vector.ofFn fun i => BitVec.ofNat 16 (x (576 + i.val))
      f := Vector.ofFn fun i => BitVec.ofNat 32 (x (584 + i.val))
      gen := Vector.ofFn fun i => BitVec.ofNat 32 (x (600 + i.val))
      status := BitVec.ofNat 64 (x 616)
      prec := BitVec.ofNat 64 (x 617)
      cause := BitVec.ofNat 64 (x 618)
      faddr := BitVec.ofNat 64 (x 619)
      epc := BitVec.ofNat 64 (x 620)
      tvec := BitVec.ofNat 64 (x 621)
      rseed := BitVec.ofNat 64 (x 622)
      pladder := BitVec.ofNat 64 (x 623)
      pbudget := BitVec.ofNat 64 (x 624) }

/-- The firing state read back in the same way; the handler is one of the actor's, the word one of its words (R178; log entry
7). -/
def State.firingFrom (s : State) (cid : Nat) (c : Context) (l : List Byte) : Context :=
  if l = seededBytes c.frameSeed.2 (frameHead - bankBytes) then c
  else
    let x := Config.frameItem l
    let h := (c.handlers.map fun h => h.1).getD (x 0 % c.handlers.length) c.handler
    { c with
      firing := x 1 % 2 == 1
      park := if x 2 % 2 == 1 then c.park else .none
      handler := h
      word := BitVec.ofNat 7 (x 3 % wordCount ((s.header cid c h).getD 0))
      consRem := Vector.ofFn fun i => BitVec.ofNat 8 (x (4 + i.val))
      prodRem := Vector.ofFn fun i => BitVec.ofNat 8 (x (20 + i.val)) }

/-- Bank, firing state, window and queue entries of one context read back from its frame (R178 to R180, R389; log entry 7). -/
def State.restoreContext (s : State) (a : ActorPlace) : State :=
  let c := s.ctxAt a.cid a.ctx
  let w := s.savedWindow a.cid c / 256
  let all := s.portBytes (s.frameAt a) (s.savedBytes a.cid a.ctx)
  let l := all.drop frameHead
  let s0 := s.setCtxAt a.cid a.ctx
    (s.firingFrom a.cid (c.bankFrom (all.take bankBytes)) ((all.take frameHead).drop bankBytes))
  let s1 := s0.restoreQueues c (s.inputs_ c) (l.drop (256 * w))
  if w = 0 then s1
  else s1.modCtxAt a.cid a.ctx fun c => { c with
    e := Vector.ofFn fun i => BitVec.ofNat 256 (leNat (bytesAt l (8 * w * i.val) (8 * w))) }

/-- The answer of two accesses together. -/
def PortAnswer.meet : PortAnswer → PortAnswer → PortAnswer
  | .down, _ => .down
  | _, .down => .down
  | .open_, x => x
  | .wait, _ => .wait

/-- The answer of the ports to the save frames of a region (R179, R252). -/
def State.framesPort (s : State) (g : Graph) : PortAnswer :=
  g.actors.foldl (fun x a => x.meet (s.reachable a.cid (s.frameAt a) (s.savedBytes a.cid a.ctx))) .open_

/-- What needs ports goes on once they perform it, and halts its region where a bus has failed (R252). -/
def State.withPorts (s : State) (g : BitVec 16) (x : PortAnswer) (k : State) : State :=
  match x with
  | .open_ => k
  | .wait => s
  | .down => s.haltRegion g

/-- A region's own state changed. -/
def State.setRegion (s : State) (g : BitVec 16) (st : RegionState) : State := s.modGraph g fun x => { x with st }

/-! ## Freeing (R170, R230, R306, R357) -/

/-- A core without the contexts given: those are freed, their engines closed, their held press commands gone, the replies and holds
kept for them too, a turn of theirs over; the press queue stands as it is (R170, R230, R357). -/
def Core.freed (k : Core) (g : BitVec 16) (mine : BitVec 4 → Bool) : Core :=
  { k with
    ctxs := Vector.ofFn fun i =>
      if mine (BitVec.ofNat 4 i.val) then k.ctxs[i.val].freed (BitVec.ofNat 4 i.val) else k.ctxs[i.val]
    engines := k.engines.map fun e => match e.holder with
      | some x => if mine x then Engine.reset else e
      | none => e
    held := k.held.filter fun p => p.graph != g
    replyBuf := k.replyBuf.filter fun m => !mine m.target
    holds := k.holds.filter fun h => !mine h.ctx
    users := k.users.filter fun u => u != g.toNat
    code := k.code.filter fun u => u.1 != g.toNat
    turn := k.turn && !mine k.current
    due := k.due.filter fun d => !mine d.ctx }

/-- A splice that an engine of these contexts still copies ends with KIND 6: from then on every write is forwarded
(R227, R306). -/
def State.abortSplices (s : State) (cid : Nat) (mine : BitVec 4 → Bool) : State :=
  let copier := fun (p : Splice) =>
    let e := s.engineAt cid p.eng.toNat
    p.copies p.eng.toNat && e.st.busy && e.cmd == .splice && match e.holder with
      | some x => mine x
      | none => false
  s.modCore cid fun k => { k with splices := k.splices.map fun p => if copier p then { p with aborted := true } else p }

/-- The replies kept for these contexts of a core are discarded and counted (R383). -/
def State.loseReplies (s : State) (cid : Nat) (mine : BitVec 4 → Bool) : State :=
  ((s.core cid).replyBuf.filter fun m => mine m.target).foldl State.lostReply s

/-- What an edit or unload frees: contexts, channel-table entries, code bytes, engines, barriers and everything queued or
held for the region; its record goes (R170, R174). -/
def State.freeRegion (s : State) (g : Graph) : State :=
  let mine := fun (cid : Nat) (x : BitVec 4) => g.actors.any fun a => a.cid == cid && a.ctx == x
  let s1 := g.cores.foldl (fun st cid =>
    ((st.loseReplies cid (mine cid)).abortSplices cid (mine cid)).modCore cid fun k => k.freed g.num (mine cid)) s
  { s1 with
    chans := s1.chans.map fun ch => if ch.bound && ch.graph == g.num.toNat then { ch with bound := false, queue := [], held := [] } else ch
    barriers := s1.barriers.map fun b => if b.bound && b.graph == g.num.toNat then { b with bound := false, releasing := [] } else b
    fences := s1.fences.filter fun f => !mine f.cid f.ctx
    graphs := s1.graphs.filter fun x => x.num != g.num }

/-! ## Edit (R173, R357) -/

/-- Does an edit change the accumulator partition of a core (R181)? -/
def State.repartitions (s : State) (p : Plan) (cid : Nat) : Bool :=
  ((assocGet p.pools cid).getD (s.core cid).partn).extractLsb' 18 6 != (s.core cid).partn.extractLsb' 18 6

/-- The dirty tiles of a region's contexts on a core. -/
def State.dirtyTiles (s : State) (g : Graph) (cid : Nat) : List (BitVec 3) :=
  allTiles.filter fun n =>
    let sh := (s.core cid).shape n
    shapeRows sh != 0 && shapeDirty sh && g.actors.any fun a => a.cid == cid && a.ctx == shapeOwner sh

/-- Before an edit that changes the accumulator partition of a core: every dirty tile of the region's contexts is saved,
every save header of the core is cleared, every tile unshaped (R181, R357). -/
def State.saveForEdit (s : State) (g : Graph) (p : Plan) (cid : Nat) : State :=
  if !s.repartitions p cid then s
  else
    let s1 := (s.dirtyTiles g cid).foldl (fun st n => st.saveTile cid (shapeOwner ((st.core cid).shape n)) n true rowBytes) s
    (s1.portStore cid 0 g.num (headerAddr cid 0 0) (List.replicate 1024 0)).modCore cid fun k =>
      { k with tshape := Vector.replicate 8 0 }

/-- The answer of the ports to the tile saves of an edit, and to the save frames it writes a status into. -/
def State.editPort (s : State) (g : Graph) (p : Plan) : PortAnswer :=
  g.cores.foldl (fun x cid =>
    if s.repartitions p cid then
      (s.dirtyTiles g cid).foldl (fun y n => y.meet (s.saveAreaPort cid (shapeOwner ((s.core cid).shape n)) n))
        (x.meet (s.reachable cid (headerAddr cid 0 0) 1024))
    else x) (if g.st == .saved then s.framesPort g else .open_)

/-- The status of KIND 6 of a command in progress, in the completion register that the saved frame of the engine's holder holds
(R230). -/
def State.abortEngine (s : State) (g : Graph) (cid n : Nat) : State :=
  let e := s.engineAt cid n
  if s.engineOf cid e g.num && e.st.busy && e.dreg != 0 then
    let x := e.holder.getD 0
    let at_ := s.frameAt ⟨cid, x⟩
    let s1 := s.modCtxAt cid x fun c =>
      { ((c.bankFrom (s.portBytes at_ bankBytes)).writeS (e.dreg + 1) 0).writeS e.dreg (e.status n 1 6) with
        frameSeed := (s.nextId, c.frameSeed.2) }
    let s2 := s1.portStore cid x g.num at_ (seededBytes s.nextId bankBytes)
    { s2 with nextId := s2.nextId + bankBytes }
  else s

/-- The commands in progress of a region that an edit aborts, of the kinds given (R230, R306). -/
def State.abortEngines (s : State) (g : Graph) (kind : EngCmd → Bool) : State :=
  g.cores.foldl (fun st cid => [0, 1, 2, 3].foldl (fun st n => if kind (st.engineAt cid n).cmd then st.abortEngine g cid n else st)
    st) s

/-- A region unloaded: the commands in progress of its engines end without a status (R170, R230), but a splice of a saved region
that is not complete has its status of KIND 6 in the saved frame (R306; log entry 100). -/
def State.unloadRegion (s : State) (g : Graph) : State :=
  (if g.st == .saved && s.framesPort g != .down then s.abortEngines g (· == .splice) else s).freeRegion g

/-- The pending edit of a region applied whole, once the ports it needs perform its writes: the region is editing until every
core acknowledges; where it is refused now, the edit is dropped, and the launches behind it open (R171 to R173). -/
def State.applyEdit (s : State) (g : Graph) (bytes : List Byte) : State :=
  let freed := s.freeRegion g
  match freed.judge g.num.toNat bytes with
  | .error _ => (s.modGraph g.num fun x => { x with
      edit := none
      cap := if x.st == .running then none else x.cap }).settle g.num
  | .ok (ims, pl) =>
    s.withPorts g.num (s.editPort g pl.plan)
      (let s1 := (g.cores.foldl (fun st c => st.saveForEdit g pl.plan c) (s.abortEngines g fun _ => true)).freeRegion g
       (s1.applyPlacement g.num g.pager ims pl (some g)).setRegion g.num .editing)

/-- A pending edit applied, where there is one. -/
def State.editNow (s : State) (num : BitVec 16) : State :=
  match s.graph? num with
  | none => s
  | some g => match g.edit with
    | none => s
    | some bytes => s.applyEdit g bytes

/-! ## Region events -/

/-- REQSTAT after a request: OP and STATUS, BUSY clear, LOST kept; vector 1 is signalled (R263, R264). -/
def State.reqDone (s : State) (op : BitVec 8) (status : BitVec 7) : State :=
  { s with module := { s.module with
      reqstat := (s.module.reqstat &&& 0x10000) ||| op.setWidth 64 <<< 8 ||| status.setWidth 64
      signals := (s.module.signals.1, s.module.signals.2 + 1) } }

/-- The answer of the ports to what a configuration writes into columns (R170, R252). -/
def State.dataPort (s : State) (g : Graph) : PortAnswer :=
  g.writes.foldl (fun x d => x.meet (s.reachable (addrCore d.1) d.1 d.2.length)) .open_

/-- What a configuration writes into columns written, each at its column's port (R170, R233). -/
def State.writeColumns (s : State) (g : Graph) : State :=
  (g.writes.foldl (fun st d => st.portStore (addrCore d.1) 0 g.num d.1 d.2) s).modGraph g.num fun x => { x with writes := [] }

/-- R169, R172: every core acknowledges once its column has been written: a configured region is loaded and an edited one loaded or
running again. -/
def execRegionConfigured (graph : BitVec 16) (s : State) : Answer :=
  match s.graph? graph with
  | none => .next s
  | some g =>
    if g.st == .configuring || g.st == .editing then
      .next (s.withPorts graph (s.dataPort g)
        (((s.writeColumns g).setRegion graph (if g.ended < g.launched then RegionState.running else .loaded)).settle graph))
    else .next s

/-- Have the invocations that a quiescing region had opened all ended (R177)? -/
def Graph.capEnded (g : Graph) : Bool :=
  match g.cap with
  | some n => decide (n ≤ g.ended)
  | none => true

/-! ### Pre-emption and resume (R177, R180, R357) -/

/-- A squashed command as it waits to restart (R357). -/
def PressCmd.restart (p : PressCmd) : PressCmd :=
  { p with phase := .queued, rung := 0, replays := 0, chkr := 0, rerun := false, scnt := 0, ucnt := 0, ccnt := 0, bex := false,
           result := [], left := 0 }

/-- The press commands of a region on a core, but one whose commit has begun, become held, in their order: those of the queue, and
those that an earlier resume released and that found no entry free (R357). -/
def Core.holdPress (k : Core) (g : BitVec 16) : Core :=
  let goes := fun (p : PressCmd) => p.graph == g && p.phase != .committing
  { k with
    pressQ := k.pressQ.filter fun p => !goes p
    held := (k.pressQ.filter goes).map PressCmd.restart ++ k.held.map fun p => if p.graph == g then { p with back := false } else p }

/-- Held commands of a region are released: they re-enter the queue behind those in it as entries are free (R342, R357). -/
def State.requeuePress (s : State) (g : BitVec 16) (cid : Nat) : State :=
  (s.modCore cid fun k => { k with held := k.held.map fun p => if p.graph == g then { p with back := true } else p }).refillPress cid

/-- The replies kept for a region's contexts on a core are written (R84, R383). -/
def State.deliverReplies (s : State) (g : BitVec 16) (cid : Nat) : State :=
  let mine := fun (m : Msg) => (s.ctxAt cid m.target).of g
  let s1 := s.modCore cid fun k => { k with replyBuf := k.replyBuf.filter fun m => !mine m }
  ((s.core cid).replyBuf.filter mine).foldl (fun st m => match m.body with
    | .chaseReply x r q off stt v _ => st.takeChase { m with body := .chaseReply x r q off stt v [] }
    | _ => st.takeReply m) s1

/-- The state in which a halted engine goes on (R230, R306). -/
def Engine.resumed (e : Engine) : Engine :=
  if e.st == .halted then { e with st := if e.before == .waitXlate then .running else e.before } else e

/-- R180: the contexts of a saved region restored; those that waited for a translation issue their instruction again at
once (R306). -/
def State.resumeRegion (s : State) (g : Graph) : State :=
  let s1 := g.actors.foldl (fun st a => (st.restoreContext a).modCtxAt a.cid a.ctx fun c => { c with
    saved := false
    park := match c.park with
      | .miss _ => .none
      | .fault => .none
      | p => p }) s
  let s2 := g.cores.foldl (fun st cid =>
    let t := st.modCore cid fun k => { k with engines := k.engines.map fun e => if st.engineOf cid e g.num then e.resumed else e }
    (t.deliverReplies g.num cid).requeuePress g.num cid) s1
  (s2.modGraph g.num fun x => { x with st := .running, cap := none }).settle g.num

/-- A resume that has been accepted, once the ports to the save frames answer: the region runs, or halts behind a failed bus; while
a column pauses, the request goes on; and where a reconfigure has moved a core of the region meanwhile, it is refused (R180, R248,
R252). -/
def State.resumeNow (s : State) (g : Graph) : State :=
  let done := s.modGraph g.num fun x => { x with resuming := false }
  if g.moved then done.reqDone 0x06 0x06
  else match s.framesPort g with
    | .wait => s
    | .down => (done.haltRegion g.num).reqDone 0x06 0x0E
    | .open_ => (done.resumeRegion g).reqDone 0x06 0x00

/-- R173, R177: a quiescent region is saved where it is quiescing and its opened invocations have ended, and its pending edit
applies; a saved region's resume or edit that waits for a port goes on too, and a resume of one that has halted meanwhile is
refused. -/
def execRegionQuiescent (graph : BitVec 16) (s : State) : Answer :=
  match s.graph? graph with
  | none => .next s
  | some g =>
    match g.st with
      | .quiescing => .next (if s.quiescent g && g.capEnded then
          s.withPorts graph (s.framesPort g) (((s.saveAll g).setRegion graph .saved).editNow graph) else s)
      | .running => .next (if s.quiescent g then s.editNow graph else s)
      | .saved => .next (if g.resuming then s.resumeNow g else s.editNow graph)
      | .halted => .next (if g.resuming then (s.modGraph graph fun x => { x with resuming := false }).reqDone 0x06 0x0E else s)
      | _ => .next s

/-- Does an engine that pre-emption halts still have something to carry on: an element or token it has begun, and no port or
translation fault that it waits for? A TLB miss under way is answered (R230, R295). -/
def Engine.carries (e : Engine) : Bool :=
  (e.begun || !e.srcLanes.isEmpty) && e.st != .waitPort && e.st != .waitXlate && e.st != .halted

/-- Has every core of a halting region halted and drained: no running turn inside a prefix chain, no commit under way, no engine
inside an element or token, every token in its queue, every message on its way (R177, R178, R230)? -/
def State.drained (s : State) (g : Graph) : Bool :=
  g.actors.all (fun a =>
    let k := s.core a.cid
    !(k.turn && k.current == a.ctx) || (s.ctxAt a.cid a.ctx).chain.start.isNone)
  && g.cores.all (fun cid =>
    let k := s.core cid
    !k.pressQ.any (fun p => p.graph == g.num && p.phase == .committing)
      && !k.engines.toList.any fun e => s.engineOf cid e g.num && e.carries)
  && s.chans.all (fun ch => !(ch.bound && ch.graph == g.num.toNat) || (ch.held.isEmpty && ch.flight.isEmpty))
  && !s.net.any fun m => m.entry && m.graph == g.num

/-- The turns of a region's contexts on a core end, and its engines stop in state 5 with their position (R177, R230). -/
def State.stopCore (s : State) (g : BitVec 16) (cid : Nat) : State :=
  let k := s.core cid
  s.setCore cid { k with
    turn := k.turn && !(getV k.ctxs k.current).of g
    engines := k.engines.map fun e =>
      if s.engineOf cid e g && e.st.busy && e.st != .halted then { e with before := e.st, st := .halted, waitMiss := none } else e }

/-- R177: every core has halted, drained and saved its contexts: the region is saved, and a pending edit applies. -/
def execRegionSaved (graph : BitVec 16) (s : State) : Answer :=
  match s.graph? graph with
  | none => .next s
  | some g =>
    if g.st == .halting && s.drained g then
      .next (s.withPorts graph (s.framesPort g)
        ((((g.cores.foldl (fun st c => st.stopCore graph c) s).saveAll g).setRegion graph .saved).editNow graph))
    else .next s

end Sys2Proof.Machine
end

