-- ==== Sys2Proof/Machine/Wafer.lean ====
section
/-!
DEFINITION. Sys2Proof/Machine/Wafer.lean: the remap tables: what a cold start computes from the defects it finds (R237, R238,
R244, R249), what a table reconfigure changes (R246, R248), and when it may begin.
-/

namespace Sys2Proof.Machine

/-! ## A cluster at a cold start (R237, R238, R249) -/

/-- The slot of each logical core of a cluster whose defective slots are `bad` (R238). -/
def slotOf (bad : List Nat) (i : Nat) : Nat := if bad.contains i then 16 else i

/-- The spare regions of a column in the order of R249: those of one layer first, then the others. -/
def spareOrder (layer : Nat) : List (Nat × Nat) :=
  let of := fun (l : Nat) => (List.range 4).map fun r => (l, r)
  of layer ++ ((List.range 4).filter fun l => l != layer).flatMap of

/-- Is spare (layer, n) of a slot of a cluster good (spare regions are 64 to 67 of their layer)? -/
def Defects.spareGood (d : Defects) (f c slot layer n : Nat) : Bool := !d.dram.contains (f, c, slot, layer, 64 + n)

/-- The bad regions of a slot's column, ascending by layer and region (R249). -/
def Defects.badRegions (d : Defects) (f c slot : Nat) : List (Nat × Nat) :=
  (List.range 4).flatMap fun l => ((List.range 64).filter fun r => d.dram.contains (f, c, slot, l, r)).map fun r => (l, r)

/-- The first free spare for a bad region of logical core i: its own layer, its own column, then the columns of the other
logical cores in order (R249). `used` lists (core, layer, spare). -/
def Defects.spareFor (d : Defects) (f c : Nat) (bad : List Nat) (used : List (Nat × Nat × Nat)) (i layer : Nat) :
    Option (Nat × Nat × Nat) :=
  let own := (spareOrder layer).map fun x => (i, x)
  let others := ((List.range 16).filter fun k => k != i).flatMap fun k =>
    (List.range 4).flatMap fun l => (List.range 4).map fun r => (k, l, r)
  (own ++ others).find? fun x => d.spareGood f c (slotOf bad x.1) x.2.1 x.2.2 && !used.contains x

/-- The spares a region list in force names. -/
def spareUses (l : List (Nat × DrEntry)) : List (Nat × Nat × Nat) :=
  l.map fun (i, e) => (if e.nb then e.ncore.toNat else i, e.slayer.toNat, e.sreg.toNat)

/-- One bad region of logical core i given a spare; none where none is free. -/
def Defects.remapOne (d : Defects) (f c : Nat) (bad : List Nat) (done : List (Nat × DrEntry)) (i layer region : Nat) :
    Option (List (Nat × DrEntry)) :=
  (d.spareFor f c bad (spareUses done) i layer).map fun x => done ++ [(i, {
    nb := x.1 != i, ncore := if x.1 == i then 0 else BitVec.ofNat 4 x.1
    slayer := BitVec.ofNat 2 x.2.1, sreg := BitVec.ofNat 2 x.2.2, layer := BitVec.ofNat 2 layer, region := BitVec.ofNat 6 region })]

/-- The region remaps of a cluster in the order of R249, or the logical core whose region finds no spare. -/
def Defects.remapAll (d : Defects) (f c : Nat) (bad : List Nat) : List (Nat × Nat × Nat) → List (Nat × DrEntry) →
    Except Nat (List (Nat × DrEntry))
  | [], done => .ok done
  | (i, l, r) :: rest, done =>
    match d.remapOne f c bad done i l r with
    | none => .error i
    | some done1 => d.remapAll f c bad rest done1

/-- What self-test makes of a cluster: none where it is out of service, else its defective slots and region remaps; a slot
whose region finds no spare is defective, and the assignment starts again (R237, R249). -/
def Defects.cluster (d : Defects) (f c : Nat) : Nat → List Nat → Option (List Nat × List (Nat × DrEntry))
  | 0, _ => none
  | fuel + 1, bad =>
    if 2 ≤ bad.length then none
    else
      let regions := (List.range 16).flatMap fun i => (d.badRegions f c (slotOf bad i)).map fun x => (i, x)
      match d.remapAll f c bad regions [] with
      | .ok l => some (bad, l)
      | .error i => d.cluster f c fuel (bad ++ [slotOf bad i])

/-- The slots of a cluster that fail by themselves: their logic or bus, or a column with more than 16 bad regions. -/
def Defects.badSlots (d : Defects) (f c : Nat) : List Nat :=
  (List.range 17).filter fun k => d.slots.contains (f, c, k) || decide (16 < (d.badRegions f c k).length)

/-- A cluster classified (R237). -/
def Defects.classify (d : Defects) (f c : Nat) : Option (List Nat × List (Nat × DrEntry)) :=
  if d.clusters.contains (f, c) || d.routers.contains (f, c) then none else d.cluster f c 4 (d.badSlots f c)

/-! ## Fields and the module (R237, R238, R244) -/

/-- The clusters (field, cluster) that some defect names. -/
def Defects.touched (d : Defects) : List (Nat × Nat) :=
  (d.slots.map (fun x => (x.1, x.2.1)) ++ d.clusters ++ d.routers ++ d.dram.map fun x => (x.1, x.2.1)).eraseDups

/-- The mesh position of cluster c of physical field f. -/
def meshOf (f c : Nat) : Nat × Nat := (8 * (f % 8) + c % 8, 8 * (f / 8) + c / 8)

/-- Do two routers stand within one router of each other, diagonals included (R244)? -/
def adjacent (a b : Nat × Nat) : Bool := a.1 ≤ b.1 + 1 && b.1 ≤ a.1 + 1 && a.2 ≤ b.2 + 1 && b.2 ≤ a.2 + 1

/-- Do the out-of-service clusters of a field keep the spacing of R244? -/
def spaced (f : Nat) (outs : List Nat) : Bool :=
  outs.all fun a => outs.all fun b => a == b || !adjacent (meshOf f a) (meshOf f b)

/-- The physical fields in service: fewer than three clusters out, spacing kept, and of two fields with clusters within one
router of each other the higher goes, in ascending order of the higher (R237). -/
def fieldsInService (outs : Nat → List Nat) : List Nat :=
  let fit := (List.range 64).filter fun f => (outs f).length ≤ 2 && spaced f (outs f)
  fit.foldl (fun acc f =>
    if acc.any fun g => (outs g).any fun a => (outs f).any fun b => adjacent (meshOf g a) (meshOf f b) then acc else acc ++ [f]) []

/-- The detour entry of an out-of-service cluster with its side steps; none where a side lies in another field (R244). -/
def detourOf (c : Nat) (xstep ystep : Bool) : Option Detour :=
  let x := c % 8
  let y := c / 8
  if (xstep && y == 0) || (!xstep && y == 7) || (ystep && x == 0) || (!ystep && x == 7) then none
  else some { cluster := BitVec.ofNat 6 c, xstep, ystep, xdr := BitVec.ofNat 6 (8 * sideStep xstep y + x),
              ydr := BitVec.ofNat 6 (8 * y + sideStep ystep x) }

/-- The entry a cold start gives: toward the higher number, unless the cluster lies in the last row or column. -/
def coldDetour (c : Nat) : Option Detour := detourOf c (c / 8 == 7) (c % 8 == 7)

/-- The lists of some keys, empty ones left out. -/
def gather {α : Type} (keys : List Nat) (l : List (Nat × α)) : List (Nat × List α) :=
  keys.filterMap fun k =>
    let mine := (l.filter fun x => x.1 == k).map fun x => x.2
    if mine.isEmpty then none else some (k, mine)

/-- The tables that a cold start computes, or none where the start fails: fewer than 60 fields, a PLL, or a failed router
outside an in-service field (R237, R238, R244, R249). -/
def Defects.tables (d : Defects) : Option Tables :=
  let judged := d.touched.map fun p => (p, d.classify p.1 p.2)
  let outs := fun (f : Nat) => (List.range 64).filter fun c => judged.any fun j => j.1 == (f, c) && j.2.isNone
  let fields := fieldsInService outs
  if fields.length < 60 || !d.plls.isEmpty || d.routers.any (fun r => !fields.contains r.1) then none
  else
    let numbered := fields.zipIdx
    let outCl := numbered.flatMap fun (f, n) => (outs f).map fun c => n * 64 + c
    let good := numbered.flatMap fun (f, n) => judged.filterMap fun j =>
      if j.1.1 == f then j.2.map fun x => (n * 64 + j.1.2, x) else none
    some {
      fields := (List.range 64).map fun n => fields[n]?
      outClusters := outCl
      spares := good.flatMap fun (cl, x) => (x.1.filter fun k => k != 16).map fun k => (cl, k)
      deadSpares := (good.filter fun (_, x) => x.1.contains 16).map fun (cl, _) => cl
      dram := gather (good.flatMap fun (cl, x) => (x.2.map fun e => cl * 16 + e.1).eraseDups)
        (good.flatMap fun (cl, x) => x.2.map fun e => (cl * 16 + e.1, e.2))
      detours := gather (outCl.map fun c => c / 64).eraseDups (outCl.filterMap fun c => (coldDetour (c % 64)).map fun e => (c / 64, e)) }

/-! ## Table reconfigure (R246) -/

/-- A cluster taken out of service: it keeps its number, its detour entry is added in order (R238, R244). -/
def Tables.dropCluster (t : Tables) (cl : Nat) : Tables :=
  if t.outClusters.contains cl then t
  else
    let es := (assocGet t.detours (cl / 64)).getD []
    let new := match coldDetour (cl % 64) with
      | some e => [e]
      | none => []
    { t with
      outClusters := t.outClusters ++ [cl]
      detours := assocSet t.detours (cl / 64)
        (es.filter (fun e => e.cluster.toNat < cl % 64) ++ new ++ es.filter fun e => cl % 64 < e.cluster.toNat) }

/-- A bad region of a logical core given a spare beside the valid entries, which stay; none where no entry or no spare is
free (R249). -/
def Tables.remapMore (t : Tables) (d : Defects) (core : Nat) (at_ : Nat × Nat) : Option Tables :=
  let cl := core / 16
  let f := ((t.fields[cl / 64]?).join).getD 0
  let bad := (t.spares.filter fun x => x.1 == cl).map fun x => x.2
  let mine := (t.dram.filter fun x => x.1 / 16 == cl).flatMap fun x => x.2.map fun e => (x.1 % 16, e)
  let own := (assocGet t.dram core).getD []
  if own.any fun e => e.layer.toNat == at_.1 && e.region.toNat == at_.2 then some t
  else if 16 ≤ own.length then none
  else ((d.remapOne f (cl % 64) bad mine (core % 16) at_.1 at_.2).bind fun l => l.getLast?).map fun x =>
    { t with dram := assocSet t.dram core (own ++ [x.2]) }

/-- The slot of a core goes: the core moves to the spare slot, and the bad regions of its new column get spares; where the spare
slot is taken, bad or short of spares, the cluster goes (R237, R249). -/
def Tables.dropSlot (t : Tables) (d : Defects) (core : Nat) : Tables :=
  let cl := core / 16
  let f := ((t.fields[cl / 64]?).join).getD 0
  if (t.spares.any fun x => x.1 == cl) || t.deadSpares.contains cl || (d.badSlots f (cl % 64)).contains 16 then t.dropCluster cl
  else
    let moved : Tables := { t with spares := t.spares ++ [(cl, core % 16)] }
    ((d.badRegions f (cl % 64) 16).foldl (fun acc x => acc.bind fun u => u.remapMore d core x) (some moved)).getD (t.dropCluster cl)

/-- The spare slot of a cluster goes: with the cluster where a core lies in it, since two of its slots are then defective, and
else no core moves (R237). -/
def Tables.dropSpare (t : Tables) (cl : Nat) : Tables :=
  if t.spares.any fun x => x.1 == cl then t.dropCluster cl
  else if t.deadSpares.contains cl then t
  else { t with deadSpares := t.deadSpares ++ [cl] }

/-- One change made; none where it cannot be (R246). A bad region that finds no spare takes its slot out of service (R237). -/
def Tables.change (t : Tables) (d : Defects) : Config.TableChange → Option Tables
  | .outField n => if n < 64 then some { t with fields := t.fields.set n none } else none
  | .outCluster cl => if cl < 4096 then some (t.dropCluster cl) else none
  | .outSlot core => if core < 65536 then some (t.dropSlot d core) else none
  | .outSpare cl => if cl < 4096 then some (t.dropSpare cl) else none
  | .sideStep cl xs ys =>
    match detourOf (cl % 64) xs ys with
    | none => none
    | some e =>
      if t.outClusters.contains cl then
        some { t with detours := t.detours.map fun x =>
          (x.1, if x.1 == cl / 64 then x.2.map fun y => if y.cluster.toNat == cl % 64 then e else y else x.2) }
      else none
  | .badRegion core layer region =>
    if 65536 ≤ core || 4 ≤ layer || 64 ≤ region then none
    else some ((t.remapMore d core (layer, region)).getD (t.dropSlot d core))

/-- Every change of a list, in order. -/
def Tables.changes (d : Defects) : List Config.TableChange → Tables → Option Tables
  | [], t => some t
  | c :: rest, t => (t.change d c).bind (Tables.changes d rest)

/-- Do tables keep R2 and R244: 60 fields, 62 clusters in each, and no two out-of-service clusters of in-service fields
within one router of each other? -/
def Tables.kept (t : Tables) : Bool :=
  let live := t.outClusters.filterMap fun cl => ((t.fields[cl / 64]?).join).map fun f => (cl, meshOf f (cl % 64))
  60 ≤ (t.fields.filter fun f => f.isSome).length
    && (live.all fun a => live.all fun b => a.1 == b.1 || !adjacent a.2 b.2)
    && (List.range 64).all fun n => (live.filter fun a => a.1 / 64 == n).length ≤ 2

/-- Is no control signal in flight on lines 0 and 1: no wave of a step change, no invalidation (R246, R254, R301)? -/
def State.linesStill (s : State) : Bool :=
  s.module.inval.isNone && match s.module.change with
    | some c => c.settling || c.at_.isNone
    | none => true

/-- Is everything still: every region quiescent, saved, halted or unloaded, and nothing in flight (R246)? -/
def State.still (s : State) : Bool :=
  s.linesStill &&
  s.graphs.all (fun g => g.st == .saved || g.st == .halted || ((g.st == .loaded || g.st == .running) && s.quiescent g))
    && s.net.isEmpty && s.packets.isEmpty && s.chans.all (fun ch => ch.flight.isEmpty && ch.credits.isEmpty)
    && s.barriers.all fun b => b.releasing.isEmpty

/-- Has a logical core of this wafer moved to another slot or gone out of service between two tables (R248)? -/
def coreMoved (t u : Tables) (core : Nat) : Bool :=
  let slot := fun (x : Tables) =>
    if ((x.fields[core / 1024]?).join).isNone || x.outClusters.contains (core / 16) then 0x1F
    else if x.spares.contains (core / 16, core % 16) then 16 else core % 16
  slot t != slot u

/-- The address whose byte stands at a key of `State.mem` under the tables of wafer w; none where no address reaches it. -/
def Tables.addressOf (t : Tables) (w key : Nat) : Option Nat :=
  if key < 2 ^ 48 then (if t.place key = key then some key else none)
  else (t.dram.flatMap fun x => x.2.map fun e =>
      dramAddr (w * 65536 + x.1) (e.layer.toNat * 2 ^ 24 + e.region.toNat * 2 ^ 18) + key % 2 ^ 18).find? fun a => t.place a == key

/-- Does a key of `State.mem` belong to a wafer? -/
def keyOn (w key : Nat) : Bool := (if 2 ^ 48 ≤ key then (key - 2 ^ 48) / 2 ^ 22 else addrCore key) / 65536 == w

/-- Memory under new tables of wafer w: every address of it reads what it read before (R3; log entry 52). -/
def rekey (t u : Tables) (w : Nat) (m : List Host.Cell) : List Host.Cell :=
  m.foldl (fun acc c =>
    if keyOn w c.1 then (match t.addressOf w c.1 with
      | some a => memSet acc (u.place a) c.2
      | none => acc)
    else memSet acc c.1 c.2) []

/-- The marked bad bytes under new tables: those of a column whose core keeps its slot move with their addresses; a core that
has moved has other cells (R3, R249, R260). -/
def reflaw (t u : Tables) (w : Nat) (l : List (Nat × Nat)) : List (Nat × Nat) :=
  l.filterMap fun x =>
    if !keyOn w x.1 then some x
    else if coreMoved t u (addrCore x.2 % 65536) then none
    else (t.addressOf w x.1).map fun a => (u.place a, x.2)

/-- A column that stands in another slot has that slot's bus, which is sound (R249, R252). -/
def State.freshBus (s : State) (cid : Nat) : State := s.modCore cid fun k => { k with retrain := .idle, busFailed := false }

/-- The new tables in force: no value depends on them but that of their views, the regions of a core that has moved or gone
cannot go on, its column has another bus, and the trees of the others are built again (R3, R245, R246, R248, R249). -/
def State.adoptTables (s : State) (u : Tables) : State :=
  let t := s.tablesOf s.home
  let gone := (s.graphs.flatMap fun g => g.cores).eraseDups.filter fun c => c / 65536 == s.home && coreMoved t u (c % 65536)
  let moved := (s.cores.map fun x => x.1).filter fun c => c / 65536 == s.home && coreMoved t u (c % 65536)
  let s0 : State := { s with
    mem := rekey t u s.home s.mem
    flaws := reflaw t u s.home s.flaws
    tables := assocSet s.tables s.home u
    graphs := s.graphs.map fun g => if g.cores.any gone.contains then { g with moved := true } else g }
  let s1 := moved.foldl State.freshBus s0
  s1.graphs.foldl (fun st g => if g.moved then st else g.groups.foldl (fun st x => st.buildGroup x.1 x.2) st) s1

/-- A reconfigure ends: the host's request completes with the outcome (R246, R264). -/
def State.endReconfigure (s : State) (host : Bool) (status : BitVec 7) : State :=
  let s1 : State := { s with module := { s.module with reconfigure := none } }
  if host then s1.reqDone 0x08 status else s1

/-- The pending reconfigure carried out; a change that would break R2 or R244 is refused, and the tables stay (R246). -/
def State.reconfigureNow (s : State) : State :=
  match s.module.reconfigure with
  | none => s
  | some r => match Tables.changes s.defects (Config.changeList r.changes) (s.tablesOf s.home) with
    | none => s.endReconfigure r.host 0x0B
    | some u => if u.kept then (s.adoptTables u).endReconfigure r.host 0x00 else s.endReconfigure r.host 0x0B

end Sys2Proof.Machine
end

