-- ==== Sys2Proof/Machine/Clock.lean ====
section
/-!
DEFINITION. Sys2Proof/Machine/Clock.lean: steps and rails (R253, R254), the droop monitor (R255), temperature and power (R258),
starts and their failures (R274 to R276), retraining, refresh and patrol scrubbing (R252, R259, R260).
-/

namespace Sys2Proof.Machine

/-- The controller's record changed. -/
def State.modModule (s : State) (f : Module → Module) : State := { s with module := f s.module }

/-! ## Step changes (R253, R254) -/

/-- The nominal core rail of a step, in millivolts (R253). -/
def railOf (step : BitVec 3) : Nat :=
  match step.toNat with
  | 0 => 550
  | 1 => 565
  | 2 => 580
  | 3 => 600
  | 4 => 620
  | 5 => 635
  | 6 => 650
  | _ => 720

/-- The logical fields in service. -/
def Tables.fieldList (t : Tables) : List Nat := (List.range 64).filter fun n => ((t.fields[n]?).join).isSome

/-- The fields that change step: all 64, for the PLLs of those out of service stay in use; the logical numbers that name no field
in service stand for them (R237, R254). -/
def pllList : List Nat := List.range 64

/-- The wave with the new step and K, 4,096 past the present wave count, sent to every field (R254). -/
def State.sendWave (s : State) (new : BitVec 3) : State :=
  s.modModule fun m => { m with change := some ⟨new, some (m.wave + 4096), [], false⟩ }

/-- A step change begun: a rise raises the rail first and waits until it settles (R254). -/
def State.beginChange (s : State) (new : BitVec 3) : State :=
  if s.module.step < new then s.modModule fun m => { m with change := some ⟨new, none, [], false⟩, railMv := railOf new }
  else s.sendWave new

/-- May a step change begin: none runs, and 100 µs have passed since the last was acknowledged (R254; log entry 14)? -/
def State.mayChange (s : State) : Bool :=
  match s.module.change with
  | none => true
  | some c => c.settling && Config.settled s.tick

/-- R254: the raised rail has settled: the wave goes out. -/
def execCoreRailSettled (s : State) : Answer :=
  match s.module.change with
  | none => .next s
  | some c => .next (if c.at_.isNone && !c.settling then s.sendWave c.new else s)

/-- R254: a field's wave counter reaches K: its periods are at the new step from the next on, and it acknowledges. -/
def execWaveCountReached (field : Nat) (s : State) : Answer :=
  match s.module.change with
  | none => .next s
  | some c => match c.at_ with
    | none => .next s
    | some k =>
      if c.settling || c.acked.contains field || !pllList.contains field then .next s
      else
        let n := s.home * 64 + field
        .next (((s.modField n fun f => { f with step := c.new }).countField n 0x0A1).modModule fun m =>
          { m with wave := max m.wave k, change := some { c with acked := c.acked ++ [field] } })

/-- R254: every field has acknowledged: the step is in force, and a fall lowers the rail. -/
def execStepChangeAcknowledged (s : State) : Answer :=
  match s.module.change with
  | none => .next s
  | some c =>
    if c.at_.isSome && !c.settling && pllList.all c.acked.contains then
      .next (s.modModule fun m => { m with
        step := c.new
        railMv := if c.new < m.step then railOf c.new else m.railMv
        change := some { c with settling := true } })
    else .next s

/-- R255: the droop monitor stretches one period, never two in a row and at most one in four. -/
def execClockStretches (field : Nat) (s : State) : Answer :=
  let n := s.home * 64 + field
  if 64 ≤ field ∨ (s.field n).unstretched ≠ 0 then .next s
  else .next ((s.modField n fun f => { f with unstretched := 3 }).countField n 0x0A0)

/-! ## Temperature and power (R258) -/

/-- R258: a reading over a threshold lowers the step of the stack by one. -/
def execThrottling (logicC dramC watts : Nat) (s : State) : Answer :=
  if s.module.mst == .running && s.module.step != 0 && s.mayChange && (95 ≤ logicC || 85 ≤ dramC || 30000 < watts) then
    .next (s.beginChange (s.module.step - 1))
  else .next s

/-- R258: every reading 5 °C below its threshold and power below 28 kW raise the step by one, to no more than the one the
management port last set. -/
def execRecovery (logicC dramC watts : Nat) (s : State) : Answer :=
  if s.module.mst == .running && s.module.step < s.module.setStep && s.mayChange && logicC ≤ 90 && dramC ≤ 80 && watts < 28000 then
    .next (s.beginChange (s.module.step + 1))
  else .next s

/-- Every region halted and the core and DRAM rails without power (R258, R271). -/
def State.cutRails (s : State) : State :=
  (s.graphs.foldl (fun st g => st.haltRegion g.num) s).modModule fun m => { m with mst := .off, railMv := 0, change := none }

/-- A trip: the machine check, every region halted, the rails cut (R258). -/
def State.trip (s : State) (kind : BitVec 8) : State :=
  (s.machineCheck kind 0 (s.home * 65536) 0xFFFF 0).cutRails

/-- R258: a trip temperature. -/
def execThermalTrip (logicC dramC : Nat) (s : State) : Answer :=
  .next (if (s.module.mst == .running || s.module.mst == .starting) && (110 ≤ logicC || 95 ≤ dramC) then s.trip 0x0A else s)

/-- R258: the core rail leaves 0.50–0.76 V. -/
def execPowerFault (railMv : Nat) (s : State) : Answer :=
  .next (if (s.module.mst == .running || s.module.mst == .starting) && (railMv < 500 || 760 < railMv) then s.trip 0x0B else s)

/-! ## Starts (R274 to R276) -/

/-- A wafer number replaced in a core number. -/
def newWafer (old new cid : Nat) : Nat := if cid / 65536 = old then new * 65536 + cid % 65536 else cid

/-- DRAM as the module finds it under its new wafer number: every pool is cleared, and every DRAM byte where the start
says so (R274, R278). -/
def startMemory (mem : List Host.Cell) (old new : Nat) (keep : Bool) : List Host.Cell :=
  mem.foldl (fun m c =>
    let spare := 2 ^ 48 ≤ c.1
    let cid := if spare then (c.1 - 2 ^ 48) / 2 ^ 22 else addrCore c.1
    if (!spare && addrPool c.1) || (cid / 65536 == old && !keep) then m
    else if spare then memSet m (2 ^ 48 + newWafer old new cid * 2 ^ 22 + c.1 % 2 ^ 22) c.2
    else memSet m (newWafer old new cid * 2 ^ 26 + c.1 % 2 ^ 26) c.2) []

/-- The marked bad bytes that a start leaves: those of DRAM where its contents survive (R260, R274). -/
def startFlaws (l : List (Nat × Nat)) (old new : Nat) (keep : Bool) : List (Nat × Nat) :=
  l.filterMap fun x =>
    let spare := 2 ^ 48 ≤ x.1
    let cid := if spare then (x.1 - 2 ^ 48) / 2 ^ 22 else addrCore x.1
    let key := if spare then 2 ^ 48 + newWafer old new cid * 2 ^ 22 + x.1 % 2 ^ 22 else newWafer old new cid * 2 ^ 26 + x.1 % 2 ^ 26
    if (!spare && addrPool x.1) || (cid / 65536 == old && !keep) then none
    else some (key, newWafer old new (addrCore x.2) * 2 ^ 26 + x.2 % 2 ^ 26)

/-- What a start leaves whatever its outcome: every region unloaded, every pool cleared, with DRAM kept or all 0; the wafer's
number and tables as given, the module's record as it was (R170, R274). -/
def State.wiped (s : State) (w : Nat) (t : Tables) (keep : Bool) : State :=
  { State.reset with
    mem := startMemory s.mem s.home w keep
    flaws := startFlaws s.flaws s.home w keep
    tables := assocSet (s.tables.filter fun x => x.1 != s.home) w t
    fields := (List.range 64).map fun n => (w * 64 + n, { Field.reset with step := s.module.step })
    defects := s.defects
    focus := newWafer s.home w s.focus
    inputs := s.inputs
    tick := s.tick
    nextId := s.nextId
    module := s.module }

/-- The machine after a start that completes, with the tables given (R274 to R276, R278). The rails stand at the step in force;
`keep` says that DRAM contents survive. A router that has failed stays so until a cold start (R247). -/
def State.started (s : State) (t : Tables) (keep : Bool) : State :=
  { s.wiped s.module.nextWafer.toNat t keep with
    failedRouters := if s.module.warm then s.failedRouters else []
    module := { s.module with
      mst := .running
      warm := false
      railMv := railOf s.module.step
      wave := 0
      change := none
      reconfigure := none
      failedStarts := 0
      starts := s.module.starts + 1
      wafer := s.module.nextWafer
      m0 := measure 0 Config.firmware
      m1 := measure 0 (Config.storedTables t.words)
      m2 := 0
      reqstat := 0
      gsel := 0
      tlbold := 0
      invstat := 0
      inval := none
      staging := []
      panes := []
      signals := (0, 0)
      rinds := s.defects.rinds.filter fun r => decide (r.port < Config.rindPorts ∧ r.peer < Config.rindPorts) } }

/-- A start that fails: a warm one falls back to a cold start at once; the third failed cold start in a row leads to
service hold with the rails off (R275). -/
def State.startFails (s : State) : State :=
  if s.module.warm then s.modModule fun m => { m with warm := false }
  else
    let n := s.module.failedStarts + 1
    s.modModule fun m => { m with
      failedStarts := n
      mst := if 3 ≤ n then .hold else .off
      powered := m.powered && decide (n < 3)
      railMv := 0 }

/-- Does step 7 or 8 of a start fail: a link, a peer that holds this wafer's number, or the firmware (R274, R278)? -/
def State.lateFailure (s : State) : Bool :=
  s.defects.steps.contains 7 || s.defects.steps.contains 8 || s.defects.rinds.any fun r => r.wafer == s.module.nextWafer

/-- The steps of the start that runs (R274): a cold one tests, clears DRAM and computes the tables, which it stores before its
later steps; a warm one takes the stored tables, and clears DRAM where the retention check fails, before its later steps. -/
def State.runStart (s : State) : State :=
  let bad := fun (n : Nat) => s.defects.steps.contains n
  let old := s.tablesOf s.home
  if s.module.warm then
    (if bad 4 then s.startFails
    else if s.lateFailure then (if bad 5 then s.wiped s.home old false else s).startFails
    else s.started old (!bad 5))
  else match s.defects.tables with
    | none => (s.wiped s.home old false).startFails
    | some t => if s.lateFailure then (s.wiped s.home t false).startFails else s.started t false

/-- R275: the start that runs fails before it writes DRAM: at step 1, or in the tests of step 2. -/
def execFailedStart (s : State) : Answer :=
  .next (if s.module.mst == .starting then (if s.module.warm then s else s.wiped s.home (s.tablesOf s.home) true).startFails else s)

/-! ## The vertical bus and scrubbing (R252, R259, R260) -/

/-- Does the port of a column hold accesses? -/
def State.portHolds (s : State) (cid : Nat) : Bool := s.net.any fun m => m.dst == cid && !m.entry

/-- The pause of a retraining begins, and is counted (R252). -/
def State.pauseBus (s : State) (cid : Nat) : State := (s.modCore cid fun k => { k with retrain := .pausing }).count cid 0x070

/-- R252: retraining falls due; the column defers it while its port holds accesses. -/
def execRetrainingDue (cid : Nat) (s : State) : Answer :=
  if (s.core cid).retrain == .pausing then .next s
  else if s.portHolds cid then .next (s.modCore cid fun k => { k with retrain := .due })
  else .next (s.pauseBus cid)

/-- R252: at 1 ms past due the column pauses. -/
def execRetrainingDeferralLimit (cid : Nat) (s : State) : Answer :=
  .next (if (s.core cid).retrain == .due then s.pauseBus cid else s)

/-- R252: the pause ends; a retraining that failed is reported, and every region that later uses the column halts. -/
def execRetrainingEnd (cid : Nat) (failed : Bool) (s : State) : Answer :=
  if (s.core cid).retrain == .pausing then
    let s1 := s.modCore cid fun k => { k with retrain := .idle, busFailed := k.busFailed || failed }
    .next (if failed then s1.machineCheck 0x09 0 cid 0xFFFF 0 else s1)
  else .next s

/-- R252: refresh pauses the bus; the pause is counted. -/
def execRefresh (cid : Nat) (s : State) : Answer := .next (s.count cid 0x070)

/-- The word of a pool, or the beat of a DRAM column, around an address is marked as beyond correction until its bytes are
written (R259, R260). -/
def State.mark (s : State) (store : Store) (addr : Nat) : State :=
  let n := match store with
    | .pool => 8
    | .dram => 32
    | .table => 0
  let bytes := (List.range n).map fun i => addr / n * n + i
  let keys := bytes.map fun a => (s.place a, addr)
  { s with flaws := keys ++ s.flaws.filter fun x => !(keys.any fun y => y.1 == x.1) }

/-- Has a word of a pool, or a beat of DRAM, a byte that is marked: `n` bytes around an address? -/
def State.flawed (s : State) (addr n : Nat) : Bool :=
  (List.range n).any fun i => s.flaws.any fun x => x.1 == s.place (addr / n * n + i)

/-- R259, R260: patrol scrubbing of one word or beat: what it corrects it counts; what it cannot correct, or finds marked, it reports,
and nothing halts. It uses the port when that is idle: not in a pause, and not behind a failed bus (R252). -/
def execPatrolScrub (cid address : Nat) (finding : ScrubFinding) (s : State) : Answer :=
  let pool := addrPool address
  if s.portBusy address || s.busDown address then .next s
  else if finding == .uncorrectable || s.flawed address (if pool then 8 else 32) then
    .next ((if finding == .uncorrectable then s.mark (if pool then .pool else .dram) address else s).machineCheck
      (if pool then 0x05 else 0x06) 0 cid 0xFFFF (BitVec.ofNat 64 address))
  else .next (if finding == .corrected then s.count cid (if pool then 0x071 else 0x072) else s)

end Sys2Proof.Machine
end

