-- ==== Sys2Proof/Machine/Elastic.lean ====
section
/-!
DEFINITION. Sys2Proof/Machine/Elastic.lean: elastic-precision instructions, majors 0x70 to 0x75 (R359 to R370).
-/

namespace Sys2Proof.Machine

/-- The value of an elastic register of a context. -/
def Context.numE (c : Context) (r : Reg) : ExNum := (c.readE r).read

/-! ## Arithmetic (R360, R362) -/

/-- Is an operation on these operands invalid: a NaN result of operands none of which is a NaN (R359, R362)? -/
def invalid (ops : List ExNum) (x : ExNum) : Bool := x.isNan && !ops.any fun v => v.isNan

/-- The exponent of a finite nonzero value (R360). -/
def ExNum.exponent : ExNum → Option Int
  | .fin _ m e => if m = 0 then none else some (ExNum.expOf m e)
  | _ => none

/-- Is a value finite? -/
def ExNum.isFinite : ExNum → Bool
  | .fin .. => true
  | _ => false

/-- The bits L lost to cancellation between operands and a result rounded to P, where R360 looks at them. -/
def bitsLost (p : Nat) (mode : BitVec 3) (draw : BitVec 16) (ops : List ExNum) (x : ExNum) : Option Int :=
  match x with
  | .fin s m e =>
    if ops.all ExNum.isFinite then
      match ops.filterMap ExNum.exponent with
      | [] => none
      | q :: rest =>
        let top := rest.foldl max q
        if m = 0 then some p
        else
          let u := ExNum.expOf m e - ((p : Int) - 1)
          some (top - ExNum.expOf (roundAt mode draw s m e u) u)
    else none
  | _ => none

/-- L where precision exhausted is raised (R360). -/
def Context.exhausted (c : Context) (ops : List ExNum) (x : ExNum) : Option Int :=
  if c.precPxe then
    match bitsLost c.precP c.precRm (c.drawFor c.precRm 0).1 ops x with
    | some l => if (c.precP : Int) - c.precMin ≤ l then some l else none
    | none => none
  else none

/-- An arithmetic form: `ops` are its operands; `x` takes the RDN flag for zero sums. -/
def State.elastic (s : State) (d : Reg) (ops : Context → List ExNum) (x : Bool → Context → ExNum) : Answer :=
  .next (s.retire fun c =>
    let r := x (c.precRm == 3) c
    c.roundE d (invalid (ops c) r) r)

/-- An arithmetic form that raises precision exhausted; `vals` are the values of R360. -/
def State.elasticSum (s : State) (d : Reg) (ops vals : Context → List ExNum) (x : Bool → Context → ExNum) : Answer :=
  let c := s.ctx
  match c.exhausted (vals c) (x (c.precRm == 3) c) with
  | some l => .next (s.trap 0x0B (d.setWidth 8) 0 (BitVec.ofInt 64 l))
  | none => s.elastic d ops x

/-- R362: a + b. -/
def execEadd (d a b : Reg) (s : State) : Answer :=
  s.elasticSum d (fun c => [c.numE a, c.numE b]) (fun c => [c.numE a, c.numE b]) fun rdn c => ExNum.addE rdn (c.numE a) (c.numE b)

/-- R362: a - b. -/
def execEsub (d a b : Reg) (s : State) : Answer :=
  s.elasticSum d (fun c => [c.numE a, c.numE b]) (fun c => [c.numE a, c.numE b]) fun rdn c =>
    ExNum.addE rdn (c.numE a) (ExNum.neg (c.numE b))

/-- R362: a × b. -/
def execEmul (d a b : Reg) (s : State) : Answer :=
  s.elastic d (fun c => [c.numE a, c.numE b]) fun _ c => ExNum.mul (c.numE a) (c.numE b)

/-- R362: a × b + c, one rounding. -/
def execEfma (d a b f : Reg) (s : State) : Answer :=
  s.elasticSum d (fun c => [c.numE a, c.numE b, c.numE f]) (fun c => [ExNum.mul (c.numE a) (c.numE b), c.numE f]) fun rdn c =>
    ExNum.addE rdn (ExNum.mul (c.numE a) (c.numE b)) (c.numE f)

/-- R362: a / b. -/
def execEdiv (d a b : Reg) (s : State) : Answer :=
  s.elastic d (fun c => [c.numE a, c.numE b]) fun _ c => ExNum.div (c.numE a) (c.numE b)

/-- R362: the square root. -/
def execEsqrt (d a : Reg) (s : State) : Answer :=
  s.elastic d (fun c => [c.numE a]) fun _ c => ExNum.sqrt (c.numE a)

/-- R362: e[a] with bit 63 of word 0 inverted. -/
def execEneg (d a : Reg) (s : State) : Answer :=
  .next (s.retire fun c => c.writeE d (c.readE a ^^^ 0x8000000000000000))

/-- R362: e[a] with bit 63 of word 0 cleared. -/
def execEabs (d a : Reg) (s : State) : Answer :=
  .next (s.retire fun c => c.writeE d (c.readE a &&& ~~~0x8000000000000000))

/-- R362: e[a], NaN bits included. -/
def execEmov (d a : Reg) (s : State) : Answer := .next (s.retire fun c => c.writeE d (c.readE a))

/-- The code of a comparison (R363). -/
def cmpCode (a b : ExNum) : Word :=
  if a.isNan || b.isNan then 3
  else match ExNum.cmp a b with
    | 0 => 0
    | -1 => 1
    | _ => 2

/-- R363: the order of e[a] and e[b]. -/
def execEcmp (d a b : Reg) (s : State) : Answer :=
  .next (s.retire fun c => c.writeS d (cmpCode (c.numE a) (c.numE b)))

/-- R364: e[a] rounded to min(len, P) bits. -/
def execErnd (d a : Reg) (l : BitVec 10) (s : State) : Answer :=
  if l = 0 ∨ 241 < l.toNat then .next (s.trap 0x01 0 0x03 0)
  else .next (s.retire fun c =>
    let (n, c') := c.drawFor c.precRm 0
    let (r, fl) := efRoundTo c.precP (min l.toNat c.precP) c.precRm n (c.numE a)
    (c'.writeE d r).orFlags fl)

/-- R365: LEN and N of e[a]. -/
def execElen (d a : Reg) (s : State) : Answer :=
  .next (s.retire fun c => c.writeS d (BitVec.ofNat 64 ((c.readE a).shortest * 256 + (c.readE a).len)))

/-! ## Setting the precision (R366, R367) -/

/-- R366: P set, the window laid out again, the old PREC to s[d]. -/
def execEprec (w : Bool) (d a : Reg) (i : BitVec 8) (s : State) : Answer :=
  let c := s.ctx
  let new := ((c.readS a).setWidth 8 + i).toNat
  .next (s.onSources w [a]
    (if new < 2 ∨ 241 < new ∨ new ≤ c.precMin then s.trap 0x0E 0 0x03 0
     else if headerWin s.runHeader < efWords new then
       s.trap 0x0C (BitVec.ofNat 8 (efWords new)) 0x01 (BitVec.ofNat 64 new)
     else s.retire fun c =>
       (Context.relayout { c with prec := putBits c.prec 0 (BitVec.ofNat 8 new) } c.precP new c.precRm).writeS d c.prec))

/-! ## Conversions (R368) -/

/-- R368: a signed or unsigned integer to EF. -/
def execEcvtEI (d a : Reg) (u w : Bool) (s : State) : Answer :=
  s.scalarOp w [a] fun c => c.roundE d false (ExNum.ofInt (if u then ((c.readS a).toNat : Int) else (c.readS a).toInt))

/-- R368: FP32 to EF. -/
def execEcvtEF (d a : Reg) (s : State) : Answer := .next (s.retire fun c => c.roundE d false (f32 (c.readF a)))

/-- R368: a binary64 image to EF. -/
def execEcvtED (d a : Reg) (w : Bool) (s : State) : Answer :=
  s.scalarOp w [a] fun c => c.roundE d false (fmtFP64.read (c.readS a).toNat)

/-- R368: EF to a signed or unsigned integer. -/
def execEcvtIE (d a : Reg) (u : Bool) (s : State) : Answer :=
  .next (s.retire fun c =>
    let m := c.chain.mode c.precRm
    let (n, c') := c.drawFor m 0
    let lo := intLo 64 (!u)
    let hi := intHi 64 (!u)
    (c'.writeS d (BitVec.ofInt 64 (toIntRange lo hi m n (c.numE a)))).orFlags (intOutFlags lo hi m n (c.numE a)))

/-- R368: EF to FP32. -/
def execEcvtFE (d a : Reg) (s : State) : Answer :=
  .next (s.retire fun c =>
    let m := c.chain.mode c.precRm
    let (n, c') := c.drawFor m 0
    (c'.writeF d (BitVec.ofNat 32 (fmtFP32.write m c.chain.sat n (c.numE a)).code)).orFlags
      (floatOutFlags fmtFP32 m n c.chain.sat (c.numE a)))

/-- R368: EF to a binary64 image. -/
def execEcvtDE (d a : Reg) (s : State) : Answer :=
  .next (s.retire fun c =>
    let m := c.chain.mode c.precRm
    let (n, c') := c.drawFor m 0
    (c'.writeS d (BitVec.ofNat 64 (fmtFP64.write m c.chain.sat n (c.numE a)).code)).orFlags
      (floatOutFlags fmtFP64 m n c.chain.sat (c.numE a)))

/-! ## Loads and stores (R369) -/

/-- A of R369. -/
def efmAddr (c : Context) (a : Reg) (o : BitVec 8) : Word := c.readS a + o.signExtend 64

/-- The bounds of an EFM access of `size` bytes, byte 0 first (R369). -/
def State.efmChecked (s : State) (a : Reg) (at_ : Word) (size : Nat) (k : State) : State :=
  if at_.toNat < s.cur.scratchLo ∨ s.cur.scratchHi ≤ at_.toNat then s.trap 0x04 (a.setWidth 8) 0 at_
  else if s.cur.scratchHi < at_.toNat + size then s.trap 0x04 (a.setWidth 8) 0 (BitVec.ofNat 64 s.cur.scratchHi)
  else k

/-- s[a] advanced by an `.inc` form. -/
def Context.advanced (c : Context) (inc : Bool) (a : Reg) (at_ : Word) (size : Nat) : Context :=
  if inc then c.writeS a (at_ + BitVec.ofNat 64 size) else c

/-- A load of an EFM value (R369). -/
def State.efmLoad (s : State) (inc w : Bool) (d a : Reg) (o : BitVec 8) : State :=
  let at_ := efmAddr s.ctx a o
  let size := efmSize (s.poolRead at_.toNat 1)
  let (x, bad) := efmRead (s.readBytes (poolAddr s.focus at_.toNat) size)
  s.onSources w [a] (s.efmChecked a at_ size (s.retire fun c => (c.roundE d bad x).advanced inc a at_ size))

/-- A store of an EFM value under field n (R369). -/
def State.efmSave (s : State) (inc w : Bool) (d a n : Reg) (o : BitVec 8) : State :=
  let at_ := efmAddr s.ctx a o
  let c := s.ctx
  let (draw, c') := c.drawFor c.precRm 0
  let (bytes, fl) := efmStore n.toNat c.precRm draw (c.readE d)
  s.onSources w [a] (s.efmChecked a at_ bytes.length
    ((s.writeBytes (poolAddr s.focus at_.toNat) bytes).retire fun _ => (c'.orFlags fl).advanced inc a at_ bytes.length))

/-- R369: a load. -/
def execEld (w : Bool) (d a : Reg) (o : BitVec 8) (s : State) : Answer := .next (s.efmLoad false w d a o)

/-- R369: a store under n. -/
def execEst (w : Bool) (d a n : Reg) (o : BitVec 8) (s : State) : Answer := .next (s.efmSave false w d a n o)

/-- R369: a load; s[a] moves past the value. -/
def execEldInc (w : Bool) (d a : Reg) (o : BitVec 8) (s : State) : Answer := .next (s.efmLoad true w d a o)

/-- R369: a store; s[a] moves past the value. -/
def execEstInc (w : Bool) (d a n : Reg) (o : BitVec 8) (s : State) : Answer := .next (s.efmSave true w d a n o)

end Sys2Proof.Machine
end

