-- ==== Sys2Proof/Machine/Invalidate.lean ====
section
/-!
DEFINITION. Sys2Proof/Machine/Invalidate.lean: invalidations of TLB entries and the splices that they retire (R301, R302, R305).
-/

namespace Sys2Proof.Machine

/-! ## Invalidation (R301, R305) -/

/-- Does a TLB entry match an invalidation (R301)? -/
def Inval.takes (v : Inval) (e : TlbEntry) : Bool :=
  let bits := match v.size.toNat with
    | 0 => 18
    | 1 => 27
    | _ => 36
  let lo := v.vpn.toNat * 2 ^ 18
  let elo := e.page * 2 ^ pageBits e.level
  e.asn == v.asn && (v.size == 3 || (lo < elo + 2 ^ pageBits e.level && elo < lo + 2 ^ bits))

/-- May a core of this wafer have translated an access with an entry that matches an invalidation: one of those that its TLB holds
for the access, `has`, or, where it holds none any more, one that it has lost since (R301; log entry 101)? -/
def State.mayMatch (s : State) (v : Inval) (cid : Nat) (has : TlbEntry → Bool) : Bool :=
  let l := (s.core cid).tlb.filter fun e => e.asn == v.asn && has e
  cid / 65536 == s.home && (l.isEmpty || l.any v.takes)

/-- Does an entry of a TLB lead to a wafer address? -/
def TlbEntry.leadsTo (e : TlbEntry) (a : Nat) : Bool := e.addr ≤ a && a < e.addr + 2 ^ pageBits e.level

/-- Is a message an access, not yet accepted at its owner's port, that a core of this wafer may have translated with a matching
entry: at its issue, at a hop of a chase, or for a later page of an EFM result (R300, R301, R378)? -/
def State.translated (s : State) (v : Inval) (m : Msg) : Bool :=
  let at_ := fun (a : Nat) => m.via.isNone && s.mayMatch v m.src (·.leadsTo a)
  m.graph == v.asn && match m.body with
    | .load a _ _ _ => at_ a
    | .store a _ _ => at_ a
    | .subStore a _ _ _ => at_ a
    | .amo _ a _ _ _ _ => at_ a
    | .ocall _ _ _ a => at_ a
    | .chasePiece _ a _ => at_ a
    | .chase p => (s.underWay m m.dst && m.via.isNone && s.mayMatch v m.src (·.covers v.asn p.va))
        || (p.later.isSome && s.mayMatch v m.dst (·.covers v.asn ((p.va / 2 ^ 18 + 1) * 2 ^ 18)))
    | _ => false

/-- Bytes of the frame that an invalidation names (R301); with SIZE 3 those of the least page (log entry 78). -/
def Inval.frame (v : Inval) : Nat :=
  match v.size.toNat with
  | 1 => 2 ^ 27
  | 2 => 2 ^ 36
  | _ => 2 ^ 18

/-- Does a splice forward bytes of a range of old pieces? -/
def Splice.covers (p : Splice) (lo hi : Nat) : Bool := p.old < hi && lo < p.old + p.len

/-- What is left of a splice without the old pieces from `lo` to before `hi`. -/
def Splice.without (p : Splice) (lo hi : Nat) : List Splice :=
  if !p.covers lo hi then [p]
  else (if p.old < lo then [{ p with len := lo - p.old }] else [])
    ++ (if hi < p.old + p.len then [{ p with old := hi, new := p.new + (hi - p.old), len := p.old + p.len - hi }] else [])

/-- Retire the splices of the frame at TLBOLD, in every column it covers; false where it names none (R302, R305). -/
def State.retireSplice (s : State) (v : Inval) : State × Bool :=
  let lo := s.module.tlbold.toNat / v.frame * v.frame
  let hi := lo + v.frame
  ({ s with cores := s.cores.map fun (n, k) => (n, { k with splices := k.splices.flatMap fun p => p.without lo hi }) },
   s.cores.any fun x => x.2.splices.any fun p => p.covers lo hi)

/-- Is an engine inside an access by virtual address whose places it may have translated with a matching entry (R301)? -/
def State.engineInside (s : State) (v : Inval) : Bool :=
  s.cores.any fun x => x.2.engines.toList.any fun e => (match e.holder with
    | some h => (getV x.2.ctxs h).graph == v.asn
    | none => false) && !e.nextVirtual.isEmpty && e.runs.any fun r => s.mayMatch v x.1 (·.leadsTo r.1)

/-- INVSTAT at the end of an invalidation: BUSY clear, DONE one more, STATUS (R301). -/
def invDone (x : Word) (status : BitVec 7) : Word :=
  putBits (putBits (putBits x 7 (0 : BitVec 1)) 8 (x.extractLsb' 8 8 + 1)) 0 status

/-- R301: every TLB of the wafer has dropped its matching entries, and every access translated with one has been
accepted: BUSY clears, and a RET splice is retired (R305). -/
def execInvalidationComplete (s : State) : Answer :=
  match s.module.inval with
  | none => .next s
  | some v =>
    if s.net.any (s.translated v) || s.engineInside v then .next s
    else
      let s1 : State := { s with
        cores := s.cores.map fun (n, k) => (n, if n / 65536 = s.module.wafer.toNat then { k with tlb := k.tlb.filter fun e => !v.takes e } else k)
        hubs := s.hubs.map fun (n, k) => (n, if n / 4096 = s.module.wafer.toNat then { k with tlb := k.tlb.filter fun e => !v.takes e } else k) }
      let (s2, ok) := if v.ret then s1.retireSplice v else (s1, true)
      .next { s2 with module := { s2.module with
        inval := none, invstat := invDone s2.module.invstat (if ok then 0x00 else 0x0B) } }

end Sys2Proof.Machine
end

