-- ==== Sys2Proof/Machine/Host.lean ====
section
/-!
DEFINITION. Sys2Proof/Machine/Host.lean: the host's side of the Micen link (R263 to R269): requests and their statuses,
channel windows, raw tokens, counter selects, REPLAY (R283), invalidation (R301, R305), the plain registers and what a host
read returns.
-/

namespace Sys2Proof.Machine

/-! ## Requests (R172, R264) -/

/-- REQ while a request runs: discarded, LOST (R264). Else, by the module's state: discarded with the rails off, refused
while a start runs or in service hold, or acted on. -/
def State.onRequest (s : State) (op : BitVec 8) (k : State → State) : State :=
  if s.module.reqstat.getLsbD 7 then { s with module := { s.module with reqstat := s.module.reqstat ||| 0x10000 } }
  else match s.module.mst with
    | .off => s
    | .starting => s.reqDone op 0x09
    | .hold => s.reqDone op 0x0D
    | .running => k s

/-- A request that goes on: OP with BUSY (R264). -/
def State.reqBusy (s : State) (op : BitVec 8) : State :=
  { s with module := { s.module with reqstat := (s.module.reqstat &&& 0x10000) ||| op.setWidth 64 <<< 8 ||| 0x80 } }

/-- The first bytes of the staging area; what the host has not written reads 0. -/
def State.staged (s : State) (n : Nat) : List Byte :=
  s.module.staging.take n ++ List.replicate (n - s.module.staging.length) 0

/-- The status of a request that the table of R172 neither lists for a state nor gives a status for: free. -/
def State.unlisted (s : State) (op : BitVec 8) (g : Graph) : State := s.reqDone op (Config.refusedStatus op.toNat g.st.code)

/-- OP 0x01: a load (R169, R172). It is done once the region is configuring, its image judged (R264; log entry 13). -/
def State.requestLoad (s : State) (graph : BitVec 16) (arg : BitVec 40) : State :=
  s.onRequest 0x01 fun s =>
    let len := arg.toNat % 2 ^ 32
    if arg.toNat / 2 ^ 32 % 2 ^ 7 != 0 then s.reqDone 0x01 0x0C
    else if (s.graph? graph).isSome then s.reqDone 0x01 0x01
    else if 0x4000000 < len then s.reqDone 0x01 0x07
    else match s.judge graph.toNat (s.staged len) with
      | .error e => s.reqDone 0x01 e
      | .ok (ims, pl) => (s.applyPlacement graph (arg.getLsbD 39) ims pl none).reqDone 0x01 0x00

/-- OP 0x02: a launch of N invocations, which queues (R171, R172, R248). -/
def State.requestLaunch (s : State) (graph : BitVec 16) (arg : BitVec 40) : State :=
  s.onRequest 0x02 fun s =>
    let n := arg.toNat
    if n = 0 ∨ 2 ^ 32 ≤ n then s.reqDone 0x02 0x0C
    else match s.graph? graph with
      | none => s.reqDone 0x02 0x02
      | some g => match g.st with
        | .unloaded => s.reqDone 0x02 0x02
        | .halted => s.reqDone 0x02 0x0E
        | .loaded =>
          if g.moved then s.reqDone 0x02 0x06
          else (((s.modGraph graph fun x => { x with launched := x.launched + n, st := .running }).settle graph).reqDone 0x02 0x00)
        | _ => (s.modGraph graph fun x => { x with launched := x.launched + n }).reqDone 0x02 0x00

/-- An edit accepted: it waits for quiescence, and launches made from now on queue behind it; in a saved region it applies
at once (R172, R173). -/
def State.acceptEdit (s : State) (g : Graph) (bytes : List Byte) : State :=
  match (s.freeRegion g).judge g.num.toNat bytes with
  | .error e => s.reqDone 0x03 e
  | .ok _ =>
    let s1 := s.modGraph g.num fun x => { x with
      edit := some bytes
      cap := if x.st == .running then some x.launched else x.cap }
    (if g.st == .saved then s1.editNow g.num else s1).reqDone 0x03 0x00

/-- OP 0x03: an edit: the table lists it for a running and a saved region. One that is editing answers "edit pending", for which
the table gives no status (R172, R173; log entry 74). -/
def State.requestEdit (s : State) (graph : BitVec 16) (arg : BitVec 40) : State :=
  s.onRequest 0x03 fun s =>
    if 2 ^ 32 ≤ arg.toNat then s.reqDone 0x03 0x0C
    else match s.graph? graph with
      | none => s.reqDone 0x03 0x02
      | some g =>
        let edit := if g.edit.isSome then s.reqDone 0x03 0x05
          else if 0x4000000 < arg.toNat then s.reqDone 0x03 0x07
          else s.acceptEdit g (s.staged arg.toNat)
        match g.st with
        | .unloaded => s.reqDone 0x03 0x02
        | .configuring => s.reqDone 0x03 0x03
        | .halted => s.reqDone 0x03 0x0E
        | .editing => s.reqDone 0x03 0x05
        | .running => edit
        | .saved => edit
        | _ => s.unlisted 0x03 g

/-- What both pre-emptions answer in the states in which neither acts; a saved or editing region answers "not running", for which
the table gives no status (R172; log entry 73). -/
def State.preemptRefused (s : State) (op : BitVec 8) (g : Graph) : State :=
  match g.st with
  | .unloaded => s.reqDone op 0x02
  | .configuring => s.reqDone op 0x03
  | .halted => s.reqDone op 0x0E
  | .loaded => s.reqDone op 0x04
  | .saved => s.reqDone op 0x04
  | .editing => s.reqDone op 0x04
  | _ => s.unlisted op g

/-- OP 0x04: no further invocation opens, and the region is saved once quiescent (R177). -/
def State.requestCooperative (s : State) (graph : BitVec 16) (arg : BitVec 40) : State :=
  s.onRequest 0x04 fun s =>
    if arg ≠ 0 then s.reqDone 0x04 0x0C
    else match s.graph? graph with
      | none => s.reqDone 0x04 0x02
      | some g =>
        if g.st == .running then
          (s.modGraph graph fun x => { x with st := .quiescing, cap := some (s.openedCount g) }).reqDone 0x04 0x00
        else s.preemptRefused 0x04 g

/-- OP 0x05: sources and firings stop, and every core halts the region's turns and holds its press commands (R177, R357). -/
def State.requestForced (s : State) (graph : BitVec 16) (arg : BitVec 40) : State :=
  s.onRequest 0x05 fun s =>
    if arg ≠ 0 then s.reqDone 0x05 0x0C
    else match s.graph? graph with
      | none => s.reqDone 0x05 0x02
      | some g =>
        if g.st == .running || g.st == .quiescing then
          let s1 := s.modGraph graph fun x => { x with st := .halting, cap := some (s.openedCount g) }
          (g.cores.foldl (fun st cid => st.modCore cid fun k => k.holdPress graph) s1).reqDone 0x05 0x00
        else s.preemptRefused 0x05 g

/-- OP 0x06: a saved region runs on, unless one of its cores has moved (R180, R248), or its frames are behind a bus that has
failed, which halts it; while a column of theirs pauses, the request waits (R252). -/
def State.requestResume (s : State) (graph : BitVec 16) (arg : BitVec 40) : State :=
  s.onRequest 0x06 fun s =>
    if arg ≠ 0 then s.reqDone 0x06 0x0C
    else match s.graph? graph with
      | none => s.reqDone 0x06 0x02
      | some g => match g.st with
        | .unloaded => s.reqDone 0x06 0x02
        | .halted => s.reqDone 0x06 0x0E
        | .saved =>
          if g.moved then s.reqDone 0x06 0x06
          else if s.framesPort g = .wait then (s.modGraph graph fun x => { x with resuming := true }).reqBusy 0x06
          else s.resumeNow g
        | _ => s.unlisted 0x06 g

/-- OP 0x07: a loaded, saved or halted region unloaded (R170, R172, R174). -/
def State.requestUnload (s : State) (graph : BitVec 16) (arg : BitVec 40) : State :=
  s.onRequest 0x07 fun s =>
    if arg ≠ 0 then s.reqDone 0x07 0x0C
    else match s.graph? graph with
      | none => s.reqDone 0x07 0x02
      | some g => match g.st with
        | .unloaded => s.reqDone 0x07 0x02
        | .loaded => (s.unloadRegion g).reqDone 0x07 0x00
        | .saved => (s.unloadRegion g).reqDone 0x07 0x00
        | .halted => (s.unloadRegion g).reqDone 0x07 0x00
        | _ => s.unlisted 0x07 g

/-- OP 0x08: a table reconfigure asked for; it begins once the wafer is still, and the request runs until it ends (R246,
R272). -/
def State.requestReconfigure (s : State) (arg : BitVec 40) : State :=
  s.onRequest 0x08 fun s =>
    if 2 ^ 32 ≤ arg.toNat ∨ 0x4000000 < arg.toNat then s.reqDone 0x08 0x0C
    else if s.module.reconfigure.isSome then s.reqDone 0x08 0x0B
    else
      let s1 := s.reqBusy 0x08
      { s1 with module := { s1.module with reconfigure := some ⟨true, s.staged arg.toNat⟩ } }

/-- OP 0x09: one entry of a router's multicast table replaced as a whole (R199). -/
def State.requestMulticast (s : State) (graph : BitVec 16) (arg : BitVec 40) : State :=
  s.onRequest 0x09 fun s =>
    let cl := graph.toNat % 4096
    let t := s.tablesOf s.home
    if graph.toNat / 4096 != 0 || arg.extractLsb' 22 10 != 0 || ((t.fields[cl / 64]?).join).isNone then s.reqDone 0x09 0x0C
    else
      let (x, y) := s.routerOf ((s.home * 4096 + cl) * 16)
      (s.setMcast s.home x y (arg.toNat / 2 ^ 32) (arg.setWidth 32 &&& 0x3FFFFF)).reqDone 0x09 0x00

/-- REQ written with its fields (R264). -/
def State.writeReq (s : State) (op : BitVec 8) (graph : BitVec 16) (arg : BitVec 40) : State :=
  match op.toNat with
  | 0x01 => s.requestLoad graph arg
  | 0x02 => s.requestLaunch graph arg
  | 0x03 => s.requestEdit graph arg
  | 0x04 => s.requestCooperative graph arg
  | 0x05 => s.requestForced graph arg
  | 0x06 => s.requestResume graph arg
  | 0x07 => s.requestUnload graph arg
  | 0x08 => s.requestReconfigure arg
  | 0x09 => s.requestMulticast graph arg
  | _ => s.onRequest op fun s => s.reqDone op 0x0C

/-- R169: the host writes REQ with OP 0x01. -/
def execLoadImage (graph : BitVec 16) (arg : BitVec 40) (s : State) : Answer := .next (s.requestLoad graph arg)

/-- R171: the host writes REQ with OP 0x02. -/
def execLaunch (graph : BitVec 16) (arg : BitVec 40) (s : State) : Answer := .next (s.requestLaunch graph arg)

/-- R173: the host writes REQ with OP 0x03. -/
def execEdit (graph : BitVec 16) (arg : BitVec 40) (s : State) : Answer := .next (s.requestEdit graph arg)

/-- R177: the host writes REQ with OP 0x04. -/
def execPreemptCooperative (graph : BitVec 16) (arg : BitVec 40) (s : State) : Answer := .next (s.requestCooperative graph arg)

/-- R177: the host writes REQ with OP 0x05. -/
def execPreemptForced (graph : BitVec 16) (arg : BitVec 40) (s : State) : Answer := .next (s.requestForced graph arg)

/-- R180: the host writes REQ with OP 0x06. -/
def execResume (graph : BitVec 16) (arg : BitVec 40) (s : State) : Answer := .next (s.requestResume graph arg)

/-- R170: the host writes REQ with OP 0x07. -/
def execUnload (graph : BitVec 16) (arg : BitVec 40) (s : State) : Answer := .next (s.requestUnload graph arg)

/-- R246: the host writes REQ with OP 0x08; the operation names no graph. -/
def execTableReconfigure (_graph : BitVec 16) (arg : BitVec 40) (s : State) : Answer := .next (s.requestReconfigure arg)

/-- R199: the host writes REQ with OP 0x09. -/
def execMulticastEntryWrite (graph : BitVec 16) (arg : BitVec 40) (s : State) : Answer := .next (s.requestMulticast graph arg)

/-- R264: an OP that the table does not list completes with 0x0C; a listed OP is another event. -/
def execReqReservedOperation (op : BitVec 8) (_graph : BitVec 16) (_arg : BitVec 40) (s : State) : Answer :=
  .next (if 1 ≤ op.toNat ∧ op.toNat ≤ 9 then s else s.onRequest op fun s => s.reqDone op 0x0C)

/-! ## REPLAY and invalidation (R283, R301) -/

/-- Does the module take the host's register writes: the rails are on (R272)? -/
def State.linkUp (s : State) : Bool := s.module.mst == .running

/-- An engine that waits for a translation is restarted (R229, R283). -/
def Engine.replayed (e : Engine) : Engine := if e.st == .waitXlate then { e with st := .running, waitMiss := none } else e

/-- Replay-all on a core: every context parked on translation is ready again, every engine that waits on translation
restarts; a saved context is not affected (R283, R306). -/
def Core.replayAll (k : Core) : Core :=
  { k with
    ctxs := k.ctxs.map fun c => if c.park == .fault && !c.saved then { c with park := .none } else c
    engines := k.engines.map Engine.replayed }

/-- A fault-buffer entry after replay-all: nobody is in fault park on it (R297; log entry 77). -/
def FaultEntry.unparked (e : FaultEntry) : FaultEntry := { e with acc := 0, ctxs := [], cores := 0, eng := 0 }

/-- REPLAY written (R283). -/
def State.writeReplay (s : State) (v : Word) : State :=
  let cl := (v.extractLsb' 0 12).toNat
  let ack := (v.extractLsb' 16 4).toNat
  let h := s.home * 4096 + cl
  if !s.linkUp || v.toNat / 2 ^ 20 != 0 || v.extractLsb' 12 4 != 0 || !s.present (h * 16) then s
  else
    let s1 := s.modHub h fun k => { k with faults := (k.faults.drop ack).map FaultEntry.unparked, drop := false }
    { s1 with cores := s1.cores.map fun (n, k) => (n, if n / 16 = h then k.replayAll else k) }

/-- R283: a host write to REPLAY. -/
def execReplay (value : BitVec 64) (s : State) : Answer := .next (s.writeReplay value)

/-- Is a page number aligned to its size (R301)? -/
def vpnAligned (v : Word) : Bool :=
  match (v.extractLsb' 62 2).toNat with
  | 0 => true
  | 1 => v.extractLsb' 0 9 == 0
  | 2 => v.extractLsb' 0 18 == 0
  | _ => v.extractLsb' 0 36 == 0

/-- TLBINV written (R301). -/
def State.writeTlbinv (s : State) (v : Word) : State :=
  if !s.linkUp then s
  else if s.module.invstat.getLsbD 7 then { s with module := { s.module with invstat := s.module.invstat ||| 0x10000 } }
  else if v.extractLsb' 52 9 != 0 || !vpnAligned v then
    { s with module := { s.module with invstat := putBits s.module.invstat 0 (0x0C : BitVec 7) } }
  else { s with module := { s.module with
      inval := some ⟨v.extractLsb' 36 16, v.extractLsb' 62 2, v.extractLsb' 0 36, v.getLsbD 61⟩
      invstat := s.module.invstat ||| 0x80 } }

/-- R301: a write to TLBINV with RET = 0. -/
def execTlbInvalidate (value : BitVec 64) (s : State) : Answer := .next (s.writeTlbinv (putBits value 61 (0 : BitVec 1)))

/-- R301, R305: a write to TLBINV with RET = 1. -/
def execTlbInvalidateRetire (value : BitVec 64) (s : State) : Answer := .next (s.writeTlbinv (putBits value 61 (1 : BitVec 1)))

/-! ## Channel windows (R265, R266) -/

/-- The key of a window's pane. -/
def paneKey (graph : BitVec 16) (n : Nat) : Nat := graph.toNat * 64 + n % 64

def State.pane (s : State) (key : Nat) : Pane := (assocGet s.module.panes key).getD ⟨0, 0, false⟩

def State.setPane (s : State) (key : Nat) (p : Pane) : State :=
  { s with module := { s.module with panes := assocSet s.module.panes key p } }

/-- The channels of a graph that end at window n, in one direction, each with the window's record of it (R148). -/
def State.windowsOf (s : State) (graph : BitVec 16) (n : Nat) (sink : Bool) : List (Window × Channel) :=
  match s.graph? graph with
  | none => []
  | some g => (g.windows.filter fun w => w.n == n && w.sink == sink).filterMap fun w => (s.chan? w.chan).map fun ch => (w, ch)

/-- The records of a window changed that satisfy `p`. -/
def State.modWindows (s : State) (graph : BitVec 16) (p : Window → Bool) (f : Window → Window) : State :=
  s.modGraph graph fun g => { g with windows := g.windows.map fun w => if p w then f w else w }

/-- Is a push refused (R266)? -/
def pushRefused (g : Graph) (w : Window) (ch : Channel) (marker : Bool) : Bool :=
  let open_ := decide (w.markers < g.opens)
  ch.free == 0 || !(g.st == .running || g.st == .quiescing) || (g.st == .quiescing && !open_) || (marker && !open_)

/-- The lanes of a payload that a mask has valid; the others carry 0 (R120). -/
def validLanes (p : BitVec 512) (m : Mask) : BitVec 512 :=
  packLanes (lanes fun i => if m.getLsbD i.toNat then laneAt (lanesOf p) i else 0)

/-- The token of a window's payload and TAG on a channel (R120, R266). -/
def windowToken (vec : Bool) (payload : BitVec 512) (tag : Word) : Token :=
  if vec then ⟨validLanes payload (tag.setWidth 16), tag.setWidth 16, tag.extractLsb' 16 3⟩
  else ⟨payload &&& 0xFFFFFFFFFFFFFFFF, 0, tag.extractLsb' 16 3⟩

/-- A write of TAG on a source window: one token of the payload bytes and TAG on each of its channels, or a refusal with OVR
(R266; log entry 81). -/
def State.pushWindow (s : State) (graph : BitVec 16) (n : Nat) (tag : Word) : State :=
  let key := paneKey graph n
  let p := { s.pane key with tag := tag &&& 0x7FFFF }
  let marker := tag.extractLsb' 16 3 == (5 : BitVec 3)
  if !s.linkUp then s
  else match s.graph? graph, s.windowsOf graph n false with
    | some g, x :: xs =>
      if (x :: xs).any fun y => pushRefused g y.1 y.2 marker then s.setPane key { p with ovr := true }
      else
        let s1 := (x :: xs).foldl (fun st y => st.modChan y.1.chan fun ch =>
          { ch with free := ch.free - 1, held := ch.held ++ [⟨windowToken ch.vec p.payload tag, [], none⟩] }) (s.setPane key p)
        s1.modWindows graph (fun w => w.n == n && !w.sink) fun w =>
          if marker then { w with markers := w.markers + 1, begun := false } else { w with begun := true }
    | _, _ => s.setPane key { p with ovr := true }

/-- R266: the host writes TAG of a source window. -/
def execWindowPush (graph : BitVec 16) (window : Nat) (tag : BitVec 64) (s : State) : Answer := .next (s.pushWindow graph window tag)

/-- The host's answer to a read with an effect. -/
def State.answer (s : State) (l : List Byte) : State := { s with module := { s.module with reply := l } }

/-- The channel of a sink window whose token is next: of those whose invocation is the earliest, the first (log entry 81). -/
def nextSink (l : List (Window × Channel)) : Option (Window × Channel) :=
  l.foldl (fun acc x => match acc with
    | none => some x
    | some y => if x.1.markers < y.1.markers then some x else acc) none

/-- R266: the host reads TAG of a sink window: the head token leaves, its payload is latched, its code and mask are
returned; without a token 0 and OVR. -/
def execWindowPop (graph : BitVec 16) (window : Nat) (s : State) : Answer :=
  let key := paneKey graph window
  if !s.linkUp then .next s
  else match (nextSink (s.windowsOf graph window true)).bind fun x => x.2.queue.head?.map fun t => (x.1, t) with
    | none => .next ((s.setPane key { s.pane key with ovr := true }).answer (leBytes 8 0))
    | some (w, t) =>
      let tag : Word := t.code.setWidth 64 <<< 16 ||| t.valid.setWidth 64
      let s1 := ((s.modChan w.chan Channel.pop).setPane key { s.pane key with payload := t.payload, tag }).answer (leBytes 8 tag.toNat)
      .next (if t.code == 5 then
          (s1.modWindows graph (fun y => y.chan == w.chan && y.sink) fun y => { y with markers := y.markers + 1 }).settle graph
        else s1)

/-! ## Raw tokens (R267) -/

/-- R267: a word token for an input entry, which the core never queues: dropped as R195 says where the entry is unbound,
else discarded, counted and reported. -/
def State.rawToken (s : State) (core entry : Nat) : State :=
  let cid := s.home * 65536 + core % 65536
  if !s.linkUp || !s.present cid then s
  else match s.chans.find? fun ch => ch.bound && ch.dst.onCore cid && ch.dent == entry with
    | none => s.droppedWord cid entry
    | some ch => (s.count cid 0x090).fabricError 0x06 (BitVec.ofNat 8 entry) cid (BitVec.ofNat 16 ch.graph) 0

/-- R267: a raw token write; the token's payload has no effect, since no core queues it. -/
def execRawTokenWrite (core entry : Nat) (_payload : BitVec 64) (s : State) : Answer := .next (s.rawToken core entry)

/-! ## Counter selects (R269, R270) -/

/-- The level of a counter. -/
inductive Level where
  | core | cluster | field
  deriving DecidableEq, Repr

/-- Does a source code count at a level (R270, and the chase sources of 0x05C to 0x05F)? -/
def sourceAt (lv : Level) (code : Nat) : Bool :=
  code == 0x0B0 || match lv with
    | .core =>
      code ≤ 0x035 || (0x040 ≤ code && code ≤ 0x04F) || code == 0x050 || code == 0x051 || (0x058 ≤ code && code ≤ 0x060)
        || (0x068 ≤ code && code ≤ 0x072) || code == 0x080 || code == 0x090
    | .cluster => (0x081 ≤ code && code ≤ 0x084) || (0x091 ≤ code && code ≤ 0x094)
    | .field => 0x0A0 ≤ code && code ≤ 0x0A2

/-- Is a source marked U: it carries neither context nor graph (R270)? -/
def sourceU (code : Nat) : Bool :=
  code == 0x0B0 || code == 0x090 || (0x05D ≤ code && code ≤ 0x05F) || (0x070 ≤ code && code ≤ 0x072)
    || (0x091 ≤ code && code ≤ 0x094) || (0x0A0 ≤ code && code ≤ 0x0A2)

/-- Is a write of CSEL taken (R269)? -/
def selectOk (lv : Level) (v : Word) : Bool :=
  let code := (v.extractLsb' 0 10).toNat
  sourceAt lv code && match (v.extractLsb' 30 2).toNat with
    | 0 => true
    | 1 => lv == .core && !sourceU code && v.extractLsb' 18 12 == 0
    | 2 => !sourceU code
    | _ => false

/-- CSEL written: the count becomes 0; a write that is not taken is discarded (R269). -/
def Counter.select (k : Counter) (lv : Level) (v : Word) : Counter :=
  if selectOk lv v then ⟨0, v &&& 0x1FFFFC3FF⟩ else k

/-- The counter of a bank that a byte offset inside the bank's area lies in. -/
def selectIn {n : Nat} (bank : Vector Counter n) (lv : Level) (off : Nat) (v : Word) : Vector Counter n :=
  if off % 16 = 8 then Vector.ofFn fun i => if i.val = off / 16 then bank[i.val].select lv v else bank[i.val] else bank

/-- A write in the counter area (R263, R269): the select registers take it, the counts do not. -/
def State.writeCounter (s : State) (off : Nat) (v : Word) : State :=
  if off < 0x400000 then
    s.modCore (s.home * 65536 + off / 64) fun k => { k with counters := selectIn k.counters .core (off % 64) v }
  else if off < 0x480000 then
    s.modHub (s.home * 4096 + (off - 0x400000) / 128) fun k => { k with counters := selectIn k.counters .cluster (off % 128) v }
  else if 0x7F0000 ≤ off ∧ off < 0x7F2000 then
    s.modField (s.home * 64 + (off - 0x7F0000) / 128) fun k => { k with counters := selectIn k.counters .field (off % 128) v }
  else s

/-- R269: the host writes CSEL of a counter. -/
def execCounterSelectWrite (offset : Nat) (value : BitVec 64) (s : State) : Answer :=
  .next (if s.linkUp then s.writeCounter offset value else s)

/-! ## What the host reads (R263) -/

/-- A doubleword of a bank's area: counts at 16i, selects at 16i + 8 (R269). -/
def bankWord {n : Nat} (bank : Vector Counter n) (off : Nat) : Word :=
  match bank.toList[off / 16]? with
  | none => 0
  | some k => if off % 16 = 8 then k.sel else k.count.setWidth 64

/-- A doubleword of the counter area. -/
def State.counterWord (s : State) (off : Nat) : Word :=
  if off < 0x400000 then bankWord (s.core (s.home * 65536 + off / 64)).counters (off % 64)
  else if off < 0x480000 then bankWord (s.hub (s.home * 4096 + (off - 0x400000) / 128)).counters (off % 128)
  else if 0x7F0000 ≤ off ∧ off < 0x7F2000 then bankWord (s.field (s.home * 64 + (off - 0x7F0000) / 128)).counters (off % 128)
  else 0

/-- A doubleword of the remap views (R239 to R244, R263). -/
def State.viewWord (s : State) (off : Nat) : Word :=
  let t := s.tablesOf s.home
  let n := off / 8
  if 0x100 ≤ n ∧ n ≤ 0x13F then t.fmap (n - 0x100)
  else if 0x140 ≤ n ∧ n ≤ 0x17F then t.cmap (n - 0x140)
  else if 0x200 ≤ n ∧ n ≤ 0x27F then t.detour ((n - 0x200) / 2) (n % 2)
  else if 0x2000 ≤ off ∧ off < 0x12000 then t.cormap ((off - 0x2000) / 16) (n % 2)
  else if 0x20000 ≤ off ∧ off < 0x420000 then t.drmap ((off - 0x20000) / 64) (n % 8)
  else 0

/-- MSTATE (R272). -/
def State.mstate (s : State) : Word :=
  let code := match s.module.mst with
    | .off => 0
    | .starting => 1
    | .running => 2
    | .hold => 3
  BitVec.ofNat 64 (code + s.module.step.toNat * 256 + if s.module.reqsig then 65536 else 0)

/-- GSTAT of the selected graph (R264). -/
def State.gstat (s : State) : Word :=
  match s.graph? s.module.gsel with
  | none => 0
  | some g => BitVec.ofNat 64 (g.ended % 2 ^ 32 * 2 ^ 32 + g.st.code)

/-- The 64 bytes of a log record (R268). -/
def LogRec.bytes (r : LogRec) : List Byte :=
  [r.cls, r.kind, r.wafer, r.detail] ++ leBytes 2 r.core.toNat ++ leBytes 2 r.graph.toNat ++ leBytes 8 r.addr.toNat
    ++ leBytes 8 r.cause.toNat ++ leBytes 8 r.faddr.toNat ++ leBytes 8 r.epc.toNat ++ List.replicate 24 0

/-- The number of the oldest record kept, modulo 2^32 (R268). -/
def State.logFirst (s : State) : Nat := (s.module.head + 2 ^ 32 - s.module.log.length) % 2 ^ 32

/-- Record number k of the management port's copy, while it is one of the last 960 (R268). -/
def State.logRecord (s : State) (k : Nat) : Option LogRec := s.module.log[(k % 2 ^ 32 + 2 ^ 32 - s.logFirst) % 2 ^ 32]?

/-- WSTAT of a window (R265). Where several channels end at a window, COUNT of a source is the least of their counters and COUNT
of a sink that of the channel whose token is next; a number that names windows of both directions reports its source (log entry
90). -/
def State.wstat (s : State) (graph : BitVec 16) (n : Nat) : Word :=
  let ovr := if (s.pane (paneKey graph n)).ovr then 2 ^ 32 else 0
  match s.windowsOf graph n false, nextSink (s.windowsOf graph n true) with
  | x :: xs, _ => BitVec.ofNat 64 (ovr + xs.foldl (fun k y => min k y.2.free) x.2.free % 65536 * 65536 + 1)
  | [], some (_, ch) => BitVec.ofNat 64 (ovr + ch.tokens % 65536 * 65536 + 3)
  | [], none => BitVec.ofNat 64 ovr

/-- A doubleword of a hub's fault buffer (R297). -/
def Hub.faultWord (k : Hub) (off : Nat) : Word :=
  if off = 0 then BitVec.ofNat 64 (k.faults.length + if k.drop then 256 else 0)
  else if off < 0x40 then 0
  else match k.faults[(off - 0x40) / 32]? with
    | none => 0
    | some e => match off % 32 / 8 with
      | 0 => BitVec.ofNat 64 e.fva
      | 1 => BitVec.ofNat 64 (e.asn.toNat * 65536 + e.level * 4096 + e.acc.toNat * 1024 + e.src.toNat * 256)
      | 2 => BitVec.ofNat 64 (e.ctxs.length * 65536 + e.cores.toNat)
      | _ => e.eng

/-- What a host read of a doubleword without an effect returns (R263): a write-only area reads 0. -/
def State.hostRead (s : State) (off : Nat) : Word :=
  if off = 0x000 then s.mstate
  else if off = 0x108 then s.module.reqstat
  else if off = 0x128 then s.module.invstat
  else if off = 0x138 then s.gstat
  else if off = 0xF00 then BitVec.ofNat 64 s.module.head
  else if 0x1000 ≤ off ∧ off < 0x10000 then
    let slot := (off - 0x1000) / 64
    match assocGet s.module.slots slot with
    | some r => BitVec.ofNat 64 (leNat (bytesAt r.bytes (off % 64) 8))
    | none => 0
  else if 0x100000000 ≤ off ∧ off < 0x120000000 then
    let g : BitVec 16 := BitVec.ofNat 16 (off / 0x2000)
    let n := off / 0x80 % 64
    let p := s.pane (paneKey g n)
    if off % 0x80 < 0x40 then BitVec.ofNat 64 (p.payload.toNat / 2 ^ (8 * (off % 0x80)))
    else if off % 0x80 = 0x40 then p.tag
    else if off % 0x80 = 0x48 then s.wstat g n
    else 0
  else if 0x200000000 ≤ off ∧ off < 0x201000000 then s.viewWord (off - 0x200000000)
  else if 0x300000000 ≤ off ∧ off < 0x300200000 then
    (s.hub (s.home * 4096 + (off - 0x300000000) / 512)).faultWord (off % 512)
  else if 0x400000000 ≤ off ∧ off < 0x400800000 then s.counterWord (off - 0x400000000)
  else 0

/-! ## Plain registers (R263) -/

/-- Bytes written into the staging area. -/
def stage (l : List Byte) (off : Nat) (bs : List Byte) : List Byte :=
  let l1 := l ++ List.replicate (off - l.length) 0
  l1.take off ++ bs ++ l1.drop (off + bs.length)

/-- A write of eight bytes somewhere in the host map (R263): a register with a behaviour of its own behaves so, payload
bytes and staging bytes are stored, W1C bits clear, and a write to anything read-only is discarded. -/
def State.hostWrite (s : State) (off : Nat) (v : Word) : State :=
  if !s.linkUp then (if off = 0x100 then s.writeReq (v.extractLsb' 56 8) (v.extractLsb' 40 16) (v.setWidth 40) else s)
  else if off = 0x100 then s.writeReq (v.extractLsb' 56 8) (v.extractLsb' 40 16) (v.setWidth 40)
  else if off = 0x108 then { s with module := { s.module with reqstat := s.module.reqstat &&& ~~~(v &&& 0x10000) } }
  else if off = 0x110 then s.writeReplay v
  else if off = 0x118 then { s with module := { s.module with tlbold := v.setWidth 48 } }
  else if off = 0x120 then s.writeTlbinv v
  else if off = 0x128 then { s with module := { s.module with invstat := s.module.invstat &&& ~~~(v &&& 0x10000) } }
  else if off = 0x130 then { s with module := { s.module with gsel := v.setWidth 16 } }
  else if 0x1000000 ≤ off ∧ off + 8 ≤ 0x5000000 then
    { s with module := { s.module with staging := stage s.module.staging (off - 0x1000000) (leBytes 8 v.toNat) } }
  else if 0x100000000 ≤ off ∧ off < 0x120000000 then
    let g : BitVec 16 := BitVec.ofNat 16 (off / 0x2000)
    let n := off / 0x80 % 64
    let key := paneKey g n
    let p := s.pane key
    if off % 0x80 + 8 ≤ 0x40 then
      let at_ := 8 * (off % 0x80)
      let mask : BitVec 512 := (0xFFFFFFFFFFFFFFFF : BitVec 512) <<< at_
      s.setPane key { p with payload := (p.payload &&& ~~~mask) ||| (v.setWidth 512 <<< at_) }
    else if off % 0x80 = 0x40 then s.pushWindow g n v
    else if off % 0x80 = 0x48 then s.setPane key { p with ovr := p.ovr && !v.getLsbD 32 }
    else s
  else if 0x400000000 ≤ off ∧ off < 0x400800000 then s.writeCounter (off - 0x400000000) v
  else if 0x500000000 ≤ off ∧ off < 0x504000000 ∧ off % 16 = 0 then
    s.rawToken ((off - 0x500000000) / 1024) (off % 1024 / 16)
  else s

/-- R263: a host write. -/
def execHostRegisterWrite (offset : Nat) (value : BitVec 64) (s : State) : Answer := .next (s.hostWrite offset value)

end Sys2Proof.Machine
end

