-- ==== Sys2Proof/Machine/Mgmt.lean ====
section
/-!
DEFINITION. Sys2Proof/Machine/Mgmt.lean: the management port (R271 to R273, R276 to R278): the checks of a command record,
its reply record, and the commands.
-/

namespace Sys2Proof.Machine

/-! ## Records (R273) -/

/-- The bytes that a record's signature covers: 0 to 39 + LEN. -/
def recordBytes (r : CommandRecord) : List Byte :=
  leBytes 4 r.magic.toNat ++ [r.ver, r.cmd] ++ leBytes 2 r.payload.length ++ leBytes 8 r.seq.toNat ++ leBytes 16 Config.serial.toNat
    ++ [r.key] ++ List.replicate 7 0 ++ r.payload

/-- Is a record malformed for command `cmd`, whose payload has one of the sizes given? -/
def recordMalformed (r : CommandRecord) (cmd : BitVec 8) (sizes : List Nat) : Bool :=
  r.magic != 0x434D4B49 || r.ver != 1 || r.cmd != cmd || !r.reservedZero || !r.sized || !r.serialOk || 61440 < r.payload.length
    || !sizes.contains r.payload.length

/-- Is a record signed by an enrolled operator key with a new sequence number? -/
def State.signedRecord (s : State) (r : CommandRecord) : Bool :=
  r.key.toNat ≤ 7 && (assocGet s.module.seqs r.key.toNat).getD 0 < r.seq.toNat && match assocGet s.module.keys r.key.toNat with
    | none => false
    | some k => signatureOk k (recordBytes r) r.signature

/-- The reply record to a record: status and payload (R273). -/
def State.replyTo (s : State) (r : CommandRecord) (status : BitVec 7) (payload : List Byte) : State :=
  s.answer (leBytes 4 0x524D4B49 ++ [1, r.cmd, status.setWidth 8, 0] ++ leBytes 8 r.seq.toNat ++ leBytes 4 payload.length ++ payload)

/-- The greatest accepted SEQ of a record's key kept (R273). -/
def State.takeSeq (s : State) (r : CommandRecord) : State :=
  s.modModule fun m => { m with seqs := assocSet m.seqs r.key.toNat r.seq.toNat }

/-- A command whose signature is required: refused with 0x0C where malformed, with 0x08 where not signed; else its SEQ is
taken and `k` acts and gives the status (R271, R273). -/
def State.command (s : State) (r : CommandRecord) (cmd : BitVec 8) (sizes : List Nat) (k : State → BitVec 7 × State) : State :=
  if recordMalformed r cmd sizes then s.replyTo r 0x0C []
  else if !s.signedRecord r then s.replyTo r 0x08 []
  else
    let out := k (s.takeSeq r)
    out.2.replyTo r out.1 []

/-- A command that the table "Management commands" allows while the rails are on; the status of its refusal is open (R271; log
entry 13). -/
def State.whilePowered (s : State) (cmd : BitVec 8) (k : BitVec 7 × State) : BitVec 7 × State :=
  if s.module.powered then k else (Config.refusedStatus cmd.toNat 16, s)

/-- A read, whose signature is optional: it is answered with `k`'s payload, where `powered` only while the rails are on. -/
def State.query (s : State) (r : CommandRecord) (cmd : BitVec 8) (size : Nat) (powered : Bool) (k : State → List Byte) : State :=
  if recordMalformed r cmd [size] then s.replyTo r 0x0C []
  else if powered && !s.module.powered then s.replyTo r (Config.refusedStatus cmd.toNat 16) []
  else s.replyTo r 0x00 (k s)

/-- A byte of a payload as a number. -/
def payloadNat (r : CommandRecord) (o n : Nat) : Nat := numAt r.payload o n

/-! ## Power and starts (R271, R274, R275) -/

/-- R271: power on; in service hold the rails stay off (R275). -/
def execPowerOn (rec : CommandRecord) (s : State) : Answer :=
  .next (s.command rec 0x01 [0] fun s => (0x00, s.modModule fun m => { m with powered := m.powered || m.mst != .hold }))

/-- R271: power off halts every region. -/
def execPowerOff (rec : CommandRecord) (s : State) : Answer :=
  .next (s.command rec 0x02 [0] fun s =>
    let hold := s.module.mst == .hold
    (0x00, s.cutRails.modModule fun m => { m with powered := false, mst := if hold then .hold else .off }))

/-- A start accepted: it runs until its steps are done; refused while one runs or in service hold (R271, R275). -/
def State.acceptStart (s : State) (warm : Bool) (op : BitVec 8) : BitVec 7 × State :=
  match s.module.mst with
  | .starting => (0x09, s)
  | .hold => (0x0D, s)
  | _ => s.whilePowered op (0x00, s.modModule fun m => { m with mst := .starting, warm, m0 := 0, m1 := 0, m2 := 0 })

/-- R274: cold start. -/
def execColdStart (rec : CommandRecord) (s : State) : Answer := .next (s.command rec 0x03 [0] fun s => s.acceptStart false 3)

/-- R274: warm start. -/
def execWarmStart (rec : CommandRecord) (s : State) : Answer := .next (s.command rec 0x04 [0] fun s => s.acceptStart true 4)

/-- R275: service hold left. -/
def execClearServiceHold (rec : CommandRecord) (s : State) : Answer :=
  .next (s.command rec 0x05 [0] fun s =>
    if s.module.mst == .hold then (0x00, s.modModule fun m => { m with mst := .off }) else (0x0C, s))

/-! ## Step, limiter, policy, keys, wafer number -/

/-- R254: a step change asked for; refused while one is in progress or the module does not run. -/
def execSetStep (rec : CommandRecord) (s : State) : Answer :=
  .next (s.command rec 0x06 [1] fun s =>
    let step := payloadNat rec 0 1
    if 8 ≤ step then (0x0C, s)
    else if s.module.mst != .running then (0x09, s)
    else if !s.mayChange then (0x0A, s)
    else (0x00, (s.modModule fun m => { m with setStep := BitVec.ofNat 3 step }).beginChange (BitVec.ofNat 3 step)))

/-- R262: FRATE of a field. -/
def execWriteFrate (rec : CommandRecord) (s : State) : Answer :=
  .next (s.command rec 0x07 [10] fun s =>
    let f := payloadNat rec 0 2
    let v : Word := BitVec.ofNat 64 (payloadNat rec 2 8)
    let win := (v.extractLsb' 24 4).toNat
    if s.module.mst != .running then (0x09, s)
    else if !(s.tablesOf s.home).fieldList.contains f || 13 ≤ win || (v.getLsbD 28 && v.extractLsb' 0 16 == 0) then (0x0C, s)
    else (0x00, s.modField (s.home * 64 + f) fun x => { x with frate := v &&& 0x1F00FFFF }))

/-- R246: a table reconfigure asked for by the management port; its payload is the change list. -/
def execMgmtTableReconfigure (rec : CommandRecord) (s : State) : Answer :=
  .next (s.command rec 0x08 [rec.payload.length] fun s =>
    if s.module.mst != .running || s.module.reconfigure.isSome then (0x0B, s)
    else (0x00, s.modModule fun m => { m with reconfigure := some ⟨false, rec.payload⟩ }))

/-- R276: REQSIG. -/
def execSetImagePolicy (rec : CommandRecord) (s : State) : Answer :=
  .next (s.command rec 0x09 [1] fun s =>
    let b := payloadNat rec 0 1
    s.whilePowered 0x09 (if 2 ≤ b then (0x0C, s) else (0x00, s.modModule fun m => { m with reqsig := b == 1 })))

/-- A key enrolled, its SEQ record 0, or removed; the last enrolled key stays (R273). -/
def State.enrol (s : State) (i : Nat) (key : List Byte) : BitVec 7 × State :=
  if 8 ≤ i then (0x0C, s)
  else if key.isEmpty then
    (if (s.module.keys.filter fun k => k.1 != i).isEmpty then (0x0C, s)
     else (0x00, s.modModule fun m => { m with keys := m.keys.filter fun k => k.1 != i }))
  else (0x00, s.modModule fun m => { m with keys := assocSet m.keys i key, seqs := assocSet m.seqs i 0 })

/-- R273: an operator key enrolled or removed; while none is enrolled, one unsigned enrolment of key 0 over I3C. -/
def execEnrolOperatorKey (rec : CommandRecord) (s : State) : Answer :=
  let i := payloadNat rec 0 1
  let key := rec.payload.drop 1
  if s.module.keys.isEmpty && rec.key == 0xFF then
    .next (if recordMalformed rec 0x0A [1, 1953] then s.replyTo rec 0x0C []
      else if i = 0 ∧ key.isEmpty = false ∧ rec.overI3c then
        let out := s.whilePowered 0x0A (s.enrol i key)
        out.2.replyTo rec out.1 []
      else s.replyTo rec 0x08 [])
  else .next (s.command rec 0x0A [1, 1953] fun s => s.whilePowered 0x0A (s.enrol i key))

/-- R278: the system wafer number, from the next start on. -/
def execSetSystemWaferNumber (rec : CommandRecord) (s : State) : Answer :=
  .next (s.command rec 0x0B [1] fun s =>
    let w := payloadNat rec 0 1
    if 32 ≤ w then (0x0C, s) else (0x00, s.modModule fun m => { m with nextWafer := BitVec.ofNat 5 w }))

/-- R269: a counter select. -/
def execMgmtWriteCounterSelect (rec : CommandRecord) (s : State) : Answer :=
  .next (s.command rec 0x0C [12] fun s => (0x00, s.writeCounter (payloadNat rec 0 4) (BitVec.ofNat 64 (payloadNat rec 4 8))))

/-! ## Reads (R273, R277) -/

/-- R273: MSTATE, the failed cold starts, the step last set. -/
def execReadStatus (rec : CommandRecord) (s : State) : Answer :=
  .next (s.query rec 0x10 0 false fun s => Config.statusAnswer s.mstate s.module.failedStarts s.module.setStep.toNat)

/-- Bytes that one reply's payload can take: a UDP datagram of 65,507 bytes less the reply's 20 (R273). -/
def replyRoom : Nat := 65487

/-- The records from an index on, as long as they are there. -/
def State.logFrom (s : State) (k : Nat) : Nat → List Byte
  | 0 => []
  | n + 1 => match s.logRecord k with
    | none => []
    | some r => r.bytes ++ s.logFrom (k + 1) n

/-- R268: log records. -/
def execReadLog (rec : CommandRecord) (s : State) : Answer :=
  .next (s.query rec 0x11 6 true fun s => s.logFrom (payloadNat rec 0 4) (min (payloadNat rec 4 2) (replyRoom / 64)))

/-- Doublewords of an area from an offset, as many as a length asks for and a reply holds. -/
def areaBytes (word : Nat → Word) (off len : Nat) : List Byte :=
  (List.range (min len replyRoom / 8)).flatMap fun i => leBytes 8 (word (off + 8 * i)).toNat

/-- R269: counters. -/
def execReadCounters (rec : CommandRecord) (s : State) : Answer :=
  .next (s.query rec 0x12 8 true fun s => areaBytes s.counterWord (payloadNat rec 0 4) (payloadNat rec 4 4))

/-- R239: remap views. -/
def execReadRemapViews (rec : CommandRecord) (s : State) : Answer :=
  .next (s.query rec 0x13 8 true fun s => areaBytes s.viewWord (payloadNat rec 0 4) (payloadNat rec 4 4))

/-- The loaded regions with their digests (R277): those whose image every core has. -/
def State.attested (s : State) : List (Nat × BitVec 512) :=
  (s.graphs.filter fun g => g.st != .configuring && g.st != .unloaded).map fun g => (g.num.toNat, g.digest)

/-- R277: the signed report for a nonce, whichever master gives it. -/
def execAttestation (rec : CommandRecord) (s : State) : Answer :=
  .next (s.query rec 0x14 32 true fun s =>
    let m := s.module
    let report := Config.reportBytes rec.payload [m.m0, m.m1, m.m2] m.step.toNat m.starts s.attested
    report ++ Config.deviceSign report)

/-- The commands of the table "Command codes". -/
def knownCommand (c : BitVec 8) : Bool := (1 ≤ c.toNat && c.toNat ≤ 0x0C) || (0x10 ≤ c.toNat && c.toNat ≤ 0x14)

/-- R273: a malformed record, or one with a CMD that is not in the table; any other record is its command's event. -/
def execMgmtRecordRefused (rec : CommandRecord) (s : State) : Answer :=
  .next (if knownCommand rec.cmd && !recordMalformed rec rec.cmd [rec.payload.length] then s else s.replyTo rec 0x0C [])

end Sys2Proof.Machine
end

