-- ==== Sys2Proof/Machine/Scalar.lean ====
section
/-!
DEFINITION. Sys2Proof/Machine/Scalar.lean: integer arithmetic, majors 0x00 to 0x13 (R43 to R47).
-/

namespace Sys2Proof.Machine

/-- R43: s[d] ← s[a] + s[b]. -/
def execAdd (d a b : Reg) (w : Bool) (s : State) : Answer :=
  s.scalarOp w [a, b] fun c => c.writeS d (c.readS a + c.readS b)

/-- R43: s[d] ← s[a] - s[b]. -/
def execSub (d a b : Reg) (w : Bool) (s : State) : Answer :=
  s.scalarOp w [a, b] fun c => c.writeS d (c.readS a - c.readS b)

/-- R43: s[d] ← s[a] AND s[b]. -/
def execAnd (d a b : Reg) (w : Bool) (s : State) : Answer :=
  s.scalarOp w [a, b] fun c => c.writeS d (c.readS a &&& c.readS b)

/-- R43: s[d] ← s[a] OR s[b]. -/
def execOr (d a b : Reg) (w : Bool) (s : State) : Answer :=
  s.scalarOp w [a, b] fun c => c.writeS d (c.readS a ||| c.readS b)

/-- R43: s[d] ← s[a] XOR s[b]. -/
def execXor (d a b : Reg) (w : Bool) (s : State) : Answer :=
  s.scalarOp w [a, b] fun c => c.writeS d (c.readS a ^^^ c.readS b)

/-- R43: s[d] ← s[a] AND NOT s[b]. -/
def execAndn (d a b : Reg) (w : Bool) (s : State) : Answer :=
  s.scalarOp w [a, b] fun c => c.writeS d (c.readS a &&& ~~~(c.readS b))

/-- R43: s[d] ← s[a] OR NOT s[b]. -/
def execOrn (d a b : Reg) (w : Bool) (s : State) : Answer :=
  s.scalarOp w [a, b] fun c => c.writeS d (c.readS a ||| ~~~(c.readS b))

/-- R43: s[d] ← NOT (s[a] XOR s[b]). -/
def execXnor (d a b : Reg) (w : Bool) (s : State) : Answer :=
  s.scalarOp w [a, b] fun c => c.writeS d (~~~(c.readS a ^^^ c.readS b))

/-- R43: shift left by s[b]<5:0>. -/
def execSll (d a b : Reg) (w : Bool) (s : State) : Answer :=
  s.scalarOp w [a, b] fun c => c.writeS d (c.readS a <<< shamt (c.readS b))

/-- R43: shift right by s[b]<5:0>, zeros in. -/
def execSrl (d a b : Reg) (w : Bool) (s : State) : Answer :=
  s.scalarOp w [a, b] fun c => c.writeS d (c.readS a >>> shamt (c.readS b))

/-- R43: shift right by s[b]<5:0>, copies of bit 63 in. -/
def execSra (d a b : Reg) (w : Bool) (s : State) : Answer :=
  s.scalarOp w [a, b] fun c => c.writeS d ((c.readS a).sshiftRight (shamt (c.readS b)))

/-- R43: rotate left by s[b]<5:0>. -/
def execRol (d a b : Reg) (w : Bool) (s : State) : Answer :=
  s.scalarOp w [a, b] fun c => c.writeS d ((c.readS a).rotateLeft (shamt (c.readS b)))

/-- R43: rotate right by s[b]<5:0>. -/
def execRor (d a b : Reg) (w : Bool) (s : State) : Answer :=
  s.scalarOp w [a, b] fun c => c.writeS d ((c.readS a).rotateRight (shamt (c.readS b)))

/-- R43: bits 63:0 of the product. -/
def execMul (d a b : Reg) (w : Bool) (s : State) : Answer :=
  s.scalarOp w [a, b] fun c => c.writeS d (c.readS a * c.readS b)

/-- R43, R44: the 128-bit product of signed operands. -/
def execMulpS (d a b : Reg) (w : Bool) (s : State) : Answer :=
  s.scalarOp w [a, b] fun c => c.writePair d (mulFull true true (c.readS a) (c.readS b))

/-- R43, R44: the 128-bit product of unsigned operands. -/
def execMulpU (d a b : Reg) (w : Bool) (s : State) : Answer :=
  s.scalarOp w [a, b] fun c => c.writePair d (mulFull false false (c.readS a) (c.readS b))

/-- R43, R44: the 128-bit product of signed s[a] and unsigned s[b]. -/
def execMulpSu (d a b : Reg) (w : Bool) (s : State) : Answer :=
  s.scalarOp w [a, b] fun c => c.writePair d (mulFull true false (c.readS a) (c.readS b))

/-- R43, R44: signed quotient toward zero and its remainder. -/
def execDivqS (d a b : Reg) (w : Bool) (s : State) : Answer :=
  s.scalarOp w [a, b] fun c => c.writePair d (divSigned (c.readS a) (c.readS b))

/-- R43, R44: unsigned quotient and remainder. -/
def execDivqU (d a b : Reg) (w : Bool) (s : State) : Answer :=
  s.scalarOp w [a, b] fun c => c.writePair d (divUnsigned (c.readS a) (c.readS b))

/-- R43, R44: signed quotient toward -∞ and its remainder. -/
def execDivqF (d a b : Reg) (w : Bool) (s : State) : Answer :=
  s.scalarOp w [a, b] fun c => c.writePair d (divFloor (c.readS a) (c.readS b))

/-- R43: the lesser, signed. -/
def execMin (d a b : Reg) (w : Bool) (s : State) : Answer :=
  s.scalarOp w [a, b] fun c => c.writeS d (if (c.readS a).slt (c.readS b) then c.readS a else c.readS b)

/-- R43: the greater, signed. -/
def execMax (d a b : Reg) (w : Bool) (s : State) : Answer :=
  s.scalarOp w [a, b] fun c => c.writeS d (if (c.readS a).slt (c.readS b) then c.readS b else c.readS a)

/-- R43: the lesser, unsigned. -/
def execMinu (d a b : Reg) (w : Bool) (s : State) : Answer :=
  s.scalarOp w [a, b] fun c => c.writeS d (if (c.readS a).ult (c.readS b) then c.readS a else c.readS b)

/-- R43: the greater, unsigned. -/
def execMaxu (d a b : Reg) (w : Bool) (s : State) : Answer :=
  s.scalarOp w [a, b] fun c => c.writeS d (if (c.readS a).ult (c.readS b) then c.readS b else c.readS a)

/-- R45: field of s[a], sign-extended. -/
def execBfx (d a b : Reg) (w : Bool) (s : State) : Answer :=
  s.scalarOp w [a, b] fun c => c.writeS d (bitField true (c.readS a) (c.readS b))

/-- R45: field of s[a], zero-extended. -/
def execBfxu (d a b : Reg) (w : Bool) (s : State) : Answer :=
  s.scalarOp w [a, b] fun c => c.writeS d (bitField false (c.readS a) (c.readS b))

/-- R45: s[d] with the field replaced by low bits of s[a]; s[d] is a source. -/
def execBfi (d a b : Reg) (w : Bool) (s : State) : Answer :=
  s.scalarOp w [d, a, b] fun c => c.writeS d (bitInsert (c.readS d) (c.readS a) (c.readS b))

/-- R43: leading zeros of s[a], 0 to 64. -/
def execClz (d a : Reg) (w : Bool) (s : State) : Answer :=
  s.scalarOp w [a] fun c => c.writeS d (BitVec.ofNat 64 (leadingZeros (c.readS a)))

/-- R43: trailing zeros of s[a], 0 to 64. -/
def execCtz (d a : Reg) (w : Bool) (s : State) : Answer :=
  s.scalarOp w [a] fun c => c.writeS d (BitVec.ofNat 64 (leadingZeros (c.readS a).reverse))

/-- R43: set bits of s[a], 0 to 64. -/
def execPopc (d a : Reg) (w : Bool) (s : State) : Answer :=
  s.scalarOp w [a] fun c => c.writeS d (BitVec.ofNat 64 (popCount (c.readS a).toNat 64))

/-- R43: bit i to bit 63 - i. -/
def execBrev (d a : Reg) (w : Bool) (s : State) : Answer :=
  s.scalarOp w [a] fun c => c.writeS d ((c.readS a).reverse)

/-- R43: byte i to byte 7 - i. -/
def execBswap (d a : Reg) (w : Bool) (s : State) : Answer :=
  s.scalarOp w [a] fun c => c.writeS d (byteSwap (c.readS a))

/-- R43: 1 if equal, else 0. -/
def execSeq (d a b : Reg) (w : Bool) (s : State) : Answer :=
  s.scalarOp w [a, b] fun c => c.writeS d (ofBool64 (c.readS a == c.readS b))

/-- R43: 1 if not equal, else 0. -/
def execSne (d a b : Reg) (w : Bool) (s : State) : Answer :=
  s.scalarOp w [a, b] fun c => c.writeS d (ofBool64 (c.readS a != c.readS b))

/-- R43: 1 if less, signed, else 0. -/
def execSlt (d a b : Reg) (w : Bool) (s : State) : Answer :=
  s.scalarOp w [a, b] fun c => c.writeS d (ofBool64 ((c.readS a).slt (c.readS b)))

/-- R43: 1 if greater or equal, signed, else 0. -/
def execSge (d a b : Reg) (w : Bool) (s : State) : Answer :=
  s.scalarOp w [a, b] fun c => c.writeS d (ofBool64 (!(c.readS a).slt (c.readS b)))

/-- R43: 1 if less, unsigned, else 0. -/
def execSltu (d a b : Reg) (w : Bool) (s : State) : Answer :=
  s.scalarOp w [a, b] fun c => c.writeS d (ofBool64 ((c.readS a).ult (c.readS b)))

/-- R43: 1 if greater or equal, unsigned, else 0. -/
def execSgeu (d a b : Reg) (w : Bool) (s : State) : Answer :=
  s.scalarOp w [a, b] fun c => c.writeS d (ofBool64 (!(c.readS a).ult (c.readS b)))

/-- R43: s[a] if s[c] is not 0, else s[b]. -/
def execSel (d a b c : Reg) (w : Bool) (s : State) : Answer :=
  s.scalarOp w [a, b, c] fun x => x.writeS d (if x.readS c ≠ 0 then x.readS a else x.readS b)

/-- R46: s[a] + X. -/
def execAddi (w : Bool) (d a : Reg) (i : BitVec 15) (s : State) : Answer :=
  s.scalarOp w [a] fun c => c.writeS d (c.readS a + c.chain.immS i)

/-- R46: s[a] AND X. -/
def execAndi (w : Bool) (d a : Reg) (i : BitVec 15) (s : State) : Answer :=
  s.scalarOp w [a] fun c => c.writeS d (c.readS a &&& c.chain.immS i)

/-- R46: s[a] OR X. -/
def execOri (w : Bool) (d a : Reg) (i : BitVec 15) (s : State) : Answer :=
  s.scalarOp w [a] fun c => c.writeS d (c.readS a ||| c.chain.immS i)

/-- R46: s[a] XOR X. -/
def execXori (w : Bool) (d a : Reg) (i : BitVec 15) (s : State) : Answer :=
  s.scalarOp w [a] fun c => c.writeS d (c.readS a ^^^ c.chain.immS i)

/-- R46: shift left by the immediate. -/
def execSlli (w : Bool) (d a : Reg) (n : BitVec 6) (s : State) : Answer :=
  s.scalarOp w [a] fun c => c.writeS d (c.readS a <<< n.toNat)

/-- R46: shift right by the immediate, zeros in. -/
def execSrli (w : Bool) (d a : Reg) (n : BitVec 6) (s : State) : Answer :=
  s.scalarOp w [a] fun c => c.writeS d (c.readS a >>> n.toNat)

/-- R46: shift right by the immediate, copies of bit 63 in. -/
def execSrai (w : Bool) (d a : Reg) (n : BitVec 6) (s : State) : Answer :=
  s.scalarOp w [a] fun c => c.writeS d ((c.readS a).sshiftRight n.toNat)

/-- R46: 1 if s[a] < X, signed, else 0. -/
def execSlti (w : Bool) (d a : Reg) (i : BitVec 15) (s : State) : Answer :=
  s.scalarOp w [a] fun c => c.writeS d (ofBool64 ((c.readS a).slt (c.chain.immS i)))

/-- R46: 1 if s[a] < X, unsigned, else 0. -/
def execSltiu (w : Bool) (d a : Reg) (i : BitVec 15) (s : State) : Answer :=
  s.scalarOp w [a] fun c => c.writeS d (ofBool64 ((c.readS a).ult (c.chain.immS i)))

/-- R47: the immediate, sign-extended. -/
def execLi (d : Reg) (i : BitVec 15) (s : State) : Answer :=
  .next (s.retire fun c => c.writeS d (c.chain.immS i))

/-- R47: the immediate, zero-extended. -/
def execLiu (d : Reg) (i : BitVec 15) (s : State) : Answer :=
  .next (s.retire fun c => c.writeS d (c.chain.immU i))

end Sys2Proof.Machine
end

