-- ==== Sys2Proof/Machine/Scale.lean ====
section
/-!
DEFINITION. Sys2Proof/Machine/Scale.lean: scale-register arithmetic, major 0x14 (R48, R49).
-/

namespace Sys2Proof.Machine

/-- R48, R49: f[a] + f[b], rounded once. -/
def execFadd (d a b : Reg) (s : State) : Answer :=
  .next (s.retire fun c => c.roundF d 0 fun rdn => ExNum.add rdn (f32 (c.readF a)) (f32 (c.readF b)))

/-- R48, R49: f[a] - f[b], rounded once. -/
def execFsub (d a b : Reg) (s : State) : Answer :=
  .next (s.retire fun c => c.roundF d 0 fun rdn => ExNum.add rdn (f32 (c.readF a)) (ExNum.neg (f32 (c.readF b))))

/-- R48, R49: f[a] × f[b], rounded once. -/
def execFmul (d a b : Reg) (s : State) : Answer :=
  .next (s.retire fun c => c.roundF d 0 fun _ => ExNum.mul (f32 (c.readF a)) (f32 (c.readF b)))

/-- R48, R49: f[a] × f[b] + f[c], one rounding. -/
def execFfma (d a b c : Reg) (s : State) : Answer :=
  .next (s.retire fun x => x.roundF d 0 fun rdn => ExNum.add rdn (ExNum.mul (f32 (x.readF a)) (f32 (x.readF b))) (f32 (x.readF c)))

/-- R49: the lesser. -/
def execFmin (d a b : Reg) (s : State) : Answer :=
  .next (s.retire fun c => c.writeF d (f32Min (c.readF a) (c.readF b)))

/-- R49: the greater. -/
def execFmax (d a b : Reg) (s : State) : Answer :=
  .next (s.retire fun c => c.writeF d (f32Max (c.readF a) (c.readF b)))

/-- R48: f[a] with bit 31 inverted. -/
def execFneg (d a : Reg) (s : State) : Answer :=
  .next (s.retire fun c => c.writeF d (c.readF a ^^^ 0x80000000))

/-- R48: f[a] with bit 31 cleared. -/
def execFabs (d a : Reg) (s : State) : Answer :=
  .next (s.retire fun c => c.writeF d (c.readF a &&& 0x7FFFFFFF))

/-- R48: f[a], NaN payloads included. -/
def execFmov (d a : Reg) (s : State) : Answer :=
  .next (s.retire fun c => c.writeF d (c.readF a))

/-- R49: f[a] converted to a signed 64-bit integer, RTZ unless `rnd` names a mode; NaN converts to 0. -/
def execFcvtSF (d a : Reg) (s : State) : Answer :=
  .next (s.retire fun c =>
    let m := c.chain.mode 1
    let (n, c') := c.drawFor m 0
    c'.writeS d (BitVec.ofInt 64 (toIntRange (intLo 64 true) (intHi 64 true) m n (f32 (c.readF a)))))

/-- R48: s[a] read as a signed integer, rounded to FP32. -/
def execFcvtFS (d a : Reg) (w : Bool) (s : State) : Answer :=
  s.scalarOp w [a] fun c => c.roundF d 0 fun _ => ExNum.ofInt (c.readS a).toInt

/-- R48, R49: 1 if equal, else 0; 0 when one is NaN. -/
def execFeq (d a b : Reg) (s : State) : Answer :=
  .next (s.retire fun c => c.writeS d (ofBool64 (ExNum.eqB (f32 (c.readF a)) (f32 (c.readF b)))))

/-- R48, R49: 1 if less, else 0; 0 when one is NaN. -/
def execFlt (d a b : Reg) (s : State) : Answer :=
  .next (s.retire fun c => c.writeS d (ofBool64 (ExNum.ltB (f32 (c.readF a)) (f32 (c.readF b)))))

/-- R48, R49: 1 if less or equal, else 0; 0 when one is NaN. -/
def execFle (d a b : Reg) (s : State) : Answer :=
  .next (s.retire fun c => c.writeS d (ofBool64 (ExNum.leB (f32 (c.readF a)) (f32 (c.readF b)))))

/-- R48: the bits of f[a], zero-extended. -/
def execFmvSF (d a : Reg) (s : State) : Answer :=
  .next (s.retire fun c => c.writeS d ((c.readF a).setWidth 64))

/-- R48: s[a]<31:0>. -/
def execFmvFS (d a : Reg) (w : Bool) (s : State) : Answer :=
  s.scalarOp w [a] fun c => c.writeF d ((c.readS a).setWidth 32)

end Sys2Proof.Machine
end

