-- ==== Sys2Proof/Machine/VatRun.lean ====
section
/-!
DEFINITION. Sys2Proof/Machine/VatRun.lean: stage configuration words, `vcfg` and configured passes (R122, R140 to R144).
-/

namespace Sys2Proof.Machine

/-! ## Stage configuration words (R140, R141) -/

def stageOp (w : Word) : Nat := (w.extractLsb' 0 6).toNat
def stageEnd (w : Word) : Bool := w.getLsbD 34
def stageDkind (w : Word) : Nat := (w.extractLsb' 32 2).toNat
def stageDnum (w : Word) : BitVec 5 := w.extractLsb' 27 5
def stageFmt (w : Word) : BitVec 5 := w.extractLsb' 35 5
def stageSat (w : Word) : BitVec 2 := w.extractLsb' 40 2
def stageRm (w : Word) : BitVec 3 := w.extractLsb' 42 3
def stageLink (w : Word) : Nat := (w.extractLsb' 45 2).toNat

/-- The operands of a stage. -/
inductive Operand where
  | a | b | c
  deriving DecidableEq, Repr

/-- Selector and number of an operand. -/
def stageSel (w : Word) : Operand → Nat
  | .a => (w.extractLsb' 11 2).toNat
  | .b => (w.extractLsb' 18 2).toNat
  | .c => (w.extractLsb' 25 2).toNat
def stageNum (w : Word) : Operand → BitVec 5
  | .a => w.extractLsb' 6 5
  | .b => w.extractLsb' 13 5
  | .c => w.extractLsb' 20 5

/-- The operands an operation reads (R141). -/
def opReads (op : Nat) : List Operand :=
  if op = 0 then []
  else if op = 15 ∨ op = 19 then [.a, .b, .c]
  else if op ≤ 14 ∨ (16 ≤ op ∧ op ≤ 18) ∨ op = 20 ∨ op = 21 then [.a, .b]
  else [.a]

/-- Does an operation use RM, SAT, FMT (R141)? -/
def opUsesRm (op : Nat) : Bool := (16 ≤ op && op ≤ 19) || op == 24 || op == 25
def opUsesSat (op : Nat) : Bool := op == 24 || op == 25
def opUsesFmt (op : Nat) : Bool := op == 7 || op == 8 || op == 24 || op == 25 || op == 26

/-- Is FMT one that the operation takes (R141)? -/
def opTakesFmt (op : Nat) (f : BitVec 5) : Bool :=
  if op = 7 ∨ op = 8 then f == 0x03 || f == 0x04 || f == 0x14 || f == 0x15
  else if op = 26 then isCvtFmt f && f != 0x15
  else isCvtFmt f

/-- Is a field that the operation does not use zero (R140, R142)? The number of an operand whose selector names neither a
register nor a port, CONST and CK where no operand takes the constant, and DNUM with DKIND 0 count as fields not used; DKIND
of an IDLE stage does not (log entry 71). -/
def unusedZero (w : Word) : Bool :=
  let op := stageOp w
  let used := fun o => (opReads op).contains o
  let numZero := fun o => (used o && (stageSel w o == 1 || stageSel w o == 2)) || stageNum w o == 0
  let anyConst := (opReads op).any fun o => stageSel w o == 3
  ([Operand.a, .b, .c].all fun o => (used o || stageSel w o == 0) && numZero o)
    && (anyConst || w.extractLsb' 47 17 == 0)
    && ((used .a && op < 28) || stageLink w == 0)
    && (opUsesRm op || stageRm w == 0) && (opUsesSat op || stageSat w == 0) && (opUsesFmt op || stageFmt w == 0)
    && (stageDkind w != 0 || stageDnum w == 0)

/-- Does `vcfg` take a word as stage `n` (R142)? -/
def stageOk (n : Nat) (w : Word) : Bool :=
  let op := stageOp w
  op < 32 && !(op == 0 && n == 0)
    && (stageRm w).toNat ≤ 5 && stageSat w != 3 && stageLink w != 3 && stageDkind w != 3
    && (!opUsesFmt op || opTakesFmt op (stageFmt w))
    && (opReads op).all (fun o => !(stageSel w o == 0 && n == 0) && !(stageSel w o == 2 && 16 ≤ (stageNum w o).toNat))
    && !(stageDkind w == 2 && 16 ≤ (stageDnum w).toNat)
    && unusedZero w

/-- The words of a bank up to the last stage, with their numbers (R140). -/
def stagesOf (ws : List Word) : List (Nat × Word) :=
  let n := match ws.findIdx? stageEnd with
    | some i => i + 1
    | none => 6
  ((ws.take n).zipIdx).map fun x => (x.2, x.1)

/-- R142: 48 bytes of the scratchpad into a bank, once every word up to the last stage passes. -/
def execVcfg (n a : Reg) (w : Bool) (s : State) : Answer :=
  let at_ := s.ctx.readS a
  let ws := (List.range 6).map fun i => BitVec.ofNat 64 (s.poolRead (at_.toNat + 8 * i) 8)
  .next (s.onSources w [a] (s.poolCheckedLow a at_ 8 48
    (match (stagesOf ws).find? fun x => !stageOk x.1 x.2 with
     | some x => s.trap 0x01 (BitVec.ofNat 8 x.1) 0x10 (at_ + BitVec.ofNat 64 (8 * x.1))
     | none => (s.modCur fun k => { k with
         banks := setV k.banks (n.setWidth 4 : BitVec 4) (Vector.ofFn fun i => ws.getD i.val 0) }).retire id)))

/-! ## A configured pass (R143) -/

/-- A port named by a stage: the operand that pops it, or none for the destination that pushes to it. -/
structure PortUse where
  stage : Nat
  operand : Option Operand
  port : BitVec 5
  deriving DecidableEq, Repr

/-- The port operands and destinations of the stages, in their order (R143). -/
def portUses (st : List (Nat × Word)) : List PortUse :=
  st.flatMap fun x =>
    ((opReads (stageOp x.2)).filter fun o => stageSel x.2 o == 2).map (fun o => ⟨x.1, some o, stageNum x.2 o⟩)
      ++ if stageDkind x.2 = 2 then [⟨x.1, none, stageDnum x.2⟩] else []

/-- How often a port is popped, or pushed, by a pass. -/
def usesOf (us : List PortUse) (pop : Bool) (n : BitVec 4) : Nat :=
  (us.filter fun u => u.operand.isSome == pop && u.port.setWidth 4 == n).length

/-- The first fault of a pass's ports: unbound in order, then the counts of inputs, then of outputs (R143). -/
def State.portFault (s : State) (us : List PortUse) : Option (BitVec 8 × BitVec 8 × BitVec 8) :=
  let c := s.ctx
  match us.findSome? fun u =>
      let x := if u.operand.isSome then s.inChan c (u.port.setWidth 4) else s.outChan c (u.port.setWidth 4)
      (portDetail x true (if u.operand.isSome then inIsEngine x else outIsEngine x)).map fun d => (u.port, d) with
  | some (p, d) => some (0x06, p.setWidth 8, d)
  | none =>
    match allPorts.find? fun n => (getV c.consRem n).toNat < usesOf us true n with
    | some n => some (0x05, n.setWidth 8, 0x01)
    | none => (allPorts.find? fun n => (getV c.prodRem n).toNat < usesOf us false n).map fun n => (0x05, n.setWidth 8, 0x02)

/-- A token popped for a stage's operand. -/
structure Popped where
  stage : Nat
  operand : Operand
  port : BitVec 4
  tok : Token
  deriving DecidableEq, Repr

/-- One token popped from each port operand in order; STATUS records the last (R143). -/
def State.popAll (s : State) : List PortUse → State × List Popped
  | [] => (s, [])
  | u :: rest =>
    match u.operand with
    | none => s.popAll rest
    | some o =>
      let n : BitVec 4 := u.port.setWidth 4
      match s.inChan s.ctx n with
      | none => s.popAll rest
      | some (ci, ch) =>
        let t := ch.queue.headD ⟨0, 0, 0⟩
        let r := ((s.modChan ci Channel.pop).modCtx fun c => c.readPort n t.code).popAll rest
        (r.1, ⟨u.stage, o, n, t⟩ :: r.2)

/-- The cycles of a pass to its register destinations and token pushes (R146). -/
def passCycles (st : List (Nat × Word)) : Nat := 2 + 4 * st.length

/-- A token pushed to an output port, by a pass of so many cycles (R143, R146). -/
def State.pushVec (s : State) (cycles : Nat) (q : BitVec 4) (x : Lanes) (act : Mask) (code : BitVec 3) : State :=
  match s.outChan s.ctx q with
  | none => s
  | some (ci, _) =>
    (s.sendLate ci cycles ⟨packLanes (lanes fun i => if act.getLsbD i.toNat then laneAt x i else 0), act, code⟩ (s.writesOf s.focus s.who)).modCtx
      fun c => { c with prodRem := setV c.prodRem q (getV c.prodRem q - 1) }

/-- The lanes of a stage's operand (R140, R143): LINK applies to A. -/
def stageOperand (w : Word) (prev : Lanes) (regs : Vector Lanes 32) (toks : List Popped) (stage : Nat) (o : Operand) : Lanes :=
  let x := match stageSel w o with
    | 0 => prev
    | 1 => getV regs (stageNum w o)
    | 2 => match toks.find? fun t => t.stage == stage && t.operand == o with
      | some t => lanesOf t.tok.payload
      | none => prev
    | _ =>
      let k : BitVec 16 := w.extractLsb' 48 16
      lanes fun _ => if w.getLsbD 47 then k.signExtend 32 else k.setWidth 32 <<< 16
  if o = .a then
    match stageLink w with
    | 1 => lanes fun i => if i = 0 then 0 else laneAt x (i - 1)
    | 2 => lanes fun i => if i = 15 then 0 else laneAt x (i + 1)
    | _ => x
  else x

/-- A stage's lane operation that makes no rounding draw of its own (R141). -/
def laneStage (op : Nat) (f : BitVec 5) (x y v : Lane) : Lane :=
  match op with
  | 1 => x + y
  | 2 => x - y
  | 3 => x * y
  | 4 => mulHigh x y
  | 5 => laneMin true x y
  | 6 => laneMax true x y
  | 7 => addClamped f (x.toInt + y.toInt)
  | 8 => addClamped f (x.toInt - y.toInt)
  | 9 => x <<< (y.toNat % 32)
  | 10 => x >>> (y.toNat % 32)
  | 11 => x.sshiftRight (y.toNat % 32)
  | 12 => x &&& y
  | 13 => x ||| y
  | 14 => x ^^^ y
  | 15 => x * y + v
  | 20 => f32Min x y
  | 21 => f32Max x y
  | 22 => x &&& 0x7FFFFFFF
  | 23 => x ^^^ 0x80000000
  | 26 => toF32 0 0 (laneRead f x)
  | _ => x

/-- A stage's rounded lane operation (R141). -/
def laneRound (op : Nat) (w : Word) (n : BitVec 16) (x y v : Lane) : Lane :=
  let m := stageRm w
  let rdn := m == 3
  match op with
  | 16 => toF32 m n (ExNum.add rdn (f32 x) (f32 y))
  | 17 => toF32 m n (ExNum.add rdn (f32 x) (ExNum.neg (f32 y)))
  | 18 => toF32 m n (ExNum.mul (f32 x) (f32 y))
  | 19 => toF32 m n (ExNum.add rdn (ExNum.mul (f32 x) (f32 y)) (f32 v))
  | 24 => laneWrite (stageFmt w) m (stageSat w) n (f32 x)
  | _ => laneWrite (stageFmt w) m (stageSat w) n (ExNum.ofInt x.toInt)

/-- One stage in every lane (R141): the result, and the context after its draws. -/
def Context.stage (c : Context) (w : Word) (act : Mask) (x y v : Lanes) : Lanes × Context :=
  let op := stageOp w
  if opUsesRm op then
    let (draw, c') := c.drawLanes (stageRm w) act
    (lanes fun i => laneRound op w (draw i) (laneAt x i) (laneAt y i) (laneAt v i), c')
  else
    (match op with
     | 28 => reduceLanes (· + ·) 0 act x
     | 29 => reduceLanes addF32 0x80000000 act x
     | 30 => scanLanes (· + ·) 0 act x
     | 31 => scanLanes addF32 0x80000000 act x
     | _ => lanes fun i => laneStage op (stageFmt w) (laneAt x i) (laneAt y i) (laneAt v i), c)

/-- The stages run in order (R143). -/
def State.runStages (s : State) (cycles : Nat) (z : Bool) (act : Mask) (code : BitVec 3) (regs : Vector Lanes 32) (toks : List Popped)
    (prev : Lanes) : List (Nat × Word) → State
  | [] => s
  | (n, w) :: rest =>
    let get := stageOperand w prev regs toks n
    let (res, s1) :=
      if stageOp w = 0 then (prev, s)
      else
        let r := s.ctx.stage w act (get .a) (get .b) (get .c)
        (r.1, s.setCtx r.2)
    let s2 := match stageDkind w with
      | 1 => s1.modCtx fun c => c.writeV (stageDnum w) (mergeLanes act z (c.readV (stageDnum w)) res)
      | 2 => s1.pushVec cycles ((stageDnum w).setWidth 4) res act code
      | _ => s1
    s2.runStages cycles z act code regs toks res rest

/-- A word of a stage that reads a mode port, rewritten by a mode word (R144). -/
def modeWord (m : Lane) (ports : List (BitVec 4)) (w : Word) : Word :=
  let op := stageOp w
  if (opReads op).any fun o => stageSel w o == 2 && ports.contains ((stageNum w o).setWidth 4) then
    let w1 := if opUsesRm op then putBits w 42 (m.extractLsb' 0 3) else w
    if opUsesSat op then putBits w1 40 (m.extractLsb' 4 2) else w1
  else w

/-- A mode pass (R144). -/
def State.modePass (s : State) (bank : BitVec 4) (st : List (Nat × Word)) (toks : List Popped) : State :=
  let mode := toks.filter fun t => t.tok.code == 7
  match mode with
  | [] => s
  | t :: _ =>
    let m := laneAt (lanesOf t.tok.payload) 0
    let s1 := s.countMe 0x033 (toks.length - mode.length)
    let s2 := st.foldl (fun acc x =>
      if stageDkind x.2 = 2 then acc.pushVec (passCycles st) ((stageDnum x.2).setWidth 4) (lanes fun i => if i = 0 then m else 0) 1 7 else acc) s1
    if 5 < (m.extractLsb' 0 3).toNat ∨ m.extractLsb' 4 2 = 3 then s2.countMe 0x034
    else s2.modCur fun k => { k with banks := setV k.banks bank (Vector.ofFn fun i =>
      let w := (getV k.banks bank)[i]
      if i.val < st.length then modeWord m (mode.map fun t => t.port) w else w) }

/-- The bank that vb names: `vb<3:0>`, or the running block's VBANK (R24, R143). -/
def State.bankOf (s : State) (b : Reg) : BitVec 4 := if b.getLsbD 4 then b.setWidth 4 else (s.runHeader.extractLsb' 20 3).setWidth 4

/-- R143: one configured pass. -/
def execVrun (b : Reg) (k : BitVec 3) (z : Bool) (s : State) : Answer :=
  let n := s.bankOf b
  let st := stagesOf (getV s.cur.banks n).toList
  if st.any fun x => !stageOk x.1 x.2 then .next (s.trap 0x01 (n.setWidth 8) 0x11 0)
  else
    let us := portUses st
    match s.portFault us with
    | some (code, op, dt) => .next (s.trap code op dt 0)
    | none =>
      let r := s.popAll us
      let toks := r.2
      if toks.any fun t => t.tok.code == 7 then .next ((r.1.modePass n st toks).retire id)
      else
        let act := toks.foldl (fun (m : Mask) t => m &&& t.tok.valid) (s.ctx.readK k)
        let code := toks.foldl (fun (c : BitVec 3) t => if 1 ≤ t.tok.code.toNat ∧ t.tok.code.toNat ≤ 4 ∧ c < t.tok.code then t.tok.code else c) 0
        .next ((r.1.runStages (passCycles st) z act code s.ctx.v toks (lanes fun _ => 0) st).retire id)

end Sys2Proof.Machine
end

