-- ==== Sys2Proof/Machine/Dispatch.lean ====
section
/-! DEFINITION. Sys2Proof/Machine/Dispatch.lean: one arm for each constructor of Instr, each one direct call of its meaning. -/

namespace Sys2Proof.Machine

def exec (i : Instr) (s : State) : Host.Outcome State Fault Refusal :=
  match i with
  | .add d a b w => Sys2Proof.Machine.execAdd d a b w s
  | .sub d a b w => Sys2Proof.Machine.execSub d a b w s
  | .and d a b w => Sys2Proof.Machine.execAnd d a b w s
  | .or d a b w => Sys2Proof.Machine.execOr d a b w s
  | .xor d a b w => Sys2Proof.Machine.execXor d a b w s
  | .andn d a b w => Sys2Proof.Machine.execAndn d a b w s
  | .orn d a b w => Sys2Proof.Machine.execOrn d a b w s
  | .xnor d a b w => Sys2Proof.Machine.execXnor d a b w s
  | .sll d a b w => Sys2Proof.Machine.execSll d a b w s
  | .srl d a b w => Sys2Proof.Machine.execSrl d a b w s
  | .sra d a b w => Sys2Proof.Machine.execSra d a b w s
  | .rol d a b w => Sys2Proof.Machine.execRol d a b w s
  | .ror d a b w => Sys2Proof.Machine.execRor d a b w s
  | .mul d a b w => Sys2Proof.Machine.execMul d a b w s
  | .mulpS d a b w => Sys2Proof.Machine.execMulpS d a b w s
  | .mulpU d a b w => Sys2Proof.Machine.execMulpU d a b w s
  | .mulpSu d a b w => Sys2Proof.Machine.execMulpSu d a b w s
  | .divqS d a b w => Sys2Proof.Machine.execDivqS d a b w s
  | .divqU d a b w => Sys2Proof.Machine.execDivqU d a b w s
  | .divqF d a b w => Sys2Proof.Machine.execDivqF d a b w s
  | .min d a b w => Sys2Proof.Machine.execMin d a b w s
  | .max d a b w => Sys2Proof.Machine.execMax d a b w s
  | .minu d a b w => Sys2Proof.Machine.execMinu d a b w s
  | .maxu d a b w => Sys2Proof.Machine.execMaxu d a b w s
  | .bfx d a b w => Sys2Proof.Machine.execBfx d a b w s
  | .bfxu d a b w => Sys2Proof.Machine.execBfxu d a b w s
  | .bfi d a b w => Sys2Proof.Machine.execBfi d a b w s
  | .clz d a w => Sys2Proof.Machine.execClz d a w s
  | .ctz d a w => Sys2Proof.Machine.execCtz d a w s
  | .popc d a w => Sys2Proof.Machine.execPopc d a w s
  | .brev d a w => Sys2Proof.Machine.execBrev d a w s
  | .bswap d a w => Sys2Proof.Machine.execBswap d a w s
  | .seq d a b w => Sys2Proof.Machine.execSeq d a b w s
  | .sne d a b w => Sys2Proof.Machine.execSne d a b w s
  | .slt d a b w => Sys2Proof.Machine.execSlt d a b w s
  | .sge d a b w => Sys2Proof.Machine.execSge d a b w s
  | .sltu d a b w => Sys2Proof.Machine.execSltu d a b w s
  | .sgeu d a b w => Sys2Proof.Machine.execSgeu d a b w s
  | .sel d a b c w => Sys2Proof.Machine.execSel d a b c w s
  | .addi w d a imm => Sys2Proof.Machine.execAddi w d a imm s
  | .andi w d a imm => Sys2Proof.Machine.execAndi w d a imm s
  | .ori w d a imm => Sys2Proof.Machine.execOri w d a imm s
  | .xori w d a imm => Sys2Proof.Machine.execXori w d a imm s
  | .slli w d a x => Sys2Proof.Machine.execSlli w d a x s
  | .srli w d a x => Sys2Proof.Machine.execSrli w d a x s
  | .srai w d a x => Sys2Proof.Machine.execSrai w d a x s
  | .slti w d a imm => Sys2Proof.Machine.execSlti w d a imm s
  | .sltiu w d a imm => Sys2Proof.Machine.execSltiu w d a imm s
  | .li d imm => Sys2Proof.Machine.execLi d imm s
  | .liu d imm => Sys2Proof.Machine.execLiu d imm s
  | .fadd d a b => Sys2Proof.Machine.execFadd d a b s
  | .fsub d a b => Sys2Proof.Machine.execFsub d a b s
  | .fmul d a b => Sys2Proof.Machine.execFmul d a b s
  | .ffma d a b c => Sys2Proof.Machine.execFfma d a b c s
  | .fmin d a b => Sys2Proof.Machine.execFmin d a b s
  | .fmax d a b => Sys2Proof.Machine.execFmax d a b s
  | .fneg d a => Sys2Proof.Machine.execFneg d a s
  | .fabs d a => Sys2Proof.Machine.execFabs d a s
  | .fmov d a => Sys2Proof.Machine.execFmov d a s
  | .fcvtSF d a => Sys2Proof.Machine.execFcvtSF d a s
  | .fcvtFS d a w => Sys2Proof.Machine.execFcvtFS d a w s
  | .feq d a b => Sys2Proof.Machine.execFeq d a b s
  | .flt d a b => Sys2Proof.Machine.execFlt d a b s
  | .fle d a b => Sys2Proof.Machine.execFle d a b s
  | .fmvSF d a => Sys2Proof.Machine.execFmvSF d a s
  | .fmvFS d a w => Sys2Proof.Machine.execFmvFS d a w s
  | .bCond a b c t w p => Sys2Proof.Machine.execBCond a b c t w p s
  | .loop a t w p => Sys2Proof.Machine.execLoop a t w p s
  | .jmp t p => Sys2Proof.Machine.execJmp t p s
  | .next h => Sys2Proof.Machine.execNext h s
  | .call d h => Sys2Proof.Machine.execCall d h s
  | .ret a w => Sys2Proof.Machine.execRet a w s
  | .done => Sys2Proof.Machine.execDone s
  | .yield => Sys2Proof.Machine.execYield s
  | .tret => Sys2Proof.Machine.execTret s
  | .nop => Sys2Proof.Machine.execNop s
  | .trap n => Sys2Proof.Machine.execTrap n s
  | .barr b => Sys2Proof.Machine.execBarr b s
  | .evrd d n => Sys2Proof.Machine.execEvrd d n s
  | .csrr d n => Sys2Proof.Machine.execCsrr d n s
  | .csrw w a n => Sys2Proof.Machine.execCsrw w a n s
  | .csrx w d a n => Sys2Proof.Machine.execCsrx w d a n s
  | .ld w d a z o => Sys2Proof.Machine.execLd w d a z o s
  | .st w d a z o => Sys2Proof.Machine.execSt w d a z o s
  | .pin d p => Sys2Proof.Machine.execPin d p s
  | .pout q a w => Sys2Proof.Machine.execPout q a w s
  | .poutc q a k w => Sys2Proof.Machine.execPoutc q a k w s
  | .pstat d p => Sys2Proof.Machine.execPstat d p s
  | .qstat d p => Sys2Proof.Machine.execQstat d p s
  | .feClr d => Sys2Proof.Machine.execFeClr d s
  | .feSet d => Sys2Proof.Machine.execFeSet d s
  | .feTst d a => Sys2Proof.Machine.execFeTst d a s
  | .sndCurd d a b w => Sys2Proof.Machine.execSndCurd d a b w s
  | .rplWhey a b w => Sys2Proof.Machine.execRplWhey a b w s
  | .fld d a b w x => Sys2Proof.Machine.execFld d a b w x s
  | .fst d a b w x => Sys2Proof.Machine.execFst d a b w x s
  | .fstbN4 d a b w => Sys2Proof.Machine.execFstbN4 d a b w s
  | .fstbN2 d a b w => Sys2Proof.Machine.execFstbN2 d a b w s
  | .amoAdd d a b w => Sys2Proof.Machine.execAmoAdd d a b w s
  | .amoAnd d a b w => Sys2Proof.Machine.execAmoAnd d a b w s
  | .amoOr d a b w => Sys2Proof.Machine.execAmoOr d a b w s
  | .amoXor d a b w => Sys2Proof.Machine.execAmoXor d a b w s
  | .amoMin d a b w => Sys2Proof.Machine.execAmoMin d a b w s
  | .amoMax d a b w => Sys2Proof.Machine.execAmoMax d a b w s
  | .amoMinu d a b w => Sys2Proof.Machine.execAmoMinu d a b w s
  | .amoMaxu d a b w => Sys2Proof.Machine.execAmoMaxu d a b w s
  | .amoSwap d a b w => Sys2Proof.Machine.execAmoSwap d a b w s
  | .amoCas d a b c w => Sys2Proof.Machine.execAmoCas d a b c w s
  | .amoFaddF32 d a b w => Sys2Proof.Machine.execAmoFaddF32 d a b w s
  | .amoFaddBf16 d a b w => Sys2Proof.Machine.execAmoFaddBf16 d a b w s
  | .ocall d a b w => Sys2Proof.Machine.execOcall d a b w s
  | .mcast a b w => Sys2Proof.Machine.execMcast a b w s
  | .chase d a b w => Sys2Proof.Machine.execChase d a b w s
  | .fenceAcc d x => Sys2Proof.Machine.execFenceAcc d x s
  | .fenceVis d x => Sys2Proof.Machine.execFenceVis d x s
  | .vadd d a b k z => Sys2Proof.Machine.execVadd d a b k z s
  | .vsub d a b k z => Sys2Proof.Machine.execVsub d a b k z s
  | .vmul d a b k z => Sys2Proof.Machine.execVmul d a b k z s
  | .vmulh d a b k z => Sys2Proof.Machine.execVmulh d a b k z s
  | .vmin d a b k z => Sys2Proof.Machine.execVmin d a b k z s
  | .vmax d a b k z => Sys2Proof.Machine.execVmax d a b k z s
  | .vminu d a b k z => Sys2Proof.Machine.execVminu d a b k z s
  | .vmaxu d a b k z => Sys2Proof.Machine.execVmaxu d a b k z s
  | .vabs d a k z => Sys2Proof.Machine.execVabs d a k z s
  | .vneg d a k z => Sys2Proof.Machine.execVneg d a k z s
  | .vsll d a b k z => Sys2Proof.Machine.execVsll d a b k z s
  | .vsrl d a b k z => Sys2Proof.Machine.execVsrl d a b k z s
  | .vsra d a b k z => Sys2Proof.Machine.execVsra d a b k z s
  | .vadds d a b k z => Sys2Proof.Machine.execVadds d a b k z s
  | .vsubs d a b k z => Sys2Proof.Machine.execVsubs d a b k z s
  | .vfadd d a b k z => Sys2Proof.Machine.execVfadd d a b k z s
  | .vfsub d a b k z => Sys2Proof.Machine.execVfsub d a b k z s
  | .vfmul d a b k z => Sys2Proof.Machine.execVfmul d a b k z s
  | .vfma d a b k z => Sys2Proof.Machine.execVfma d a b k z s
  | .vfmin d a b k z => Sys2Proof.Machine.execVfmin d a b k z s
  | .vfmax d a b k z => Sys2Proof.Machine.execVfmax d a b k z s
  | .vfabs d a k z => Sys2Proof.Machine.execVfabs d a k z s
  | .vfneg d a k z => Sys2Proof.Machine.execVfneg d a k z s
  | .vand d a b k z => Sys2Proof.Machine.execVand d a b k z s
  | .vor d a b k z => Sys2Proof.Machine.execVor d a b k z s
  | .vxor d a b k z => Sys2Proof.Machine.execVxor d a b k z s
  | .vandn d a b k z => Sys2Proof.Machine.execVandn d a b k z s
  | .vnot d a k z => Sys2Proof.Machine.execVnot d a k z s
  | .vmov d a k z => Sys2Proof.Machine.execVmov d a k z s
  | .vcmpEq d a b k z => Sys2Proof.Machine.execVcmpEq d a b k z s
  | .vcmpNe d a b k z => Sys2Proof.Machine.execVcmpNe d a b k z s
  | .vcmpLt d a b k z => Sys2Proof.Machine.execVcmpLt d a b k z s
  | .vcmpLe d a b k z => Sys2Proof.Machine.execVcmpLe d a b k z s
  | .vcmpLtu d a b k z => Sys2Proof.Machine.execVcmpLtu d a b k z s
  | .vcmpLeu d a b k z => Sys2Proof.Machine.execVcmpLeu d a b k z s
  | .vfcmpEq d a b k z => Sys2Proof.Machine.execVfcmpEq d a b k z s
  | .vfcmpLt d a b k z => Sys2Proof.Machine.execVfcmpLt d a b k z s
  | .vfcmpLe d a b k z => Sys2Proof.Machine.execVfcmpLe d a b k z s
  | .vfcmpUn d a b k z => Sys2Proof.Machine.execVfcmpUn d a b k z s
  | .vsel d a b k => Sys2Proof.Machine.execVsel d a b k s
  | .vrot d a n k z => Sys2Proof.Machine.execVrot d a n k z s
  | .vshup d a n k z => Sys2Proof.Machine.execVshup d a n k z s
  | .vshdn d a n k z => Sys2Proof.Machine.execVshdn d a n k z s
  | .vbcast d a k z w => Sys2Proof.Machine.execVbcast d a k z w s
  | .vmvSV d a l => Sys2Proof.Machine.execVmvSV d a l s
  | .vmvVS d a l w => Sys2Proof.Machine.execVmvVS d a l w s
  | .vredAdd d a k => Sys2Proof.Machine.execVredAdd d a k s
  | .vredFadd d a k => Sys2Proof.Machine.execVredFadd d a k s
  | .vredMax d a k => Sys2Proof.Machine.execVredMax d a k s
  | .vredMin d a k => Sys2Proof.Machine.execVredMin d a k s
  | .vredFmax d a k => Sys2Proof.Machine.execVredFmax d a k s
  | .vscanAdd d a k z => Sys2Proof.Machine.execVscanAdd d a k z s
  | .vscanFadd d a k z => Sys2Proof.Machine.execVscanFadd d a k z s
  | .vld d a o k z w => Sys2Proof.Machine.execVld d a o k z w s
  | .vst d a o k w => Sys2Proof.Machine.execVst d a o k w s
  | .vgat d a b k z w => Sys2Proof.Machine.execVgat d a b k z w s
  | .vsct d a b k w => Sys2Proof.Machine.execVsct d a b k w s
  | .vcvt d a f k z => Sys2Proof.Machine.execVcvt d a f k z s
  | .vscvt d a f k z => Sys2Proof.Machine.execVscvt d a f k z s
  | .vpack d a f => Sys2Proof.Machine.execVpack d a f s
  | .vunpk d a f => Sys2Proof.Machine.execVunpk d a f s
  | .kand d a b => Sys2Proof.Machine.execKand d a b s
  | .kor d a b => Sys2Proof.Machine.execKor d a b s
  | .kxor d a b => Sys2Proof.Machine.execKxor d a b s
  | .knot d a => Sys2Proof.Machine.execKnot d a s
  | .kmov d a => Sys2Proof.Machine.execKmov d a s
  | .kpopc d a => Sys2Proof.Machine.execKpopc d a s
  | .kfrom d a w => Sys2Proof.Machine.execKfrom d a w s
  | .vcfg n a w => Sys2Proof.Machine.execVcfg n a w s
  | .vrun b k z => Sys2Proof.Machine.execVrun b k z s
  | .vpark d a k w => Sys2Proof.Machine.execVpark d a k w s
  | .vunpark d a k z w => Sys2Proof.Machine.execVunpark d a k z w s
  | .tshp d a w => Sys2Proof.Machine.execTshp d a w s
  | .tclr d => Sys2Proof.Machine.execTclr d s
  | .tsave d => Sys2Proof.Machine.execTsave d s
  | .trest d => Sys2Proof.Machine.execTrest d s
  | .pstatus d => Sys2Proof.Machine.execPstatus d s
  | .arst d => Sys2Proof.Machine.execArst d s
  | .mcfg a w => Sys2Proof.Machine.execMcfg a w s
  | .plda a => Sys2Proof.Machine.execPlda a s
  | .pldb a => Sys2Proof.Machine.execPldb a s
  | .pmm d a b c w => Sys2Proof.Machine.execPmm d a b c w s
  | .tnorm d a b z => Sys2Proof.Machine.execTnorm d a b z s
  | .trowRd d a b w => Sys2Proof.Machine.execTrowRd d a b w s
  | .trowWr d a b w => Sys2Proof.Machine.execTrowWr d a b w s
  | .tcolRd d a b w => Sys2Proof.Machine.execTcolRd d a b w s
  | .tcolWr d a b w => Sys2Proof.Machine.execTcolWr d a b w s
  | .tld d a b w => Sys2Proof.Machine.execTld d a b w s
  | .tst d a b w => Sys2Proof.Machine.execTst d a b w s
  | .sopen d a w => Sys2Proof.Machine.execSopen d a w s
  | .sgo d a => Sys2Proof.Machine.execSgo d a s
  | .sstop d => Sys2Proof.Machine.execSstop d s
  | .sstat d a => Sys2Proof.Machine.execSstat d a s
  | .sparm d a w => Sys2Proof.Machine.execSparm d a w s
  | .xcopy d a b w => Sys2Proof.Machine.execXcopy d a b w s
  | .xfill d a b w => Sys2Proof.Machine.execXfill d a b w s
  | .xsplice d a b w => Sys2Proof.Machine.execXsplice d a b w s
  | .eadd d a b => Sys2Proof.Machine.execEadd d a b s
  | .esub d a b => Sys2Proof.Machine.execEsub d a b s
  | .emul d a b => Sys2Proof.Machine.execEmul d a b s
  | .efma d a b c => Sys2Proof.Machine.execEfma d a b c s
  | .ediv d a b => Sys2Proof.Machine.execEdiv d a b s
  | .esqrt d a => Sys2Proof.Machine.execEsqrt d a s
  | .eneg d a => Sys2Proof.Machine.execEneg d a s
  | .eabs d a => Sys2Proof.Machine.execEabs d a s
  | .ecmp d a b => Sys2Proof.Machine.execEcmp d a b s
  | .emov d a => Sys2Proof.Machine.execEmov d a s
  | .ernd d a l => Sys2Proof.Machine.execErnd d a l s
  | .elen d a => Sys2Proof.Machine.execElen d a s
  | .ecvtEI d a u w => Sys2Proof.Machine.execEcvtEI d a u w s
  | .ecvtEF d a => Sys2Proof.Machine.execEcvtEF d a s
  | .ecvtED d a w => Sys2Proof.Machine.execEcvtED d a w s
  | .ecvtIE d a u => Sys2Proof.Machine.execEcvtIE d a u s
  | .ecvtFE d a => Sys2Proof.Machine.execEcvtFE d a s
  | .ecvtDE d a => Sys2Proof.Machine.execEcvtDE d a s
  | .eprec w d a imm => Sys2Proof.Machine.execEprec w d a imm s
  | .eld w d a o => Sys2Proof.Machine.execEld w d a o s
  | .est w d a n o => Sys2Proof.Machine.execEst w d a n o s
  | .eldInc w d a o => Sys2Proof.Machine.execEldInc w d a o s
  | .estInc w d a n o => Sys2Proof.Machine.execEstInc w d a n o s
  | .ext h => Sys2Proof.Machine.execExt h s
  | .fmt d a b e => Sys2Proof.Machine.execFmt d a b e s
  | .scl b o g f z => Sys2Proof.Machine.execScl b o g f z s
  | .rnd m x => Sys2Proof.Machine.execRnd m x s
  | .selection cid => Sys2Proof.Machine.execSelection cid s
  | .endOfInvocationStep cid ctx => Sys2Proof.Machine.execEndOfInvocationStep cid ctx s
  | .tokenInjection ch => Sys2Proof.Machine.execTokenInjection ch s
  | .tokenArrival ch => Sys2Proof.Machine.execTokenArrival ch s
  | .creditReturn ch => Sys2Proof.Machine.execCreditReturn ch s
  | .creditArrival ch => Sys2Proof.Machine.execCreditArrival ch s
  | .limiterWindow field => Sys2Proof.Machine.execLimiterWindow field s
  | .sendQueueEntryFree msg => Sys2Proof.Machine.execSendQueueEntryFree msg s
  | .serviceRequestDelivery msg => Sys2Proof.Machine.execServiceRequestDelivery msg s
  | .ownerPortAccess msg => Sys2Proof.Machine.execOwnerPortAccess msg s
  | .replyArrival msg => Sys2Proof.Machine.execReplyArrival msg s
  | .fenceCompletion fence => Sys2Proof.Machine.execFenceCompletion fence s
  | .multicastReplication packet => Sys2Proof.Machine.execMulticastReplication packet s
  | .barrierEpisodeComplete bar => Sys2Proof.Machine.execBarrierEpisodeComplete bar s
  | .barrierRelease bar cid => Sys2Proof.Machine.execBarrierRelease bar cid s
  | .chaseHop msg => Sys2Proof.Machine.execChaseHop msg s
  | .chaseSpillReturn cid => Sys2Proof.Machine.execChaseSpillReturn cid s
  | .chaseReply msg => Sys2Proof.Machine.execChaseReply msg s
  | .hubMiss miss => Sys2Proof.Machine.execHubMiss miss s
  | .hubQueueRetry miss => Sys2Proof.Machine.execHubQueueRetry miss s
  | .walkLevelRead hub walk => Sys2Proof.Machine.execWalkLevelRead hub walk s
  | .invalidationComplete => Sys2Proof.Machine.execInvalidationComplete s
  | .engineElement cid g => Sys2Proof.Machine.execEngineElement cid g s
  | .engineRoundBoundary cid g => Sys2Proof.Machine.execEngineRoundBoundary cid g s
  | .engineCommandEnd cid g => Sys2Proof.Machine.execEngineCommandEnd cid g s
  | .pressCommandStart cid => Sys2Proof.Machine.execPressCommandStart cid s
  | .pressPassEnd cid mismatch => Sys2Proof.Machine.execPressPassEnd cid mismatch s
  | .pressCommitEnd cid => Sys2Proof.Machine.execPressCommitEnd cid s
  | .tileSaveCopy cid tile => Sys2Proof.Machine.execTileSaveCopy cid tile s
  | .tileRestoreCopy cid ctx tile => Sys2Proof.Machine.execTileRestoreCopy cid ctx tile s
  | .regionConfigured graph => Sys2Proof.Machine.execRegionConfigured graph s
  | .regionQuiescent graph => Sys2Proof.Machine.execRegionQuiescent graph s
  | .regionSaved graph => Sys2Proof.Machine.execRegionSaved graph s
  | .loadImage graph arg => Sys2Proof.Machine.execLoadImage graph arg s
  | .launch graph arg => Sys2Proof.Machine.execLaunch graph arg s
  | .edit graph arg => Sys2Proof.Machine.execEdit graph arg s
  | .preemptCooperative graph arg => Sys2Proof.Machine.execPreemptCooperative graph arg s
  | .preemptForced graph arg => Sys2Proof.Machine.execPreemptForced graph arg s
  | .resume graph arg => Sys2Proof.Machine.execResume graph arg s
  | .unload graph arg => Sys2Proof.Machine.execUnload graph arg s
  | .tableReconfigure graph arg => Sys2Proof.Machine.execTableReconfigure graph arg s
  | .multicastEntryWrite graph arg => Sys2Proof.Machine.execMulticastEntryWrite graph arg s
  | .reqReservedOperation op graph arg => Sys2Proof.Machine.execReqReservedOperation op graph arg s
  | .replay value => Sys2Proof.Machine.execReplay value s
  | .tlbInvalidate value => Sys2Proof.Machine.execTlbInvalidate value s
  | .tlbInvalidateRetire value => Sys2Proof.Machine.execTlbInvalidateRetire value s
  | .windowPush graph window tag => Sys2Proof.Machine.execWindowPush graph window tag s
  | .windowPop graph window => Sys2Proof.Machine.execWindowPop graph window s
  | .rawTokenWrite core entry payload => Sys2Proof.Machine.execRawTokenWrite core entry payload s
  | .counterSelectWrite offset value => Sys2Proof.Machine.execCounterSelectWrite offset value s
  | .hostRegisterWrite offset value => Sys2Proof.Machine.execHostRegisterWrite offset value s
  | .powerOn rec => Sys2Proof.Machine.execPowerOn rec s
  | .powerOff rec => Sys2Proof.Machine.execPowerOff rec s
  | .coldStart rec => Sys2Proof.Machine.execColdStart rec s
  | .warmStart rec => Sys2Proof.Machine.execWarmStart rec s
  | .failedStart => Sys2Proof.Machine.execFailedStart s
  | .clearServiceHold rec => Sys2Proof.Machine.execClearServiceHold rec s
  | .setStep rec => Sys2Proof.Machine.execSetStep rec s
  | .coreRailSettled => Sys2Proof.Machine.execCoreRailSettled s
  | .waveCountReached field => Sys2Proof.Machine.execWaveCountReached field s
  | .stepChangeAcknowledged => Sys2Proof.Machine.execStepChangeAcknowledged s
  | .writeFrate rec => Sys2Proof.Machine.execWriteFrate rec s
  | .mgmtTableReconfigure rec => Sys2Proof.Machine.execMgmtTableReconfigure rec s
  | .setImagePolicy rec => Sys2Proof.Machine.execSetImagePolicy rec s
  | .enrolOperatorKey rec => Sys2Proof.Machine.execEnrolOperatorKey rec s
  | .setSystemWaferNumber rec => Sys2Proof.Machine.execSetSystemWaferNumber rec s
  | .mgmtWriteCounterSelect rec => Sys2Proof.Machine.execMgmtWriteCounterSelect rec s
  | .readStatus rec => Sys2Proof.Machine.execReadStatus rec s
  | .readLog rec => Sys2Proof.Machine.execReadLog rec s
  | .readCounters rec => Sys2Proof.Machine.execReadCounters rec s
  | .readRemapViews rec => Sys2Proof.Machine.execReadRemapViews rec s
  | .attestation rec => Sys2Proof.Machine.execAttestation rec s
  | .mgmtRecordRefused rec => Sys2Proof.Machine.execMgmtRecordRefused rec s
  | .throttling logicC dramC watts => Sys2Proof.Machine.execThrottling logicC dramC watts s
  | .recovery logicC dramC watts => Sys2Proof.Machine.execRecovery logicC dramC watts s
  | .thermalTrip logicC dramC => Sys2Proof.Machine.execThermalTrip logicC dramC s
  | .powerFault railMv => Sys2Proof.Machine.execPowerFault railMv s
  | .clockStretches field => Sys2Proof.Machine.execClockStretches field s
  | .retrainingDue cid => Sys2Proof.Machine.execRetrainingDue cid s
  | .retrainingDeferralLimit cid => Sys2Proof.Machine.execRetrainingDeferralLimit cid s
  | .retrainingEnd cid failed => Sys2Proof.Machine.execRetrainingEnd cid failed s
  | .refresh cid => Sys2Proof.Machine.execRefresh cid s
  | .patrolScrub cid address finding => Sys2Proof.Machine.execPatrolScrub cid address finding s
  | .linkRetries retry => Sys2Proof.Machine.execLinkRetries retry s
  | .routerFailed router => Sys2Proof.Machine.execRouterFailed router s
  | .undefinedEncoding detail operand word => Sys2Proof.Machine.execUndefinedEncoding detail operand word s
  | .controlLineDisagreement link cycles => Sys2Proof.Machine.execControlLineDisagreement link cycles s

end Sys2Proof.Machine
end

