-- ==== Sys2Proof/Machine/Timing.lean ====
section
/-!
DEFINITION. Sys2Proof/Machine/Timing.lean: the cycles of the issue pipe (R72, R146, R166, R343, R370): what an instruction reads,
when its results are available, how long the next one waits, and the time that passes for the agents which do not issue (log
entries 2 and 94).
-/

namespace Sys2Proof.Machine

/-! ## What an instruction reads and writes -/

/-- The vector registers that a configured pass reads (R140). -/
def stageReads (st : List (Nat × Word)) : List Reg :=
  st.flatMap fun x => ((opReads (stageOp x.2)).filter fun o => stageSel x.2 o == 1).map fun o => stageNum x.2 o

/-- The vector registers that a configured pass writes (R140). -/
def stageWrites (st : List (Nat × Word)) : List Reg := (st.filter fun x => stageDkind x.2 == 1).map fun x => stageDnum x.2

/-- The stages of the bank that vb names (R140, R143). -/
def State.stagesFor (s : State) (b : Reg) : List (Nat × Word) := stagesOf (getV s.cur.banks (s.bankOf b)).toList

/-- The places that a control register stands for: PREC's flags, a tile's shape (R343, R370). -/
def csrPlaces (n : BitVec 12) : List Place :=
  if n == 0x001 then [.flags] else if 0x010 ≤ n.toNat ∧ n.toNat ≤ 0x017 then [.tile (n.setWidth 3)] else []

/-- The places that an instruction reads, so that it issues once they are available (R72, R146, R343, R370). -/
def State.uses (s : State) : Instr → List Place
  | .add _ a b _ | .sub _ a b _ | .and _ a b _ | .or _ a b _ | .xor _ a b _ | .andn _ a b _ | .orn _ a b _ | .xnor _ a b _
  | .sll _ a b _ | .srl _ a b _ | .sra _ a b _ | .rol _ a b _ | .ror _ a b _ | .mul _ a b _ | .mulpS _ a b _ | .mulpU _ a b _
  | .mulpSu _ a b _ | .divqS _ a b _ | .divqU _ a b _ | .divqF _ a b _ | .min _ a b _ | .max _ a b _ | .minu _ a b _
  | .maxu _ a b _ | .bfx _ a b _ | .bfxu _ a b _ | .seq _ a b _ | .sne _ a b _ | .slt _ a b _ | .sge _ a b _ | .sltu _ a b _
  | .sgeu _ a b _ | .bCond a b _ _ _ _ | .sndCurd _ a b _ | .rplWhey a b _ | .fld _ a b _ _ | .amoAdd _ a b _ | .amoAnd _ a b _
  | .amoOr _ a b _ | .amoXor _ a b _ | .amoMin _ a b _ | .amoMax _ a b _ | .amoMinu _ a b _ | .amoMaxu _ a b _
  | .amoSwap _ a b _ | .amoFaddF32 _ a b _ | .amoFaddBf16 _ a b _ | .ocall _ a b _ | .mcast a b _ | .chase _ a b _ => [.s a, .s b]
  | .bfi d a b _ | .fst d a b _ _ | .fstbN4 d a b _ | .fstbN2 d a b _ => [.s d, .s a, .s b]
  | .sel _ a b c _ | .amoCas _ a b c _ => [.s a, .s b, .s c]
  | .clz _ a _ | .ctz _ a _ | .popc _ a _ | .brev _ a _ | .bswap _ a _ | .addi _ _ a _ | .andi _ _ a _ | .ori _ _ a _
  | .xori _ _ a _ | .slli _ _ a _ | .srli _ _ a _ | .srai _ _ a _ | .slti _ _ a _ | .sltiu _ _ a _ | .fcvtFS _ a _
  | .fmvFS _ a _ | .loop a _ _ _ | .ret a _ | .ld _ _ a _ _ | .pout _ a _ | .poutc _ a _ _ | .vmvVS _ a _ _ | .kfrom _ a _
  | .vcfg _ a _ | .sopen _ a _ | .sparm _ a _ | .xcopy _ _ a _ | .xfill _ _ a _ | .xsplice _ _ a _ => [.s a]
  | .vbcast _ a k _ _ | .vld _ a _ k _ _ | .vunpark _ a k _ _ => [.s a, .k k]
  | .csrw _ a n => .s a :: csrPlaces n
  | .csrx _ d a n => .s d :: .s a :: csrPlaces n
  | .st _ d a _ _ => [.s d, .s a]
  | .tshp n a _ => [.s a, .tile (n.setWidth 3)]
  | .csrr _ n => csrPlaces n
  | .fadd _ a b | .fsub _ a b | .fmul _ a b | .fmin _ a b | .fmax _ a b | .feq _ a b | .flt _ a b | .fle _ a b => [.f a, .f b]
  | .ffma _ a b c => [.f a, .f b, .f c]
  | .fneg _ a | .fabs _ a | .fmov _ a | .fcvtSF _ a | .fmvSF _ a => [.f a]
  | .ecvtEF _ a => [.window, .f a]
  | .ecvtEI _ a _ _ | .ecvtED _ a _ => [.window, .s a]
  | .vadd _ a b k _ | .vsub _ a b k _ | .vmul _ a b k _ | .vmulh _ a b k _ | .vmin _ a b k _ | .vmax _ a b k _ | .vminu _ a b k _
  | .vmaxu _ a b k _ | .vsll _ a b k _ | .vsrl _ a b k _ | .vsra _ a b k _ | .vadds _ a b k _ | .vsubs _ a b k _
  | .vfadd _ a b k _ | .vfsub _ a b k _ | .vfmul _ a b k _ | .vfmin _ a b k _ | .vfmax _ a b k _ | .vand _ a b k _
  | .vor _ a b k _ | .vxor _ a b k _ | .vandn _ a b k _ | .vcmpEq _ a b k _ | .vcmpNe _ a b k _ | .vcmpLt _ a b k _
  | .vcmpLe _ a b k _ | .vcmpLtu _ a b k _ | .vcmpLeu _ a b k _ | .vfcmpEq _ a b k _ | .vfcmpLt _ a b k _
  | .vfcmpLe _ a b k _ | .vfcmpUn _ a b k _ | .vsel _ a b k => [.v a, .v b, .k k]
  | .vfma d a b k _ => [.v d, .v a, .v b, .k k]
  | .vabs _ a k _ | .vneg _ a k _ | .vfabs _ a k _ | .vfneg _ a k _ | .vnot _ a k _ | .vmov _ a k _ | .vrot _ a _ k _
  | .vshup _ a _ k _ | .vshdn _ a _ k _ | .vredAdd _ a k | .vredFadd _ a k | .vredMax _ a k | .vredMin _ a k
  | .vredFmax _ a k | .vscanAdd _ a k _ | .vscanFadd _ a k _ | .vcvt _ a _ k _ | .vscvt _ a _ k _ => [.v a, .k k]
  | .vmvSV _ a _ | .vunpk _ a _ => [.v a]
  | .vpack d a _ => [.v d, .v a]
  | .vst d a _ k _ | .vpark d a k _ => [.v d, .s a, .k k]
  | .vgat _ a b k _ _ => [.s a, .v b, .k k]
  | .vsct d a b k _ => [.v d, .s a, .v b, .k k]
  | .kand _ a b | .kor _ a b | .kxor _ a b => [.k (a.setWidth 3), .k (b.setWidth 3)]
  | .knot _ a | .kmov _ a | .kpopc _ a => [.k (a.setWidth 3)]
  | .vrun b k _ => .bank (s.bankOf b) :: .k k :: (stageReads (s.stagesFor b)).map Place.v
  | .tclr n | .tsave n | .trest n => [.tile (n.setWidth 3)]
  | .arst n => [.acc (n.setWidth 2)]
  | .mcfg a _ => .s a :: .mould (mouldB (s.ctx.readS a)) :: match s.ctx.chain.scl with
    | some p => [.s (sclBase p)]
    | none => []
  | .plda a => [.v a, .mould false]
  | .pldb a => [.v a, .mould true]
  | .pmm _ a b c _ => [.s a, .s b, .f c, .mould false, .mould true, .tile ((s.ctx.readS a).extractLsb' 20 3)]
  | .tnorm _ a b _ => [.tile (a.setWidth 3), .acc (b.setWidth 2)]
  | .trowRd _ a b _ | .tcolRd _ a b _ => [.s a, .tile (b.setWidth 3)]
  | .trowWr d a b _ | .tcolWr d a b _ => [.v d, .s a, .tile (b.setWidth 3)]
  | .tld n a b _ | .tst n a b _ => [.tile (n.setWidth 3), .s a, .s b]
  | .eadd _ a b | .esub _ a b | .emul _ a b | .ediv _ a b | .ecmp _ a b => [.window, .e a, .e b]
  | .efma _ a b c => [.window, .e a, .e b, .e c]
  | .esqrt _ a | .eneg _ a | .eabs _ a | .emov _ a | .ernd _ a _ | .elen _ a | .ecvtIE _ a _ | .ecvtFE _ a | .ecvtDE _ a =>
    [.window, .e a]
  | .eprec _ _ a _ => [.window, .flags, .s a]
  | .eld _ _ a _ | .eldInc _ _ a _ => [.window, .s a]
  | .est _ d a _ _ | .estInc _ d a _ _ => [.window, .e d, .s a]
  | _ => []

/-- The cycles of a division with quotient q (R72). -/
def divCycles (q : Word) (signed : Bool) : Nat :=
  let m := if signed then q.toInt.natAbs else q.toNat
  4 + 15 * (if m = 0 then 0 else Nat.log2 m + 1) / 32

/-- The cycles of a move over the lane links (R146). -/
def linkCycles (n : Reg) : Nat := 2 + (n.toNat + 3) / 4

/-- Words per elastic value in use (R386). -/
def Context.words (c : Context) : Nat := efWords c.precP

/-- The bytes of the EFM value that a load or store moves (R369). -/
def State.efmBytes (s : State) (store : Bool) (d a n : Reg) (o : BitVec 8) : Nat :=
  if store then (efmStore n.toNat s.ctx.precRm (s.ctx.drawFor s.ctx.precRm 0).1 (s.ctx.readE d)).1.length
  else efmSize (s.poolRead (efmAddr s.ctx a o).toNat 1)

/-- The cycles of a tile instruction that moves `z` bytes per element (R343). -/
def Core.tileCycles (k : Core) (n : BitVec 3) (z : Nat) : Nat :=
  4 + shapeRows (k.shape n) * ((shapeCols (k.shape n) * z + 63) / 64)

/-- The elements of the block that a delivery has landed, as the slot stands after it: none where the block is not complete, or the
set has no block (R334). -/
def Core.landed (k : Core) (b : Bool) : Nat :=
  match (k.moulds[if b then 1 else 0]?).join with
  | none => 0
  | some m => if m.fifo.isEmpty then (setGeom (mouldHeader m.word m.scl)).block else 0

/-- The results in scalar and scale registers with the cycles after which an instruction that reads them may issue: the table
"Result latencies". A register that an instruction marks empty, for an answer to fill, no longer waits for what wrote it before. A
result that no table lists takes a free time (log entry 94). `t` is the state the instruction leaves (R72). -/
def State.scalarResults (s t : State) : Instr → List (Place × Nat)
  | .add d _ _ _ | .sub d _ _ _ | .and d _ _ _ | .or d _ _ _ | .xor d _ _ _ | .andn d _ _ _ | .orn d _ _ _ | .xnor d _ _ _
  | .sll d _ _ _ | .srl d _ _ _ | .sra d _ _ _ | .rol d _ _ _ | .ror d _ _ _ | .min d _ _ _ | .max d _ _ _ | .minu d _ _ _
  | .maxu d _ _ _ | .bfx d _ _ _ | .bfxu d _ _ _ | .bfi d _ _ _ | .seq d _ _ _ | .sne d _ _ _ | .slt d _ _ _ | .sge d _ _ _
  | .sltu d _ _ _ | .sgeu d _ _ _ | .sel d _ _ _ _ | .clz d _ _ | .ctz d _ _ | .popc d _ _ | .brev d _ _ | .bswap d _ _
  | .addi _ d _ _ | .andi _ d _ _ | .ori _ d _ _ | .xori _ d _ _ | .slli _ d _ _ | .srli _ d _ _ | .srai _ d _ _
  | .slti _ d _ _ | .sltiu _ d _ _ | .li d _ | .liu d _ | .feClr d | .feSet d | .feTst d _ | .fmvSF d _ | .sndCurd d _ _ _
  | .fld d _ _ _ _ | .amoAdd d _ _ _ | .amoAnd d _ _ _ | .amoOr d _ _ _ | .amoXor d _ _ _ | .amoMin d _ _ _ | .amoMax d _ _ _
  | .amoMinu d _ _ _ | .amoMaxu d _ _ _ | .amoSwap d _ _ _ | .amoCas d _ _ _ _ | .amoFaddF32 d _ _ _ | .amoFaddBf16 d _ _ _
  | .ocall d _ _ _ | .fenceAcc d _ | .fenceVis d _ | .pmm d _ _ _ _ | .tnorm d _ _ _ => [(.s d, 1)]
  | .chase d _ _ _ | .sgo d _ | .xcopy d _ _ _ | .xfill d _ _ _ | .xsplice d _ _ _ => [(.s d, 1), (.s (d + 1), 1)]
  | .fneg d _ | .fabs d _ | .fmov d _ | .fmvFS d _ _ => [(.f d, 1)]
  | .mul d _ _ _ => [(.s d, 3)]
  | .mulpS d _ _ _ | .mulpU d _ _ _ | .mulpSu d _ _ _ => [(.s d, 3), (.s (d + 1), 3)]
  | .divqS d _ _ _ | .divqF d _ _ _ => let n := divCycles (t.ctx.readS d) true; [(.s d, n), (.s (d + 1), n)]
  | .divqU d _ _ _ => let n := divCycles (t.ctx.readS d) false; [(.s d, n), (.s (d + 1), n)]
  | .fadd d _ _ | .fsub d _ _ | .fmul d _ _ | .ffma d _ _ _ | .fmin d _ _ | .fmax d _ _ | .fcvtFS d _ _ => [(.f d, 4)]
  | .fcvtSF d _ | .feq d _ _ | .flt d _ _ | .fle d _ _ => [(.s d, 4)]
  | .ld _ d _ _ _ => [(.s d, 3)]
  | .csrr d _ | .pstat d _ | .qstat d _ | .pin d _ => [(.s d, 2)]
  | .evrd d n => [(.s d, if n.toNat < 4 then 2 else if n.toNat < 12 then 1 + Config.latency s.tick % 12
      else 1 + Config.latency s.tick % 40)]
  | .sstat d _ | .call d _ => [(.s d, Config.latency s.tick)]
  | .loop a _ _ _ => [(.s a, Config.latency s.tick)]
  | _ => []

/-- The results of the vat: the table "Vat latencies"; a `vrun`'s time is that of its token pushes too (R146). -/
def State.vatResults (s : State) : Instr → List (Place × Nat)
  | .kpopc d _ | .vmvSV d _ _ => [(.s d, 2)]
  | .vadd d _ _ _ _ | .vsub d _ _ _ _ | .vmin d _ _ _ _ | .vmax d _ _ _ _ | .vminu d _ _ _ _ | .vmaxu d _ _ _ _ | .vabs d _ _ _
  | .vneg d _ _ _ | .vsll d _ _ _ _ | .vsrl d _ _ _ _ | .vsra d _ _ _ _ | .vadds d _ _ _ _ | .vsubs d _ _ _ _
  | .vfmin d _ _ _ _ | .vfmax d _ _ _ _ | .vfabs d _ _ _ | .vfneg d _ _ _ | .vand d _ _ _ _ | .vor d _ _ _ _
  | .vxor d _ _ _ _ | .vandn d _ _ _ _ | .vnot d _ _ _ | .vmov d _ _ _ | .vsel d _ _ _ | .vbcast d _ _ _ _ | .vmvVS d _ _ _
  | .vpack d _ _ | .vunpk d _ _ => [(.v d, 2)]
  | .vcmpEq d _ _ _ _ | .vcmpNe d _ _ _ _ | .vcmpLt d _ _ _ _ | .vcmpLe d _ _ _ _ | .vcmpLtu d _ _ _ _ | .vcmpLeu d _ _ _ _
  | .vfcmpEq d _ _ _ _ | .vfcmpLt d _ _ _ _ | .vfcmpLe d _ _ _ _ | .vfcmpUn d _ _ _ _ | .kand d _ _ | .kor d _ _ | .kxor d _ _
  | .knot d _ | .kmov d _ | .kfrom d _ _ => [(.k (d.setWidth 3), 2)]
  | .vmul d _ _ _ _ | .vmulh d _ _ _ _ | .vld d _ _ _ _ _ | .vunpark d _ _ _ _ => [(.v d, 3)]
  | .vfadd d _ _ _ _ | .vfsub d _ _ _ _ | .vfmul d _ _ _ _ | .vfma d _ _ _ _ | .vcvt d _ _ _ _ | .vscvt d _ _ _ _ => [(.v d, 4)]
  | .vrot d _ n _ _ | .vshup d _ n _ _ | .vshdn d _ n _ _ => [(.v d, linkCycles n)]
  | .vredAdd d _ _ | .vredMax d _ _ | .vredMin d _ _ => [(.v d, 6)]
  | .vscanAdd d _ _ _ => [(.v d, 17)]
  | .vredFadd d _ _ | .vredFmax d _ _ => [(.v d, 18)]
  | .vscanFadd d _ _ _ => [(.v d, 66)]
  | .vgat d _ _ k _ _ => [(.v d, 3 + ((activeLanes (s.ctx.readK k)).length + 3) / 4)]
  | .vrun b _ _ => let st := s.stagesFor b; (.vat, passCycles st) :: (stageWrites st).map fun r => (.v r, passCycles st)
  | _ => []

/-- The results of configuration and press instructions: the tables "Vat latencies" and "Press instruction latencies" (R146,
R343). -/
def State.pressResults (s t : State) : Instr → List (Place × Nat)
  | .pstatus d => [(.s d, 2)]
  | .vcfg n _ _ => [(.bank (n.setWidth 4), 4)]
  | .tshp n _ _ => [(.tile (n.setWidth 3), 2)]
  | .arst n => [(.acc (n.setWidth 2), 2)]
  | .mcfg a _ => [(.mould (mouldB (s.ctx.readS a)), 2)]
  | .plda _ => [(.mould false, 3 + t.cur.landed false / 16)]
  | .pldb _ => [(.mould true, 3 + t.cur.landed true / 16)]
  | .trowRd d _ _ _ | .tcolRd d _ _ _ => [(.v d, 4)]
  | .trowWr _ _ b _ | .tcolWr _ _ b _ => [(.tile (b.setWidth 3), 2)]
  | .tclr n => [(.tile (n.setWidth 3), 2 + shapeRows (s.cur.shape (n.setWidth 3)))]
  | .tld n _ _ _ => [(.tile (n.setWidth 3), s.cur.tileCycles (n.setWidth 3) (poolElem (s.ctx.chain.afmt.getD 0x0F)))]
  | .tst n _ _ _ => [(.tile (n.setWidth 3), s.cur.tileCycles (n.setWidth 3) (poolElem (s.ctx.chain.dfmt.getD 0x0F)))]
  | .tsave n => [(.tile (n.setWidth 3), 8 + 16 * shapeRows (s.cur.shape (n.setWidth 3)))]
  | .trest n => [(.tile (n.setWidth 3), 8 + 16 * shapeRows (t.cur.shape (n.setWidth 3)))]
  | _ => []

/-- The results of elastic instructions: the table "Elastic latencies" (R370). -/
def State.elasticResults (s t : State) : Instr → List (Place × Nat)
  | .emov d _ | .eneg d _ | .eabs d _ => [(.e d, 2)]
  | .ecmp d _ _ | .elen d _ => [(.s d, 2)]
  | .eadd d _ _ | .esub d _ _ | .ernd d _ _ => let n := 3 + s.ctx.words; [(.e d, n), (.flags, n)]
  | .emul d _ _ | .efma d _ _ _ => let n := 4 + s.ctx.words * s.ctx.words; [(.e d, n), (.flags, n)]
  | .ediv d _ _ | .esqrt d _ => let n := 8 + 16 * s.ctx.words; [(.e d, n), (.flags, n)]
  | .ecvtEI d _ _ _ | .ecvtEF d _ | .ecvtED d _ _ => [(.e d, 4), (.flags, 4)]
  | .ecvtIE d _ _ | .ecvtDE d _ => [(.s d, 4), (.flags, 4)]
  | .ecvtFE d _ => [(.f d, 4), (.flags, 4)]
  | .eld _ d a o => let n := 3 + (s.efmBytes false d a 0 o + 7) / 8; [(.e d, n), (.flags, n)]
  | .eldInc _ d a o => let n := 3 + (s.efmBytes false d a 0 o + 7) / 8; [(.e d, n), (.s a, n), (.flags, n)]
  | .est _ d a n o => [(.flags, 3 + (s.efmBytes true d a n o + 7) / 8)]
  | .estInc _ d a n o => let x := 3 + (s.efmBytes true d a n o + 7) / 8; [(.s a, x), (.flags, x)]
  | .eprec _ d _ _ =>
    let n := if t.ctx.words ≠ s.ctx.words ∨ t.ctx.precP < s.ctx.precP then 2 + 32 * t.ctx.words else 2
    [(.s d, n), (.window, n), (.flags, n)]
  | _ => []

/-- The lanes of a vector register that a vat instruction with this mask may leave as they are (R121), so that its value is
complete no earlier than what wrote them. -/
def keepsLanes : Instr → Bool
  | .vadd _ _ _ k z | .vsub _ _ _ k z | .vmin _ _ _ k z | .vmax _ _ _ k z | .vminu _ _ _ k z | .vmaxu _ _ _ k z
  | .vsll _ _ _ k z | .vsrl _ _ _ k z | .vsra _ _ _ k z | .vadds _ _ _ k z | .vsubs _ _ _ k z | .vfmin _ _ _ k z
  | .vfmax _ _ _ k z | .vand _ _ _ k z | .vor _ _ _ k z | .vxor _ _ _ k z | .vandn _ _ _ k z | .vmul _ _ _ k z
  | .vmulh _ _ _ k z | .vfadd _ _ _ k z | .vfsub _ _ _ k z | .vfmul _ _ _ k z | .vfma _ _ _ k z | .vgat _ _ _ k z _
  | .vld _ _ _ k z _ | .vrot _ _ _ k z | .vshup _ _ _ k z | .vshdn _ _ _ k z | .vabs _ _ k z | .vneg _ _ k z | .vfabs _ _ k z
  | .vfneg _ _ k z | .vnot _ _ k z | .vmov _ _ k z | .vbcast _ _ k z _ | .vunpark _ _ k z _ | .vcvt _ _ _ k z
  | .vscvt _ _ _ k z | .vscanAdd _ _ k z | .vscanFadd _ _ k z | .vrun _ k z => k != 0 && !z
  | .vmvVS _ _ _ _ | .vpack _ _ _ => true
  | _ => false

/-- Results that are written in the order of issue: none before the `left` cycles that earlier ones still take, nor, where the
instruction keeps a part of what its destination holds, before that is there; `mark` stands for all of them (R147, R370). -/
def inOrder (mark : Place) (left : Nat) (before : Place → Nat) (l : List (Place × Nat)) : List (Place × Nat) :=
  let r := l.map fun x => (x.1, max (max x.2 left) (before x.1))
  if r.isEmpty then [] else (mark, r.foldl (fun n x => max n x.2) 0) :: r.filter fun x => x.1 != mark

/-- The results of an instruction that issues in state s and leaves state t, with the cycles after which an instruction that reads
them may issue (R72). The vat writes in the order of issue over all contexts (R147), a context's elastic instructions in theirs
(R370). -/
def State.results (s t : State) (i : Instr) : List (Place × Nat) :=
  s.scalarResults t i ++ s.pressResults t i
    ++ inOrder .vat s.cur.vatLeft (fun x => if keepsLanes i then s.cur.leftOf s.who x else 0) (s.vatResults i)
    ++ inOrder .elastic (s.cur.leftOf s.who .elastic) (fun _ => 0) (s.elasticResults t i)

/-! ## Waiting (R72, R166) -/

/-- The cycles from the last issue until an instruction that reads these places may issue (R72). -/
def Core.waitFor (k : Core) (ps : List Place) : Nat :=
  (k.due.filter fun d => d.ctx == k.current && ps.contains d.place).foldl (fun n d => max n d.left) k.gap

/-- The cycles that an instruction's issue takes: a prefix none, since its chain and instruction are one (R32, R72). -/
def State.waitOf (s : State) (i : Instr) : Nat := if i.isPrefix then 0 else s.cur.waitFor (s.uses i)

/-- Is a core idle: no turn runs, and no context is ready for one (R165)? -/
def State.idles (s : State) (cid : Nat) : Bool := !(s.core cid).turn && (s.topLevel cid).isNone

/-! ## Time passes -/

/-- `n` cycles pass for a core: CYCLE (R19), what the next issue waits for (R72), what its press commands wait for (R340), the counters of its clock (0x0B0) and of the
stream stalls of its engines at work (0x060, R270). -/
def Core.elapse (k : Core) (cid tick n : Nat) : Core :=
  { k with
    cycle := k.cycle + BitVec.ofNat 64 n
    gap := k.gap - n
    due := (k.due.map fun d => { d with left := d.left - n }).filter fun d => d.left != 0
    pressQ := k.pressQ.map fun p => { p with left := p.left - n }
    counters := k.counters.map fun (x : Counter) => k.engines.toList.zipIdx.foldl (fun (y : Counter) (e, g) => match e.holder with
      | some h => if e.st.busy then y.bump 0x060 (Config.streamStall tick (4 * cid + g)) (some (h, (getV k.ctxs h).graph)) else y
      | none => y) (x.bump 0x0B0 n none) }

/-- `n` cycles pass for the focus core. A core whose turn runs, or that has a context ready, goes on only in steps of its own; an
idle core, the hubs and the fields go on by free amounts, for the spec promises no relation between their clocks (R257; log
entry 2). -/
def State.elapse (s : State) (n : Nat) : State :=
  let s1 : State := { s with
    tick := s.tick + 1
    cores := s.cores.map fun (c, k) => (c, if c ≠ s.focus ∧ s.idles c = true then k.elapse c s.tick (Config.idle s.tick c) else k)
    hubs := s.hubs.map fun (h, k) => (h, { k with
      counters := k.counters.map fun (x : Counter) => x.bump 0x0B0 (Config.periods s.tick (h / 64)) none })
    fields := s.fields.map fun (f, k) => (f, { k with
      counters := k.counters.map fun (x : Counter) => x.bump 0x0B0 (Config.periods s.tick f) none
      unstretched := k.unstretched - Config.periods s.tick f })
    module := { s.module with wave := s.module.wave + Config.periods s.tick 2048 } }
  s1.modCur fun k => k.elapse s.focus s.tick n

/-- The time of the focus core's own step that is a selection: none where a context is ready, and more than none where the core is
idle (R165, R166). -/
def State.selectTime (s : State) : Nat := if s.idles s.focus then 1 + Config.idle s.tick s.focus else 0

/-! ## After an issue -/

/-- Does a control instruction go elsewhere than to the next word (R50 to R52)? -/
def State.branches (s : State) : Instr → Bool
  | .bCond a b c _ _ _ => condHolds c (s.ctx.readS a) (s.ctx.readS b)
  | .loop a _ _ _ => s.ctx.readS a - 1 != 0
  | .jmp _ _ => true
  | _ => false

/-- Does an instruction enter a block, so that its first word issues 4 cycles later (R72)? -/
def entersBlock : Instr → Bool
  | .next _ | .call _ _ | .ret _ _ | .tret => true
  | _ => false

/-- The cycles from this issue to the next at the earliest (R72, R166). The hint of a branch, `.pt`, changes nothing here: R72 has one
figure for a taken branch (DESIGN CHOICE; log entry 99). -/
def State.gapAfter (s t : State) (i : Instr) : Nat :=
  if !t.cur.turn || (t.ctx.inTrap && !s.ctx.inTrap) || entersBlock i then 4 else if s.branches i then 2 else 1

/-- Has an instruction had its effect: its turn goes on, and no trap has been taken? -/
def State.performed (s t : State) : Bool := t.cur.turn && (t.ctx.inTrap == s.ctx.inTrap)

/-- The due results after an instruction: those it makes take the place of earlier ones of their places (R72). -/
def Core.dueWith (k : Core) (ctx : BitVec 4) (l : List (Place × Nat)) : Core :=
  let real := l.filter fun x => x.1 != .s 0 && x.1 != .k 0
  { k with due := (k.due.filter fun d => !(d.ctx == ctx && real.any fun x => x.1 == d.place)) ++
      (real.filter fun x => 1 < x.2).map fun x => ⟨ctx, x.1, x.2⟩ }

/-- What the pipe of the focus core remembers of an instruction that issued in state s and left state t (R72). -/
def State.issued (s t : State) (i : Instr) : State :=
  if i.isPrefix then t
  else t.modCur fun k =>
    let k1 := if s.performed t then k.dueWith s.who (s.results t i) else k
    { k1 with gap := s.gapAfter t i }

/-- What the pipe of a core remembers of a selection: the first word of the task issues 4 cycles after the turn before ended
(R166). -/
def State.selected (s t : State) (cid : Nat) : State :=
  let c := t.ctxAt cid (t.core cid).current
  if (s.core cid).turn || (c.inTrap && !(s.ctxAt cid (t.core cid).current).inTrap) then t.modCore cid fun k => { k with gap := 4 } else t

/-- What the pipes remember of an instruction or event (R72, R166). -/
def State.timed (s t : State) (i : Instr) : State :=
  if i.coded then s.issued t i
  else match i with
    | .selection cid => s.selected t cid
    | _ => t

end Sys2Proof.Machine
end

