-- ==== Sys2Proof/Machine/Errors.lean ====
section
/-!
DEFINITION. Sys2Proof/Machine/Errors.lean: errors that accesses find, corrected or beyond correction, and the cells that such an
error has marked, which report again until they are written (R259 to R261; log entries 54 and 96).
-/

namespace Sys2Proof.Machine

/-! ## An access that ends (R260) -/

/-- The core at which an access is made, the graph whose region made it, and the state in which the access has ended; none where
there is no such access. -/
def State.accessEnds (s : State) : Accessor → Option (Nat × BitVec 16 × State)
  | .pipe cid =>
    let k := s.core cid
    if k.turn then some (cid, (s.ctxAt cid k.current).graph, s.modCore cid fun k => { k with turn := false }) else none
  | .message id => (s.net.find? fun m => m.id == id && !m.entry).map fun m =>
    (m.dst, m.graph, match m.body with
      | .chase _ => s.loseChase id
      | _ => s.loseAccess m)
  | .engine cid g =>
    let e := s.engineAt cid g
    if e.st.busy && e.st != .halted then
      some (cid, s.engineGraph cid e, s.modEngine cid g fun e =>
        { e with raw := [], got := [], runs := [], part := [], lanes := [], srcLanes := [] })
    else none
  | .walk hub i => ((s.hub hub).walks[i]?).map fun w => (hub * 16, w.asn, s.endWalk hub i)
  | .behalf cid graph => (s.graph? graph).map fun _ => (cid, graph, s)

/-- An error beyond correction ends the access, halts the region that made it and is reported (R260, R261). -/
def State.endAccess (s : State) (who : Accessor) (store : Store) (addr : Nat) : State :=
  match s.accessEnds who with
  | none => s
  | some (cid, graph, ended) =>
    match store with
    | .table => (ended.haltRegion graph).machineCheck 0x07 0 cid graph (BitVec.ofNat 64 addr)
    | .pool => (ended.haltRegion graph).machineCheck 0x05 0 (addrCore addr) graph (BitVec.ofNat 64 addr)
    | .dram => (ended.haltRegion graph).machineCheck 0x06 0 (addrCore addr) graph (BitVec.ofNat 64 addr)

/-- An error that an access finds: corrected, it is counted where the byte lies; beyond correction, its cells are marked and the
access ends (R259, R260). A table has no correction. -/
def State.memoryError (s : State) (who : Accessor) (store : Store) (addr : Nat) (bad : Bool) : State :=
  if (s.accessEnds who).isNone then s
  else if bad || store == .table then (s.mark store addr).endAccess who store addr
  else s.count (addrCore addr) (if store == .pool then 0x071 else 0x072)

/-- A TLB entry that fails its parity is discarded (R259, R293). -/
def State.tlbError (s : State) (hub : Bool) (n i : Nat) : State :=
  if hub then s.modHub n fun k => { k with tlb := k.tlb.eraseIdx i } else s.modCore n fun k => { k with tlb := k.tlb.eraseIdx i }

/-- An error in what is no byte of memory, which an access finds: marked, and the access ends (R260). -/
def spotStore : Spot → Store
  | .reg .. => .pool
  | .entry .. => .pool
  | _ => .table
def State.spotError (s : State) (who : Accessor) (x : Spot) (addr : Nat) : State :=
  if (s.accessEnds who).isNone then s
  else { s with spots := (x, addr) :: s.spots.filter fun y => y.1 != x }.endAccess who (spotStore x) addr

/-! ## Marked cells are found again (R260; log entry 96) -/

/-- A byte of memory set aside from any access: no cell is written by it. -/
def State.withCell (s : State) (key : Nat) (v : Byte) : State := { s with mem := memSet s.mem key v }

/-- Is a cell marked? -/
def State.marked (s : State) (key : Nat) : Bool := s.flaws.any fun x => x.1 == key

/-- A state without what a cell holds, as long as it is marked. -/
def State.without (s : State) (key : Nat) : State := if s.marked key then s.withCell key 0 else s

/-- Do two outcomes agree but for what a marked cell holds? -/
def agree (key : Nat) : Answer → Answer → Bool
  | .next a, .next b => decide (a.without key = b.without key)
  | .fault a, .fault b => decide (a = b)
  | .refused a, .refused b => decide (a = b)
  | _, _ => false

/-- Does what an instruction or event does depend on what a cell holds: it reads it? -/
def State.reads (s : State) (run : State → Answer) (key : Nat) : Bool :=
  (List.range 256).any fun v => !agree key (run s) (run (s.withCell key (BitVec.ofNat 8 v)))

/-- The bytes that an event reads though its outcome does not show it: a spilled packet's, on its return (R377). -/
def State.alsoReads (s : State) : Instr → List Nat
  | .chaseSpillReturn cid => match (s.core cid).spill with
    | x :: _ => (List.range 64).map fun i => s.place (spillPlace cid x.2 + i)
    | [] => []
  | _ => []

/-- A pattern of a byte all over a number of `n` bytes. -/
def pattern (n v : Nat) : Nat := leNat (List.replicate n (BitVec.ofNat 8 v))

/-- A context with a pattern in the register of a place. -/
def Context.varied (c : Context) (p : Place) (v : Nat) : Context :=
  match p with
  | .s r => { c with s := setV c.s r (BitVec.ofNat 64 (pattern 8 v)) }
  | .v r => { c with v := setV c.v r (lanes fun _ => BitVec.ofNat 32 (pattern 4 v)) }
  | .k r => { c with k := setV c.k r (BitVec.ofNat 16 (pattern 2 v)) }
  | .f r => c.writeF r (BitVec.ofNat 32 (pattern 4 v))
  | .e r => { c with e := setV c.e r (BitVec.ofNat 256 (pattern 32 v)) }
  | .flags => { c with prec := BitVec.ofNat 64 (pattern 8 v) }
  | _ => c

/-- A state with a pattern in what a spot names, set aside from any access. -/
def State.varied (s : State) (x : Spot) (v : Nat) : State :=
  match x with
  | .reg cid n p => s.modCtxAt cid n fun c => c.varied p v
  | .entry ch i => s.modChan ch fun c => { c with
      queue := c.queue.modify i fun _ => ⟨BitVec.ofNat 512 (pattern 64 v), BitVec.ofNat 16 (pattern 2 v), BitVec.ofNat 3 v⟩ }
  | .config cid b => s.modCore cid fun k => { k with banks := setV k.banks b (Vector.replicate 6 (BitVec.ofNat 64 (pattern 8 v))) }
  | .chan n => s.modChan n fun c => { c with bound := v % 2 == 1, depth := v, cons := v, prod := v, prio := v % 48 }
  | .router h g => s.modHub h fun k => { k with mcast := assocSet k.mcast g (BitVec.ofNat 32 (pattern 4 v)) }

/-- A state without what a spot holds, as long as it is marked. -/
def State.withoutSpot (s : State) (x : Spot) : State := if s.spots.any fun y => y.1 == x then s.varied x 0 else s

/-- Do two outcomes agree but for what a marked spot holds? -/
def agreeSpot (x : Spot) : Answer → Answer → Bool
  | .next a, .next b => decide (a.withoutSpot x = b.withoutSpot x)
  | .fault a, .fault b => decide (a = b)
  | .refused a, .refused b => decide (a = b)
  | _, _ => false

/-- Does an instruction or event read a spot: its outcome depends on it, or it saves the context of the register (R178)? -/
def State.readsSpot (s : State) (run : State → Answer) (x : Spot) : Bool :=
  ((List.range 256).any fun v => !agreeSpot x (run s) (run (s.varied x v))) || match x, run s with
    | .reg cid n _, .next t => !(s.ctxAt cid n).saved && (t.ctxAt cid n).saved
    | _, _ => false

/-- The store and place at which an access finds an error it meets again, if it meets one. -/
def State.meets (s : State) (exec : Instr → State → Answer) (i : Instr) : Option (Store × Nat) :=
  match s.flaws.find? fun x => s.reads (exec i) x.1 || (s.alsoReads i).contains x.1 with
  | some x => some (if addrPool x.2 then .pool else .dram, x.2)
  | none => (s.spots.find? fun x => s.readsSpot (exec i) x.1).map fun x => (spotStore x.1, x.2)

/-- The tokens that have left the head of a queue between two states. -/
def poppedOf (before after : List Token) : Nat :=
  ((List.range (before.length + 1)).find? fun k => (before.drop k).isPrefixOf after).getD before.length

/-- What a spot holds, as numbers. -/
def State.look (s : State) (x : Spot) : List Nat :=
  match x with
  | .reg cid n p =>
    let c := s.ctxAt cid n
    match p with
    | .s r => [(getV c.s r).toNat]
    | .v r => [(packLanes (getV c.v r)).toNat]
    | .k r => [(getV c.k r).toNat]
    | .f r => [(c.readF r).toNat]
    | .e r => [(getV c.e r).toNat]
    | .flags => [c.prec.toNat]
    | _ => []
  | .entry _ _ => []
  | .config cid b => (getV (s.core cid).banks b).toList.map fun w => w.toNat
  | .chan n => ((s.chans[n]?).map fun c => [c.bound.toNat, c.depth, c.cons, c.prod, c.prio]).getD []
  | .router h g => [((assocGet (s.hub h).mcast g).getD 0).toNat]

/-- What becomes of a marked spot when an instruction or event has led from a state to another: a token moves up in its queue or has
left it, and what has been written is good again, a result of the instruction even if it is the value that was there. -/
def State.spotAfter (s t : State) (i : Instr) (x : Spot) : Option Spot :=
  let written := match x with
    | .reg cid n p => i.coded && cid == s.focus && n == s.who && s.performed t && (s.results t i).any fun y => y.1 == p
    | _ => false
  match x with
  | .entry ch n =>
    let q := fun (u : State) => ((u.chans[ch]?).map fun c => c.queue).getD []
    let k := poppedOf (q s) (q t)
    if k ≤ n then some (.entry ch (n - k)) else none
  | x => if written || s.look x != t.look x then none else some x

/-- The marks after an instruction or event. -/
def State.keepSpots (s t : State) (i : Instr) : State :=
  if s.spots.isEmpty then t
  else { t with spots := t.spots.filterMap fun x => (s.spotAfter t i x.1).map fun y => (y, x.2) }
/-- The same for the words that the pipe fetches. -/
def State.fetchMeets (s : State) : Option Nat :=
  (s.flaws.find? fun x => (List.range 256).any fun v => (s.withCell x.1 (BitVec.ofNat 8 v)).issueNext != s.issueNext).map fun x => x.2

/-- A context that sends a token, or a copy of a multicast, as an accessor. -/
def State.onBehalf (s : State) (cid : Nat) (n : BitVec 4) : Accessor := .behalf cid (s.ctxAt cid n).graph

/-- The context that a selection of a core takes, or would take first, as an accessor: the pool accesses of a selection are made on
its behalf (R260). -/
def State.selector (s : State) (cid : Nat) : Accessor :=
  let n := match s.topLevel cid with
    | some l => (s.scan cid l ((s.core cid).prioCtr[l % 48]'(Nat.mod_lt _ (by decide)))).getD (s.core cid).current
    | none => (s.core cid).current
  .behalf cid (s.ctxAt cid n).graph

/-- Whose access an instruction or event makes (R260); none for one that reads no cell. -/
def State.accessor (s : State) (i : Instr) : Option Accessor :=
  if i.coded then some (.pipe s.focus)
  else match i with
    | .selection cid => some (s.selector cid)
    | .ownerPortAccess id => some (.message id)
    | .chaseHop id => some (.message id)
    | .serviceRequestDelivery id => some (.message id)
    | .replyArrival id => some (.message id)
    | .chaseReply id => some (.message id)
    | .chaseSpillReturn cid => ((s.core cid).spill.head?).map fun x => .message x.1
    | .multicastReplication id => (s.packets.find? fun p => p.id == id).map fun p => s.onBehalf p.sender p.sctx
    | .tokenInjection n => (s.chan? n).map fun c => .behalf c.home (BitVec.ofNat 16 c.graph)
    | .tokenArrival n => (s.chan? n).map fun c => .behalf c.goal (BitVec.ofNat 16 c.graph)
    | .creditArrival n => (s.chan? n).map fun c => .behalf c.home (BitVec.ofNat 16 c.graph)
    | .hostRegisterWrite off v => if off = 0x100 then some (.behalf s.focus (v.extractLsb' 40 16)) else none
    | .walkLevelRead hub n => some (.walk hub n)
    | .engineElement cid g => some (.engine cid g)
    | .pressPassEnd cid _ => ((s.core cid).pressQ.head?).map fun p => .behalf cid p.graph
    | .pressCommitEnd cid => ((s.core cid).pressQ.head?).map fun p => .behalf cid p.graph
    | .regionConfigured g => some (.behalf s.focus g)
    | .regionQuiescent g => some (.behalf s.focus g)
    | .regionSaved g => some (.behalf s.focus g)
    | .resume g _ => some (.behalf s.focus g)
    | .edit g _ => some (.behalf s.focus g)
    | .tileSaveCopy cid n => some (.behalf cid (s.ctxAt cid (shapeOwner ((s.core cid).shape (BitVec.ofNat 3 n)))).graph)
    | .tileRestoreCopy cid n _ => some (.behalf cid (s.ctxAt cid (BitVec.ofNat 4 n)).graph)
    | _ => none

/-- A request of the host that reads a marked cell completes as its region does: halted (R172, R264). -/
def State.endRequest (s : State) (i : Instr) : State :=
  match i with
  | .resume _ _ => s.reqDone 0x06 0x0E
  | .edit _ _ => s.reqDone 0x03 0x0E
  | .hostRegisterWrite _ v => s.reqDone (v.extractLsb' 56 8) 0x0E
  | _ => s

/-- An outcome with its next state changed. -/
def Answer.map (x : Answer) (f : State → State) : Answer :=
  match x with
  | .next t => .next (f t)
  | .fault r => .fault r
  | .refused r => .refused r

/-- An instruction or event performed: its meaning, unless it reads a marked cell, which ends its access (R260); and what the pipe
remembers of it (R72). -/
def State.perform (s : State) (exec : Instr → State → Answer) (i : Instr) : Answer :=
  match (s.accessor i).bind fun who => (s.meets exec i).map fun a => (who, a) with
  | none => Answer.map (exec i s) fun t => s.keepSpots (s.timed t i) i
  | some (who, a) => .next (s.timed ((s.endAccess who a.1 a.2).endRequest i) i)

end Sys2Proof.Machine
end

