-- ==== Sys2Proof/Machine/Pieces.lean ====
section
/-!
DEFINITION. Sys2Proof/Machine/Pieces.lean: instructions whose pool access is no single access: the pieces that it is performed in,
and the accesses of other agents that come between them (R319, R392; log entry 98).
-/

namespace Sys2Proof.Machine

/-- An EFM value by its 64-byte spans (R319). -/
def spanPieces (a n : Nat) : List (Nat × Nat) :=
  let m := min n (64 - a % 64)
  if m = n then [(a, n)] else [(a, m), (a + m, n - m)]

/-- Pieces of `n` bytes at some addresses, in ascending order (R319). -/
def piecesAt (n : Nat) (l : List Nat) : List (Nat × Nat) :=
  (l.foldl (fun acc a => (acc.takeWhile fun x => x.1 ≤ a) ++ [(a, n)] ++ acc.dropWhile fun x => x.1 ≤ a) [])

/-- Words of `n` bytes from an address. -/
def wordPieces (a n k : Nat) : List (Nat × Nat) := (List.range k).map fun i => (a + n * i, n)

/-- The pieces of an instruction's pool access, whether it stores them, by their offset and length; none for one whose access is
single-copy atomic, or that accesses no pool (R319). -/
def State.pieces (s : State) : Instr → Option (Bool × List (Nat × Nat))
  | .vld _ a o _ _ _ => some (false, wordPieces (vectorOffset s.ctx a o).toNat 4 16)
  | .vst _ a o k _ =>
    some (true, piecesAt 4 ((activeLanes (s.ctx.readK k)).map fun i => (vectorOffset s.ctx a o).toNat + 4 * i.toNat))
  | .vgat _ a b k _ _ => some (false, piecesAt 4 ((activeLanes (s.ctx.readK k)).map fun i => (laneOffset s.ctx a b i).toNat))
  | .vsct _ a b k _ => some (true, piecesAt 4 ((activeLanes (s.ctx.readK k)).map fun i => (laneOffset s.ctx a b i).toNat))
  | .vpark _ a k _ =>
    some (true, piecesAt 4 ((activeLanes (s.ctx.readK k)).map fun i => s.cur.accuLo + 64 * (s.ctx.readS a).toNat + 4 * i.toNat))
  | .vunpark _ a _ _ _ => some (false, wordPieces (s.cur.accuLo + 64 * (s.ctx.readS a).toNat) 4 16)
  | .eld _ d a o | .eldInc _ d a o => some (false, spanPieces (efmAddr s.ctx a o).toNat (s.efmBytes false d a 0 o))
  | .est _ d a n o | .estInc _ d a n o => some (true, spanPieces (efmAddr s.ctx a o).toNat (s.efmBytes true d a n o))
  | .tld n a b _ =>
    let z := poolElem (s.ctx.chain.afmt.getD 0x0F)
    some (false, piecesAt z ((cellsOf (shapeRows (s.cur.shape (n.setWidth 3))) (shapeCols (s.cur.shape (n.setWidth 3)))).map fun x =>
      tileByte (s.ctx.readS a) (s.ctx.readS b) z x.1 x.2))
  | .tst n a b _ =>
    let z := poolElem (s.ctx.chain.dfmt.getD 0x0F)
    some (true, piecesAt z ((cellsOf (shapeRows (s.cur.shape (n.setWidth 3))) (shapeCols (s.cur.shape (n.setWidth 3)))).map fun x =>
      tileByte (s.ctx.readS a) (s.ctx.readS b) z x.1 x.2))
  | .vcfg _ a _ => some (false, wordPieces (s.ctx.readS a).toNat 8 6)
  | .sopen _ a _ => some (false, wordPieces (s.ctx.readS a).toNat 8 9)
  | .xcopy _ _ b _ | .xfill _ _ b _ | .xsplice _ _ b _ => some (false, wordPieces (s.ctx.readS b).toNat 8 4)
  | .chase _ _ b _ => some (false, wordPieces (s.ctx.readS b).toNat 4 8)
  | _ => none

/-- The accesses of other agents that may come between two pieces: at an owner's port, of an engine, and a chase's reply. -/
def mayCut : Instr → Bool
  | .ownerPortAccess _ | .engineElement _ _ | .chaseReply _ => true
  | _ => false

/-- The accesses that come before piece `k`. -/
def State.between (s : State) (exec : Instr → State → Answer) (cuts : List (Nat × Instr)) (k : Nat) : State :=
  (cuts.filter fun x => x.1 == k && mayCut x.2).foldl (fun st x => match st.perform exec x.2 with
    | .next t => t
    | .fault _ => st
    | .refused _ => st) s

/-- Bytes of the focus core's pool as cells: offset and byte. -/
def State.cells (s : State) (p : Nat × Nat) : List (Nat × Byte) :=
  (List.range p.2).map fun i => (p.1 + i, s.readByte (poolAddr s.focus (p.1 + i)))

/-- Memory with some bytes of the focus core's pool as given; no access is made. -/
def State.withCells (s : State) (l : List (Nat × Byte)) : State :=
  l.foldl (fun st x => st.withCell (poolAddr s.focus x.1) x.2) s

/-- What an instruction reads piece by piece, from piece `k` on, with what comes between. -/
def State.readPieces (s : State) (exec : Instr → State → Answer) (cuts : List (Nat × Instr)) (k : Nat) :
    List (Nat × Nat) → State × List (Nat × Byte)
  | [] => (s, [])
  | p :: rest =>
    let s1 := if k = 0 then s else s.between exec cuts k
    let r := s1.readPieces exec cuts (k + 1) rest
    (r.1, s1.cells p ++ r.2)

/-- What an instruction writes, `l` its bytes by pieces, from piece `k` on, with what comes between. -/
def State.writePieces (s : State) (exec : Instr → State → Answer) (cuts : List (Nat × Instr)) (k : Nat) :
    List (List (Nat × Byte)) → State
  | [] => s
  | p :: rest =>
    let s1 := if k = 0 then s else s.between exec cuts k
    (p.foldl (fun st x => st.writeByte (poolAddr s.focus x.1) x.2) s1).writePieces exec cuts (k + 1) rest

/-- An instruction performed with accesses of others between its pieces: a load works on the bytes as it has read them, a store
leaves the bytes as they stand once all of its pieces are written; one that traps or parks has no pieces (R319, R392). -/
def State.performPieces (s : State) (exec : Instr → State → Answer) (i : Instr) (cuts : List (Nat × Instr)) : Answer :=
  match s.pieces i, s.perform exec i with
  | some (true, ps), .next u =>
    if s.performed u then
      let s1 := s.writePieces exec cuts 0 (ps.map u.cells)
      Answer.map (s1.perform exec i) fun t => t.withCells (ps.flatMap s1.cells)
    else .next u
  | some (false, ps), .next u =>
    if s.performed u then
      let r := s.readPieces exec cuts 0 ps
      Answer.map ((r.1.withCells r.2).perform exec i) fun t => t.withCells (ps.flatMap r.1.cells)
    else .next u
  | _, x => x

end Sys2Proof.Machine
end

