-- ==== Sys2Proof/Machine/Schedule.lean ====
section
/-!
DEFINITION. Sys2Proof/Machine/Schedule.lean: what a step does next: an input the environment has listed, an
instruction of the running turn, a fault of its chain, or a selection; and how a word is placed where the pipe fetches (log
entries 1 and 2).
-/

namespace Sys2Proof.Machine

/-- What a step does: it goes on in a state, performs an instruction or event, performs an instruction with accesses of others
between its pieces, or stops. -/
inductive StepAction where
  | go (s : State)
  | act (i : Instr) (s : State)
  | cut (i : Instr) (cuts : List (Nat × Instr)) (s : State)
  | stop (f : Fault)

/-! ## What comes next -/

/-- Is a prefix latched in a running turn? No other step of the core comes between it and the next word (R32). -/
def State.midChain (s : State) : Bool := s.module.mst == .running && s.cur.turn && s.ctx.chain.start.isSome

/-- Does the running turn issue its next word, and not stop at this instruction boundary (R174, R177)? -/
def State.turnIssues (s : State) : Bool := s.cur.turn && (s.ctx.chain.start.isSome || !s.turnStops s.ctx)

/-- The trap of a fault in the words of a chain, once the pipe may issue it; its handler's first word issues 4 cycles later (R72). -/
def State.faulted (s : State) (f : State → State) : State :=
  (f (s.elapse (s.cur.waitFor []))).modCur fun k => { k with gap := 4 }

/-- The core's own step: the next instruction of its turn, when what it reads is available (R72), or a selection (R165). A word
that lies in marked cells is not delivered (R260). -/
def State.coreStep (s : State) : StepAction :=
  if s.turnIssues then
    match s.fetchMeets with
    | some a => .go (s.faulted fun t => t.endAccess (.pipe t.focus) .pool a)
    | none => match s.issueNext with
      | .noBlock => .stop .noBlock
      | .encoding d w => .go (s.faulted fun t => t.encodingFault d (s.faultOperand d w) w)
      | .badPrefix d w => .go (s.faulted fun t => t.trap 0x02 0 d (w.setWidth 64))
      | .run i => .act i (s.elapse (s.waitOf i))
  else .act (.selection s.focus) (s.elapse s.selectTime)

/-- The core's next instruction with accesses of others between its pieces, where it has any; inside a chain it waits for the
instruction, and elsewhere it is of no effect (R319). -/
def State.cutStep (s : State) (cuts : List (Nat × Instr)) (rest : List Input) : StepAction :=
  match (if s.module.mst = .running then { s with inputs := rest }.coreStep else .go s) with
  | .act i t =>
    if (t.pieces i).isSome then .cut i cuts t else if s.midChain then s.coreStep else .go { s with inputs := rest }
  | _ => if s.midChain then s.coreStep else .go { s with inputs := rest }

/-- One step: the next input where no chain is open; else, while the module runs, a pending reconfigure whose time has come
(R246) or the focus core's own step, and while it starts the steps of the start (R272, R274). -/
def State.nextAction (s : State) : StepAction :=
  match s.inputs with
  | .within cuts :: rest => s.cutStep cuts rest
  | i :: rest =>
    if s.midChain then s.coreStep
    else match i with
      | .focus cid => .go { s with inputs := rest, focus := cid }
      | .memoryError who store addr bad => .go ({ s with inputs := rest }.memoryError who store addr bad)
      | .spotError who x addr => .go ({ s with inputs := rest }.spotError who x addr)
      | .tlbError hub n i => .go ({ s with inputs := rest }.tlbError hub n i)
      | .within _ => .go { s with inputs := rest }
      | .event e => if e.coded then .go { s with inputs := rest } else .act e { s with inputs := rest }
  | [] => match s.module.mst with
    | .running =>
      if s.module.reconfigure.isSome && !s.turnIssues && s.still then .go s.reconfigureNow else s.coreStep
    | .starting => .go s.runStart
    | .off => .go s
    | .hold => .go s

/-- A word that the prefix of a word may stand before, and 0 after any other word: `li` for `ext`, `vfadd` for `fmt`,
`mcfg` for `scl`, `fadd` for `rnd`. -/
def wordAfter (w : Nat) : Nat :=
  match w / 2 ^ 25 % 128 with
  | 0x78 => 0x24000000
  | 0x79 => 0xA2000000
  | 0x7A => 0xC2000000
  | 0x7B => 0x28000000
  | _ => 0

/-- The focus core made to run the word `w` next: its context 0 runs word 0 of a 64-word block at pool offset 0 whose
header permits press, dynamic and elastic instructions, and the word stands there (log entry 8). -/
def State.placeWord (s : State) (w : Nat) : State :=
  let c := { s.ctxAt s.focus 0 with
    bound := true
    handlers := [(0, 0)]
    handler := 0
    word := 0
    chain := .empty
    park := .none
    stopped := false
    saved := false
    firing := true }
  let s1 := (s.modCore s.focus fun k => { k with current := 0, turn := true }).setCtxAt s.focus 0 c
  let s2 := { s1 with
    inputs := []
    graphs := s.graphs.filter fun g => g.num != c.graph
    module := { s.module with mst := .running }
    mem := memClear s1.mem (poolAddr s.focus 0) (poolAddr s.focus 260)
    flaws := []
    spots := [] }
  ((s2.writeLE (poolAddr s.focus 0) 4 0xFE0C0000).writeLE (poolAddr s.focus 4) 4 (w % 2 ^ 32)).writeLE
    (poolAddr s.focus 8) 4 (wordAfter w)

end Sys2Proof.Machine
end

