-- ==== Sys2Proof/Machine/Step.lean ====
section
/-! DEFINITION. Sys2Proof/Machine/Step.lean: one step of the machine, and a word placed where it fetches next. -/

namespace Sys2Proof.Machine

/-- One step: what `State.nextAction` names, an instruction or event through its meaning, which `State.perform` and
`State.performPieces` apply. -/
def step (s : State) : Host.Outcome State Fault Refusal :=
  match s.nextAction with
  | .go t => .next t
  | .stop f => .fault f
  | .act i t => t.perform exec i
  | .cut i cuts t => t.performPieces exec i cuts

/-- The state with the table's word `w` as the very next instruction (log entry 8). -/
def State.withFetchWord (s : State) (nbits w : Nat) : State := s.placeWord (w % 2 ^ nbits)

end Sys2Proof.Machine
end

