-- ==== Sys2Proof/Safety.lean ====
section
/-!
DEFINITION. Sys2Proof/Safety.lean: the terms that claims use: the invariant of the machine's data, and short names for
what an instruction does to the issuing context and to memory.
-/

namespace Sys2Proof.Machine

/-- What every step keeps: memory is in its canonical form, and the log holds at most its 960 records (R268). -/
def State.Inv (s : State) : Prop := Memory.wf s.mem = true ∧ s.module.log.length ≤ Config.logSize

/-- Every one of these scalar registers of the issuing context is full (R10). -/
def State.Full (s : State) (rs : List Reg) : Prop := ∀ r ∈ rs, s.ctx.isFull r = true

/-- `r` is the empty register with the lowest number among `rs` (R10). -/
def State.FirstEmpty (s : State) (rs : List Reg) (r : Reg) : Prop :=
  r ∈ rs ∧ s.ctx.isFull r = false ∧ ∀ q ∈ rs, s.ctx.isFull q = false → r.toNat ≤ q.toNat

/-- The instruction completes: `f` is done to the issuing context, which goes on at the next word with no prefix
pending, and nothing else in the machine changes. -/
def State.Does (s : State) (i : Instr) (f : Context → Context) : Prop :=
  exec i s = .next (s.setCtx { f s.ctx with chain := .empty, word := (f s.ctx).word + 1 })

/-- The instruction completes with `x` written to s[d], and nothing else. -/
def State.WritesS (s : State) (i : Instr) (d : Reg) (x : Word) : Prop := s.Does i fun c => c.writeS d x

/-- The instruction completes with `x` written to s[d] and `y` to s[d+1], and nothing else. -/
def State.WritesPair (s : State) (i : Instr) (d : Reg) (x y : Word) : Prop :=
  s.Does i fun c => (c.writeS d x).writeS (d + 1) y

/-- The instruction completes by passing control: the issuing context becomes `c` with word `w` to be issued next and no
prefix pending, and nothing else in the machine changes. -/
def State.GoesTo (s : State) (i : Instr) (c : Context) (w : BitVec 7) : Prop :=
  exec i s = .next (s.setCtx { c with chain := .empty, word := w })

/-- `h` is a handler of the running actor and its block's header `hd` passes the checks of R25 at word `w`. -/
def State.Enterable (s : State) (h : BitVec 16) (hd : IWord) (w : Nat) : Prop :=
  s.header s.focus s.ctx h = some hd ∧ headerFault s.ctx hd h w = none

/-- Control goes to word `w` of handler `h` in context `c`, whose header `hd` fails a check of R25: the trap of that check is
raised there (R25, R386). -/
def State.EntryTraps (s : State) (i : Instr) (c : Context) (h : BitVec 16) (hd : IWord) (w : Nat) : Prop :=
  let e := s.setCtx { c with handler := h, word := BitVec.ofNat 7 w, chain := .empty }
  let win := (hd.extractLsb' 23 3).toNat
  let p := (s.ctx.prec.extractLsb' 0 8).toNat
  let words := (p + 78) / 64
  let bad := 5 ≤ win ∨ hd.extractLsb' 0 16 ≠ h
  (bad → exec i s = .next (e.trap 0x01 0 0x0A (BitVec.ofNat 64 w))) ∧
    (¬ bad → 1 ≤ win → win < words → exec i s = .next (e.trap 0x0C (BitVec.ofNat 8 words) 0x02 (BitVec.ofNat 64 p)))

/-- The handler that TVEC names can be entered: EN is set, it is a handler of the actor, its block may be entered
through TVEC, and its header passes R25 (R19, R70). -/
def State.TrapReady (s : State) : Prop :=
  s.ctx.tvec.getLsbD 16 = true ∧
    ∃ hd, hd.getLsbD 16 = true ∧ s.Enterable (s.ctx.tvec.extractLsb' 0 16) hd 0

/-- The instruction raises a trap: code, operand, detail, address (R70). -/
def State.Traps (s : State) (i : Instr) (code operand detail : BitVec 8) (addr : Word) : Prop :=
  exec i s = .next (s.trap code operand detail addr)

/-- A message of the issuing context as its send queue takes it (R77): numbered next, with a queue entry. -/
def State.outMsg (s : State) (dst : Nat) (whey : Bool) (pend : List Nat) (body : MsgBody) : Msg where
  id := s.nextId
  src := s.focus
  dst := dst
  ctx := s.who
  graph := s.ctx.graph
  whey := whey
  entry := true
  pend := pend
  engine := none
  via := none
  born := s.cur.cycle
  past := false
  body := body

/-- `t` is `s` with one more message in flight and the issuing context become `c`; memory, channels, fences, regions, the
other cores and the other contexts of the core are as they were. -/
def State.Sent (s t : State) (m : Msg) (c : Context) : Prop :=
  t.net = s.net ++ [m] ∧ t.nextId = s.nextId + 1 ∧ t.ctx = { c with chain := .empty, word := s.ctx.word + 1 } ∧
    t.mem = s.mem ∧ t.chans = s.chans ∧ t.fences = s.fences ∧ t.packets = s.packets ∧ t.misses = s.misses ∧
    t.graphs = s.graphs ∧ t.module = s.module ∧ t.cur.turn = s.cur.turn ∧ t.focus = s.focus ∧
    (∀ n, n ≠ s.who → t.ctxAt s.focus n = s.ctxAt s.focus n) ∧ ∀ k, k ≠ s.focus → t.core k = s.core k

/-- A curd entry is free under SQLIM (R19, R77). -/
def State.Room (s : State) : Prop := s.queued s.focus false < (s.cur.sqlim.extractLsb' 0 5).toNat

/-- The requester's TLB gives the access at `va` the wafer address `addr`, in DRAM or in the pool of a core of the
requester's cluster (R75, R293). -/
def State.Reaches (s : State) (va : Nat) (rd wr : Bool) (addr : Nat) : Prop :=
  va < 2 ^ 54 ∧ s.xlate s.focus s.ctx.graph va rd wr = .ok addr ∧
    (addrPool addr = true → addrCore addr / 16 = s.focus / 16)

/-- What an access at `v`, whose address register `a` holds, is refused with before anything is sent, in the order of R76: a
misaligned address, one at or above 2^54, a graph without a table or a protection fault of the page (R286, R299), a target
that the form may not reach (`dram`: DRAM alone; R75), a full send queue; and a miss of the core TLB parks the context and
goes to the core's hub (R295). -/
def State.AccessTraps (s : State) (i : Instr) (a : Reg) (v : Word) (n : Nat) (rd wr dram : Bool) : Prop :=
  let op : BitVec 8 := a.setWidth 8
  let x := s.xlate s.focus s.ctx.graph v.toNat rd wr
  (v.toNat % n ≠ 0 → s.Traps i 0x03 op 0x01 v) ∧
  (v.toNat % n = 0 → 2 ^ 54 ≤ v.toNat → s.Traps i 0x0A op 0x01 v) ∧
  (v.toNat % n = 0 → v.toNat < 2 ^ 54 →
    (∀ d, s.ctx.walked = some (v.toNat, d) → x = .miss →
      exec i s = .next ((s.setCtx { s.ctx with walked := none }).trap 0x0A op d v)) ∧
    (s.ctx.walked = none →
      (∀ g, s.graph? s.ctx.graph = some g → g.root = none → s.Traps i 0x0A op 0x07 v) ∧
      (∀ d, x = .fault d → s.Traps i 0x0A op d v) ∧
      (x = .miss → ∃ t m, exec i s = .next t ∧ t.ctx.park = .miss s.nextId ∧ t.cur.turn = false ∧
        t.ctx.word = BitVec.ofNat 7 s.ctx.first ∧ t.misses = s.misses ++ [m] ∧ m.id = s.nextId ∧ m.hub = s.focus / 16 ∧
        m.waiter = .context s.focus s.who.toNat ∧ m.asn = s.ctx.graph ∧ m.va = v.toNat ∧ m.read = rd ∧ m.write = wr ∧
        t.net = s.net ∧ t.mem = s.mem ∧ t.ctx.s = s.ctx.s ∧ t.ctx.full = s.ctx.full) ∧
      (∀ addr, x = .ok addr →
        let far := addrPool addr = true ∧ (dram = true ∨ addrCore addr / 16 ≠ s.focus / 16)
        (far → s.Traps i 0x0A op (if dram = true then 0x04 else 0x03) v) ∧
        (¬ far → ¬ s.Room → s.Traps i 0x07 0 0x01 0))))

/-- A message is at its destination's column port and may be performed there at its own place: it has left its queue, it
is the oldest of its way but for those that a hold keeps which lets it pass, the port lets it in, and no splice sends it on (R78, R90, R252, R303). -/
def State.AtPort (s : State) (m : Msg) (a n : Nat) : Prop :=
  s.msg? m.id = some m ∧ m.entry = false ∧ s.firstAtPort m = true ∧
    s.portAt a n (s.asker m).1 (s.asker m).2.1 (s.asker m).2.2 = .open_ ∧ s.rejected a n = false ∧ s.spliceAt a = none

/-- Where and how a register-only scalar instruction reads its scalar sources: its wait bit and the sources (R10). -/
def scalarSources : Instr → Option (Bool × List Reg)
  | .add _ a b w | .sub _ a b w | .and _ a b w | .or _ a b w | .xor _ a b w | .andn _ a b w | .orn _ a b w
  | .xnor _ a b w | .sll _ a b w | .srl _ a b w | .sra _ a b w | .rol _ a b w | .ror _ a b w | .mul _ a b w
  | .mulpS _ a b w | .mulpU _ a b w | .mulpSu _ a b w | .divqS _ a b w | .divqU _ a b w | .divqF _ a b w
  | .min _ a b w | .max _ a b w | .minu _ a b w | .maxu _ a b w | .bfx _ a b w | .bfxu _ a b w
  | .seq _ a b w | .sne _ a b w | .slt _ a b w | .sge _ a b w | .sltu _ a b w | .sgeu _ a b w => some (w, [a, b])
  | .bfi d a b w => some (w, [d, a, b])
  | .sel _ a b c w => some (w, [a, b, c])
  | .clz _ a w | .ctz _ a w | .popc _ a w | .brev _ a w | .bswap _ a w => some (w, [a])
  | .addi w _ a _ | .andi w _ a _ | .ori w _ a _ | .xori w _ a _ | .slti w _ a _ | .sltiu w _ a _ => some (w, [a])
  | .slli w _ a _ | .srli w _ a _ | .srai w _ a _ => some (w, [a])
  | .fcvtFS _ a w | .fmvFS _ a w => some (w, [a])
  | .bCond a b _ _ w _ => some (w, [a, b])
  | .loop a _ w _ | .ret a w => some (w, [a])
  | _ => none

/-- The instructions of majors 0x00 to 0x14, whose only effect is on registers of the issuing context. -/
def registerOnly : Instr → Bool
  | .bCond .. | .loop .. | .ret .. => false
  | .li .. | .liu .. | .fadd .. | .fsub .. | .fmul .. | .ffma .. | .fmin .. | .fmax .. | .fneg .. | .fabs ..
  | .fmov .. | .fcvtSF .. | .feq .. | .flt .. | .fle .. | .fmvSF .. => true
  | i => (scalarSources i).isSome

/-! ## Vector forms -/

/-- Lane (or bit) j is active under k[k]: k0 holds all ones (R9, R121). -/
def State.laneOn (s : State) (k : BitVec 3) (j : BitVec 4) : Bool := decide (k = 0) || (getV s.ctx.k k).getLsbD j.toNat

/-- Lane j of v[r]. -/
def State.lane (s : State) (r : Reg) (j : BitVec 4) : Lane := getV (getV s.ctx.v r) j

/-- The instruction completes with v[d] written as R121 says: `f j` in each active lane j, and in the others 0 (z) or the
old value; nothing else changes but what `g` does to the context. -/
def State.WritesVAnd (s : State) (i : Instr) (d : Reg) (k : BitVec 3) (z : Bool) (f : BitVec 4 → Lane)
    (g : Context → Context) : Prop :=
  ∃ y : Lanes, s.Does i (fun c => (g c).writeV d y) ∧
    ∀ j : BitVec 4, getV y j = if s.laneOn k j = true then f j else if z = true then 0 else s.lane d j

/-- The same where nothing but v[d] changes. -/
def State.WritesV (s : State) (i : Instr) (d : Reg) (k : BitVec 3) (z : Bool) (f : BitVec 4 → Lane) : Prop :=
  s.WritesVAnd i d k z f id

/-- The instruction completes with k[d] written as R121 says. -/
def State.WritesK (s : State) (i : Instr) (d : BitVec 3) (k : BitVec 3) (z : Bool) (f : BitVec 4 → Bool) : Prop :=
  ∃ m : Mask, s.Does i (fun c => c.writeK d m) ∧
    ∀ j : BitVec 4, m.getLsbD j.toNat =
      if s.laneOn k j = true then f j else if z = true then false else (s.ctx.readK d).getLsbD j.toNat

/-- The context after each active lane's generator has advanced once where the mode is STO (R116), and the draws. -/
def State.drawn (s : State) (m : BitVec 3) (k : BitVec 3) (c : Context) : Context :=
  if m = 5 then
    { c with
      gen := Vector.ofFn fun i => if s.laneOn k (BitVec.ofNat 4 i.val) = true then drawNext c.gen[i] else c.gen[i] }
  else c

/-- The draw of lane j in mode `m`. -/
def State.drawOf (s : State) (m : BitVec 3) (j : BitVec 4) : BitVec 16 :=
  if m = 5 then (drawNext (getV s.ctx.gen j)).extractLsb' 16 16 else 0

/-- The rounding mode of a pending `rnd`, else RNE (R31, R49). -/
def State.rm (s : State) : BitVec 3 :=
  match s.ctx.chain.rnd with
  | some p => p.extractLsb' 22 3
  | none => 0

/-! ## Tiles and the press -/

/-- No tile of another context waits to be saved lazily: every shaped and dirty tile is the issuing context's (R356). -/
def State.NoCopies (s : State) : Prop :=
  ∀ t : BitVec 3, (s.cur.shape t).extractLsb' 0 7 ≠ 0 → (s.cur.shape t).getLsbD 20 = true →
    (s.cur.shape t).extractLsb' 16 4 = s.who

/-- The pipe reads the save header of tile n of the issuing context, and no image of it is pending (R252, R356). -/
def State.NoImage (s : State) (n : BitVec 3) : Prop :=
  s.headerPort s.focus s.who n = .open_ ∧ (s.saveHeader s.focus s.who n).getLsbD 62 = false

/-- The issuing context has shaped tile n within the ranges of R21 and nothing is to be copied first (R324, R356). -/
def State.OwnTile (s : State) (n : BitVec 3) : Prop :=
  s.NoCopies ∧ s.NoImage n ∧ (s.cur.shape n).extractLsb' 16 4 = s.who ∧
    1 ≤ ((s.cur.shape n).extractLsb' 0 7).toNat ∧ ((s.cur.shape n).extractLsb' 0 7).toNat ≤ 64 ∧
    1 ≤ ((s.cur.shape n).extractLsb' 8 8).toNat ∧ ((s.cur.shape n).extractLsb' 8 8).toNat ≤ 128

/-- The column port of a core is open to the image and header of tile n of context x: no pause, hold or failed bus keeps a
copy out, nothing of the column is under migration, and no region of it is remapped (R249, R252, R303, R355). -/
def State.SaveAreaOpen (s : State) (cid : Nat) (x : BitVec 4) (n : BitVec 3) : Prop :=
  s.saveAreaPort cid x n = .open_ ∧ (s.core cid).splices = [] ∧ ∀ y, addrCore y = cid → s.place y = y

/-- The pool offset of element (r, c) of tile n of the issuing core (R325). -/
def State.cellAt (s : State) (n : BitVec 3) (r c : Nat) : Nat := s.cur.accuLo + 32768 * n.toNat + 512 * r + 4 * c

/-- Element (r, c) of tile n of the issuing core (R325). -/
def State.cell (s : State) (n : BitVec 3) (r c : Nat) : BitVec 32 :=
  BitVec.ofNat 32 (s.readLE (poolAddr s.focus (s.cellAt n r c)) 4)

/-- A tile write: in the shaped places that `p` holds of, the elements become `f r c`; every other byte of memory is as
it was; DIRTY is set and nothing else of any shape changes; the context goes on at its next word. -/
def State.FillsTile (s : State) (i : Instr) (n : BitVec 3) (p : Nat → Nat → Prop) (f : Nat → Nat → BitVec 32) : Prop :=
  let rows := ((s.cur.shape n).extractLsb' 0 7).toNat
  let cols := ((s.cur.shape n).extractLsb' 8 8).toNat
  ∃ t, exec i s = .next t ∧ (∀ r < rows, ∀ c < cols, p r c → t.cell n r c = f r c) ∧
    (∀ x, (∀ r < rows, ∀ c < cols, p r c → ∀ j < 4, s.place x ≠ poolAddr s.focus (s.cellAt n r c + j)) →
      t.readByte x = s.readByte x) ∧
    t.cur.shape n = s.cur.shape n ||| 0x100000 ∧ (∀ m, m ≠ n → t.cur.shape m = s.cur.shape m) ∧
    t.ctx = { s.ctx with chain := .empty, word := s.ctx.word + 1 } ∧ t.cur.partn = s.cur.partn ∧ t.chans = s.chans

/-! ## Engines -/

/-- Engine g of a core. -/
def State.eng (s : State) (cid : Nat) (g : BitVec 2) : Engine := getV (s.core cid).engines g

/-- The instruction completes with engine g of the issuing core become `e` and `f` done to the context; memory, channels,
messages and the core's other engines are as they were. -/
def State.SetsEngine (s : State) (i : Instr) (g : BitVec 2) (e : Engine) (f : Context → Context) : Prop :=
  ∃ t, exec i s = .next t ∧ t.eng s.focus g = e ∧ (∀ h, h ≠ g → t.eng s.focus h = s.eng s.focus h) ∧
    t.ctx = { f s.ctx with chain := .empty, word := s.ctx.word + 1 } ∧ t.mem = s.mem ∧ t.chans = s.chans ∧ t.net = s.net ∧
    t.focus = s.focus ∧ ∀ n, n ≠ s.who → t.ctxAt s.focus n = s.ctxAt s.focus n

/-- Engine g of a core may go on: its command is in state 2 or waits on a port, it has no end to report and no page to wait
for, its holder's region lets turns run, and what it acquires is visible (R210, R228). -/
def State.EngineGoes (s : State) (cid : Nat) (g : BitVec 2) : Prop :=
  ((s.eng cid g).st = .running ∨ (s.eng cid g).st = .waitPort) ∧ (s.eng cid g).ending = none ∧ (s.eng cid g).waitMiss = none ∧
    (s.eng cid g).acq = [] ∧ ∃ x, s.graph? (s.ctxAt cid ((s.eng cid g).holder.getD 0)).graph = some x ∧ x.st = .running


/-- The `z` bytes at `va` of a side of kind `k` of engine g's commands (0 the pool, 2 the core's column, 3 virtual addresses) lie at
wafer address `addr`, in one piece of 256 KiB that no splice sends on, and the ports let them through (R215, R229, R303). -/
def State.EngineAt (s : State) (cid : Nat) (g : BitVec 2) (k va z : Nat) (wr : Bool) (addr : Nat) : Prop :=
  k = 0 ∧ (s.core cid).scratchLo ≤ va ∧ va + z ≤ (s.core cid).scratchHi ∧ addr = poolAddr cid va ∨
  (k = 2 ∨ k = 3) ∧ va % 2 ^ 18 + z ≤ 2 ^ 18 ∧ s.spliceAt addr = none ∧ s.rejected addr z = false ∧
    s.reachable cid addr z = .open_ ∧
    (k = 2 → va + z ≤ 2 ^ 26 ∧ addr = cid * 2 ^ 26 + va) ∧
    (k = 3 → va < 2 ^ 54 ∧ s.xlate cid (s.ctxAt cid ((s.eng cid g).holder.getD 0)).graph va (!wr) wr = .ok addr ∧
      (addrPool addr = true → addrCore addr / 16 = cid / 16))

/-! ## Channels -/

/-- Channel n became `c`; every other channel, memory, the messages in flight and the graphs are as they were. -/
def State.ChanBecomes (s t : State) (n : Nat) (c : Channel) : Prop :=
  t.chans[n]? = some c ∧ (∀ m, m ≠ n → t.chans[m]? = s.chans[m]?) ∧ t.mem = s.mem ∧ t.net = s.net ∧ t.graphs = s.graphs ∧
    t.focus = s.focus

/-- Exactly one bound port of the context is an end of channel n. -/
def State.Alone (s : State) (c : Context) (n : Nat) : Prop :=
  ((s.inputs_ c ++ s.outputs_ c).countP fun x => x.2.1 == n) = 1


/-! ## Requests -/

/-- A request ends: STATUS and OP, BUSY clear, LOST as it was (R264). -/
def State.Ended (s t : State) (op : BitVec 8) (status : BitVec 7) : Prop :=
  t.module.reqstat.extractLsb' 0 7 = status ∧ t.module.reqstat.getLsbD 7 = false ∧ t.module.reqstat.extractLsb' 8 8 = op ∧
    t.module.reqstat.getLsbD 16 = s.module.reqstat.getLsbD 16

/-- A request that does nothing but end: nothing but REQSTAT changes, and vector 1 is signalled (R263). -/
def State.Refuses (s : State) (i : Instr) (op : BitVec 8) (status : BitVec 7) : Prop :=
  ∃ t, exec i s = .next t ∧ s.Ended t op status ∧ t = { s with module := { s.module with
    reqstat := t.module.reqstat, signals := (s.module.signals.1, s.module.signals.2 + 1) } }

/-- A request that ends with STATUS 0x00 and leaves graph `g` as `x`. -/
def State.Leaves (s : State) (i : Instr) (op : BitVec 8) (g : BitVec 16) (p : State → Graph → Prop) : Prop :=
  ∃ t x, exec i s = .next t ∧ s.Ended t op 0 ∧ t.graph? g = some x ∧ p t x


/-! ## The management port -/

/-- The reply record to a command record: status and payload (R273). -/
def replyRecord (r : CommandRecord) (status : BitVec 8) (payload : List Byte) : List Byte :=
  [0x49, 0x4B, 0x4D, 0x52, 1, r.cmd, status, 0] ++ leBytes 8 r.seq.toNat ++ leBytes 4 payload.length ++ payload

/-- The command completes with the status: the reply record is given, the record's SEQ is the greatest its key has used, and
`p` holds of the state after it. -/
def State.Commands (s : State) (i : Instr) (r : CommandRecord) (status : BitVec 8) (p : State → Prop) : Prop :=
  ∃ t, exec i s = .next t ∧ t.module.reply = replyRecord r status [] ∧ assocGet t.module.seqs r.key.toNat = some r.seq.toNat ∧ p t

/-- The same, where the module's record becomes what `f` makes of it, and nothing else changes. -/
def State.Sets (s : State) (i : Instr) (r : CommandRecord) (status : BitVec 8) (f : Module → Module) : Prop :=
  exec i s = .next { s with module := { f { s.module with
    seqs := assocSet s.module.seqs r.key.toNat r.seq.toNat } with reply := replyRecord r status [] } }

/-- A record is answered, and nothing else changes. -/
def State.Answers (s : State) (i : Instr) (r : CommandRecord) (status : BitVec 8) (payload : List Byte) : Prop :=
  exec i s = .next { s with module := { s.module with reply := replyRecord r status payload } }

/-- Every region of the machine is halted. -/
def State.AllHalted (t : State) : Prop := ∀ x ∈ t.graphs, x.st = .halted ∨ x.st = .unloaded

end Sys2Proof.Machine
end

