-- ==== Sys2Proof/Certificates/Slice0/Obligations.lean ====
section
/-!
DEFINITION. Sys2Proof/Certificates/Slice0/Obligations.lean: the statements for the provers. A statement of what an
instruction does has as its conclusion the next state that `exec` answers, for every state and operands that meet its
hypotheses.
-/

open Sys2Proof Sys2Proof.Machine

/-! ## Integer instructions -/

/-- R43, majors 0x00, 0x01 and 0x03 beside the divisions: with every source full, s[d] takes the result of the table,
s[a] and s[b] read as the numbers the table names, and nothing else changes; the full products go to s[d] and s[d+1] for
every d that the form takes (1 to 30), both sources read first.
R46, R47: the immediate forms. The immediate is imm15, or HI:imm15 where an `ext` prefix is pending, sign-extended
(for `liu` zero-extended); the shifts take imm<5:0> and no prefix. -/
def Obligations.IntegerAndImmediateForms : Prop :=
  (∀ (s : State) (d a b c : Reg) (w : Bool), s.Full [a, b] →
     let x := s.ctx.readS a
     let y := s.ctx.readS b
     let n := y.toNat % 64
     s.WritesS (.add d a b w) d (BitVec.ofNat 64 (x.toNat + y.toNat)) ∧
     s.WritesS (.sub d a b w) d (BitVec.ofInt 64 (x.toNat - y.toNat)) ∧
     s.WritesS (.and d a b w) d (x &&& y) ∧
     s.WritesS (.or d a b w) d (x ||| y) ∧
     s.WritesS (.xor d a b w) d (x ^^^ y) ∧
     s.WritesS (.andn d a b w) d (x &&& ~~~y) ∧
     s.WritesS (.orn d a b w) d (x ||| ~~~y) ∧
     s.WritesS (.xnor d a b w) d (~~~(x ^^^ y)) ∧
     s.WritesS (.sll d a b w) d (BitVec.ofNat 64 (x.toNat * 2 ^ n)) ∧
     s.WritesS (.srl d a b w) d (BitVec.ofNat 64 (x.toNat / 2 ^ n)) ∧
     s.WritesS (.sra d a b w) d (BitVec.ofInt 64 (x.toInt / 2 ^ n)) ∧
     s.WritesS (.rol d a b w) d (BitVec.ofNat 64 (x.toNat * 2 ^ n + x.toNat / 2 ^ (64 - n))) ∧
     s.WritesS (.ror d a b w) d (BitVec.ofNat 64 (x.toNat / 2 ^ n + x.toNat * 2 ^ (64 - n))) ∧
     s.WritesS (.mul d a b w) d (BitVec.ofNat 64 (x.toNat * y.toNat)) ∧
     s.WritesS (.min d a b w) d (if x.toInt < y.toInt then x else y) ∧
     s.WritesS (.max d a b w) d (if x.toInt < y.toInt then y else x) ∧
     s.WritesS (.minu d a b w) d (if x.toNat < y.toNat then x else y) ∧
     s.WritesS (.maxu d a b w) d (if x.toNat < y.toNat then y else x) ∧
     s.WritesS (.seq d a b w) d (if x = y then 1 else 0) ∧
     s.WritesS (.sne d a b w) d (if x = y then 0 else 1) ∧
     s.WritesS (.slt d a b w) d (if x.toInt < y.toInt then 1 else 0) ∧
     s.WritesS (.sge d a b w) d (if x.toInt ≥ y.toInt then 1 else 0) ∧
     s.WritesS (.sltu d a b w) d (if x.toNat < y.toNat then 1 else 0) ∧
     s.WritesS (.sgeu d a b w) d (if x.toNat ≥ y.toNat then 1 else 0) ∧
     (s.Full [c] → s.WritesS (.sel d a b c w) d (if s.ctx.readS c ≠ 0 then x else y)) ∧
     (1 ≤ d.toNat → d.toNat ≤ 30 →
       s.WritesPair (.mulpS d a b w) d (BitVec.ofInt 64 (x.toInt * y.toInt)) (BitVec.ofInt 64 (x.toInt * y.toInt / 2 ^ 64)) ∧
       s.WritesPair (.mulpU d a b w) d (BitVec.ofNat 64 (x.toNat * y.toNat)) (BitVec.ofNat 64 (x.toNat * y.toNat / 2 ^ 64)) ∧
       s.WritesPair (.mulpSu d a b w) d (BitVec.ofInt 64 (x.toInt * y.toNat))
         (BitVec.ofInt 64 (x.toInt * y.toNat / 2 ^ 64)))) ∧
  (∀ (s : State) (d a : Reg) (imm : BitVec 15) (n : BitVec 6) (w : Bool), s.Full [a] →
     let x := s.ctx.readS a
     let v : Int := match s.ctx.chain.ext with
       | none => imm.toInt
       | some hi => hi.toInt * 2 ^ 15 + imm.toNat
     let u : Nat := match s.ctx.chain.ext with
       | none => imm.toNat
       | some hi => hi.toNat * 2 ^ 15 + imm.toNat
     s.WritesS (.addi w d a imm) d (BitVec.ofInt 64 (x.toInt + v)) ∧
     s.WritesS (.andi w d a imm) d (x &&& BitVec.ofInt 64 v) ∧
     s.WritesS (.ori w d a imm) d (x ||| BitVec.ofInt 64 v) ∧
     s.WritesS (.xori w d a imm) d (x ^^^ BitVec.ofInt 64 v) ∧
     s.WritesS (.slti w d a imm) d (if x.toInt < v then 1 else 0) ∧
     s.WritesS (.sltiu w d a imm) d (if (x.toNat : Int) < v % 2 ^ 64 then 1 else 0) ∧
     s.WritesS (.slli w d a n) d (BitVec.ofNat 64 (x.toNat * 2 ^ n.toNat)) ∧
     s.WritesS (.srli w d a n) d (BitVec.ofNat 64 (x.toNat / 2 ^ n.toNat)) ∧
     s.WritesS (.srai w d a n) d (BitVec.ofInt 64 (x.toInt / 2 ^ n.toNat)) ∧
     s.WritesS (.li d imm) d (BitVec.ofInt 64 v) ∧
     s.WritesS (.liu d imm) d (BitVec.ofNat 64 u))

/-- R44: every division form, for every d that it takes (1 to 30), completes with a quotient q in s[d] and a remainder r in
s[d+1] with q times s[b] plus r equal to s[a] modulo 2^64. A division by zero gives 0 and s[a], the signed overflow -2^63
and 0; in every other case q times s[b] plus r is s[a] as numbers, r is smaller in magnitude than s[b], and its sign is that
of s[a] (`divqS`) or of s[b] (`divqF`), which fixes both. -/
def Obligations.Divisions : Prop :=
  ∀ (s : State) (d a b : Reg) (w : Bool), s.Full [a, b] → 1 ≤ d.toNat → d.toNat ≤ 30 →
    let x := s.ctx.readS a
    let y := s.ctx.readS b
    let past := x = 0x8000000000000000 ∧ y = 0xFFFFFFFFFFFFFFFF
    let gives := fun (i : Instr) (q r : Word) => s.WritesPair i d q r ∧ q * y + r = x
    let signed := fun (i : Instr) (sign : Int → Prop) =>
      (y = 0 → gives i 0 x) ∧ (past → gives i 0x8000000000000000 0) ∧
      (y ≠ 0 → ¬ past → ∃ q r : Word, gives i q r ∧ q.toInt * y.toInt + r.toInt = x.toInt ∧
        r.toInt.natAbs < y.toInt.natAbs ∧ (r.toInt ≠ 0 → sign r.toInt))
    signed (.divqS d a b w) (fun r => r < 0 ↔ x.toInt < 0) ∧
    signed (.divqF d a b w) (fun r => r < 0 ↔ y.toInt < 0) ∧
    (y = 0 → gives (.divqU d a b w) 0 x) ∧
    (y ≠ 0 → ∃ q r : Word, gives (.divqU d a b w) q r ∧ q.toNat * y.toNat + r.toNat = x.toNat ∧ r.toNat < y.toNat)

/-- R43, R45, major 0x02, each form said bit by bit. With pos and L taken from s[b], `bfx` and `bfxu` write the field of
s[a] sign- and zero-extended, and `bfi` writes s[d] with that field replaced by the low bits of s[a]; the counting and
reordering forms read s[a]. -/
def Obligations.BitForms : Prop :=
  ∀ (s : State) (d a b : Reg) (w : Bool), s.Full [d, a, b] →
    let x := s.ctx.readS a
    let pos := (s.ctx.readS b).toNat % 64
    let len := min ((s.ctx.readS b).toNat / 256 % 128) (64 - pos)
    (∃ y : Word, s.WritesS (.bfxu d a b w) d y ∧
      ∀ j < 64, y.getLsbD j = (decide (j < len) && x.getLsbD (pos + j))) ∧
    (∃ y : Word, s.WritesS (.bfx d a b w) d y ∧
      ∀ j < 64, y.getLsbD j = if j < len then x.getLsbD (pos + j) else decide (0 < len) && x.getLsbD (pos + len - 1)) ∧
    (∃ y : Word, s.WritesS (.bfi d a b w) d y ∧
      ∀ j < 64, y.getLsbD j = if pos ≤ j ∧ j < pos + len then x.getLsbD (j - pos) else (s.ctx.readS d).getLsbD j) ∧
    (∃ n ≤ 64, s.WritesS (.clz d a w) d (BitVec.ofNat 64 n) ∧ (∀ j < n, x.getMsbD j = false) ∧
      (n < 64 → x.getMsbD n = true)) ∧
    (∃ n ≤ 64, s.WritesS (.ctz d a w) d (BitVec.ofNat 64 n) ∧ (∀ j < n, x.getLsbD j = false) ∧
      (n < 64 → x.getLsbD n = true)) ∧
    s.WritesS (.popc d a w) d (BitVec.ofNat 64 ((List.range 64).countP fun j => x.getLsbD j)) ∧
    (∃ y : Word, s.WritesS (.brev d a w) d y ∧ ∀ j < 64, y.getLsbD j = x.getLsbD (63 - j)) ∧
    (∃ y : Word, s.WritesS (.bswap d a w) d y ∧ ∀ j < 8, y.extractLsb' (8 * j) 8 = x.extractLsb' (8 * (7 - j)) 8)

/-- R8, R9, R64: what a write to s[d] is: s[d] reads back the value and is full, every other scalar register keeps its
value and its full/empty bit, and a write to s0 is discarded.
R10, R65: a scalar instruction with an empty source parks on its sources if its wait bit is set, giving up the core
with its word to be issued again, and else raises the empty-register trap that names the empty source with the lowest
number. -/
def Obligations.ScalarRegisters : Prop :=
  (∀ (c : Context) (d r : Reg) (x : Word),
     c.readS 0 = 0 ∧ c.isFull 0 = true ∧ c.writeS 0 x = c ∧
     (d ≠ 0 → (c.writeS d x).readS d = x ∧ (c.writeS d x).isFull d = true) ∧
     (r ≠ d → (c.writeS d x).readS r = c.readS r ∧ (c.writeS d x).isFull r = c.isFull r)) ∧
  (∀ (s : State) (i : Instr) (w : Bool) (rs : List Reg) (r : Reg), scalarSources i = some (w, rs) → s.FirstEmpty rs r →
     (w = false → s.Traps i 0x08 (r.setWidth 8) 0 0) ∧
     (w = true → ∃ t, exec i s = .next t ∧ t.cur.turn = false ∧ t.ctx.park = .regs rs ∧ t.ctx.s = s.ctx.s ∧
       t.ctx.full = s.ctx.full ∧ t.ctx.status = s.ctx.status ∧ t.ctx.cause = s.ctx.cause ∧ t.ctx.epc = s.ctx.epc ∧
       t.ctx.word = BitVec.ofNat 7 s.ctx.first ∧ t.ctx.chain = .empty ∧ t.mem = s.mem ∧ t.chans = s.chans))

/-- The frame of majors 0x00 to 0x14: whatever such an instruction answers, every byte of memory, every channel, every
message in flight and everything else outside the cores is as before, and so are every other core, every other context of the
core, and the core's own registers, engines, accumulators, queues and tables, all but its turn and its event counters; an
unhandled trap alone halts the region, which takes its press commands from every core and is reported. -/
def Obligations.RegisterOnlyFrame : Prop :=
  ∀ (s t : State) (i : Instr), registerOnly i = true → exec i s = .next t →
    let halt := fun k : Core => { k with
      pressQ := k.pressQ.filter fun p => !(p.graph == s.ctx.graph && p.phase != .committing)
      held := k.held.filter fun p => p.graph != s.ctx.graph }
    (∀ a, t.readByte a = s.readByte a) ∧
    t = { s with cores := t.cores, graphs := t.graphs, module := t.module } ∧
    (t.graphs = s.graphs ∧ t.module = s.module ∨ t.ctx.stopped = true ∧ t.cur.turn = false) ∧
    (∀ n, n ≠ s.who → t.ctxAt s.focus n = s.ctxAt s.focus n) ∧
    (∀ k, k ≠ s.focus → t.core k = s.core k ∨ t.ctx.stopped = true ∧ t.core k = halt (s.core k)) ∧
    (∃ k, (k = s.cur ∨ t.ctx.stopped = true ∧ k = halt s.cur) ∧
      t.cur = { k with ctxs := t.cur.ctxs, turn := t.cur.turn, counters := t.cur.counters }) ∧
    t.ctx.seq = s.ctx.seq ∧ t.ctx.ctxid = s.ctx.ctxid ∧ t.ctx.v = s.ctx.v ∧ t.ctx.k = s.ctx.k ∧ t.ctx.e = s.ctx.e ∧
    t.ctx.prec = s.ctx.prec ∧ t.ctx.tvec = s.ctx.tvec ∧ t.ctx.consRem = s.ctx.consRem ∧ t.ctx.prodRem = s.ctx.prodRem

/-! ## Scale registers and rounding -/

/-- R48, R49: major 0x14. `m` is the mode a pending `rnd` names, else RNE (for `fcvt.s.f` RTZ); STO draws from lane 0, which
`drawFor` says; the exact result is rounded once. Moves copy bits. A compare that meets a NaN writes 0; `fmin` and `fmax`
order -0 below +0, return the other operand beside one NaN and 0x7FC0_0000 for two. No form has another effect. -/
def Obligations.ScaleForms : Prop :=
  ∀ (s : State) (d a b c : Reg) (w : Bool),
    let p := s.ctx.readF a
    let q := s.ctx.readF b
    let x := f32 p
    let y := f32 q
    let nan := x = .nan ∨ y = .nan
    let m := match s.ctx.chain.rnd with
      | some p => p.extractLsb' 22 3
      | none => 0
    let rounds := fun (i : Instr) (r : ExNum) =>
      s.Does i fun k => (k.drawFor m 0).2.writeF d (toF32 m (k.drawFor m 0).1 r)
    rounds (.fadd d a b) (ExNum.add (m == 3) x y) ∧
    rounds (.fsub d a b) (ExNum.add (m == 3) x (ExNum.neg y)) ∧
    rounds (.fmul d a b) (ExNum.mul x y) ∧
    rounds (.ffma d a b c) (ExNum.add (m == 3) (ExNum.mul x y) (f32 (s.ctx.readF c))) ∧
    (s.Full [a] → rounds (.fcvtFS d a w) (ExNum.ofInt (s.ctx.readS a).toInt)) ∧
    (let m' := match s.ctx.chain.rnd with
      | some p => p.extractLsb' 22 3
      | none => 1
     s.Does (.fcvtSF d a) fun k => (k.drawFor m' 0).2.writeS d (BitVec.ofInt 64 (match x with
      | .nan => 0
      | .inf neg => if neg then -2 ^ 63 else 2 ^ 63 - 1
      | .fin neg man e => max (-2 ^ 63) (min (2 ^ 63 - 1) (roundInt m' (k.drawFor m' 0).1 neg man e))))) ∧
    s.Does (.fneg d a) (fun k => k.writeF d (~~~(s.ctx.readF a).extractLsb' 31 1 ++ (s.ctx.readF a).extractLsb' 0 31)) ∧
    s.Does (.fabs d a) (fun k => k.writeF d (0#1 ++ (s.ctx.readF a).extractLsb' 0 31)) ∧
    s.Does (.fmov d a) (fun k => k.writeF d (s.ctx.readF a)) ∧
    s.WritesS (.fmvSF d a) d (BitVec.ofNat 64 (s.ctx.readF a).toNat) ∧
    (s.Full [a] → s.Does (.fmvFS d a w) fun k => k.writeF d ((s.ctx.readS a).extractLsb' 0 32)) ∧
    s.WritesS (.feq d a b) d (if ¬ nan ∧ ExNum.cmp x y = 0 then 1 else 0) ∧
    s.WritesS (.flt d a b) d (if ¬ nan ∧ ExNum.cmp x y = -1 then 1 else 0) ∧
    s.WritesS (.fle d a b) d (if ¬ nan ∧ (ExNum.cmp x y = -1 ∨ ExNum.cmp x y = 0) then 1 else 0) ∧
    (∃ lo hi : BitVec 32, s.Does (.fmin d a b) (fun k => k.writeF d lo) ∧ s.Does (.fmax d a b) (fun k => k.writeF d hi) ∧
      (x = .nan → y = .nan → lo = 0x7FC00000 ∧ hi = 0x7FC00000) ∧
      (x = .nan → y ≠ .nan → lo = q ∧ hi = q) ∧ (x ≠ .nan → y = .nan → lo = p ∧ hi = p) ∧
      (¬ nan → (lo = p ∨ lo = q) ∧ (hi = p ∨ hi = q) ∧
        (ExNum.cmp x y = -1 → lo = p ∧ hi = q) ∧ (ExNum.cmp x y = 1 → lo = q ∧ hi = p)) ∧
      (p = 0x80000000 → q = 0 → lo = p ∧ hi = q) ∧ (p = 0 → q = 0x80000000 → lo = q ∧ hi = p))

/-- R114, R117: what a magnitude `man * 2 ^ exp` rounds to as a multiple of `2 ^ q`, in each mode; an exact value is
unchanged, nearest modes err by at most half a unit with the tie to even (RNE) or away (RNA), RTZ goes down, RUP and RDN
by the sign, and STO compares the first 16 discarded bits D and the bit T with the draw N.
R102, R103: reading an FP32 pattern and rounding the value to FP32 in any mode and with any draw gives the pattern
back, for every pattern that is not a NaN; every NaN pattern gives 0x7FC0_0000. -/
def Obligations.Rounding : Prop :=
  (∀ (mode : BitVec 3) (draw : BitVec 16) (neg : Bool) (man : Nat) (exp q : Int),
     (q ≤ exp → roundAt mode draw neg man exp q = man * 2 ^ (exp - q).toNat) ∧
     ∀ k : Nat, 0 < k → q = exp + k →
       let r := roundAt mode draw neg man exp q
       let lo := man / 2 ^ k
       let rest := man % 2 ^ k
       (rest = 0 → r = lo) ∧ (r = lo ∨ r = lo + 1) ∧
       (0 < rest →
         (mode = 0 → (2 * rest < 2 ^ k → r = lo) ∧ (2 ^ k < 2 * rest → r = lo + 1) ∧ (2 * rest = 2 ^ k → r % 2 = 0)) ∧
         (mode = 1 → r = lo) ∧
         (mode = 2 → r = if neg then lo else lo + 1) ∧
         (mode = 3 → r = if neg then lo + 1 else lo) ∧
         (mode = 4 → (2 * rest < 2 ^ k → r = lo) ∧ (2 ^ k ≤ 2 * rest → r = lo + 1)) ∧
         (mode = 5 →
           let dd := rest * 2 ^ 16 / 2 ^ k
           let t := rest * 2 ^ 16 % 2 ^ k ≠ 0
           r = if draw.toNat < dd ∨ (dd = draw.toNat ∧ t) then lo + 1 else lo))) ∧
  (∀ (x : BitVec 32) (mode : BitVec 3) (draw : BitVec 16),
     toF32 mode draw (f32 x) =
       if (x.extractLsb' 23 8 = 0xFF ∧ x.extractLsb' 0 23 ≠ 0) then 0x7FC00000 else x)

/-! ## Control flow and traps -/

/-- R50, R51, R52: branches inside a block. A branch taken issues word `target` next; one not taken issues the next word
in sequence, or raises the fall-through trap where it stands in the last word; `loop` counts s[a] down modulo 2^64 and
branches while it is not 0, and writes no counter when it traps; the prediction bit has no effect. The FADDR of the trap, the
index of the word, is the model's reading (log entry 69). -/
def Obligations.Branches : Prop :=
  ∀ (s : State) (a b : Reg) (cond : BitVec 3) (target : BitVec 6) (w p : Bool),
    let x := s.ctx.readS a
    let y := s.ctx.readS b
    let last := s.ctx.word.toNat + 1 = wordCount s.runHeader
    let holds := match cond.toNat with
      | 0 => x = y
      | 1 => x ≠ y
      | 2 => x.toInt < y.toInt
      | 3 => x.toInt ≥ y.toInt
      | 4 => x.toNat < y.toNat
      | 5 => x.toNat ≥ y.toNat
      | 6 => x &&& y ≠ 0
      | _ => x &&& y = 0
    let less := s.ctx.writeS a (x - 1)
    s.GoesTo (.jmp target p) s.ctx (target.setWidth 7) ∧
    (s.Full [a, b] →
      (holds → s.GoesTo (.bCond a b cond target w p) s.ctx (target.setWidth 7)) ∧
      (¬ holds → ¬ last → s.GoesTo (.bCond a b cond target w p) s.ctx (s.ctx.word + 1)) ∧
      (¬ holds → last → s.Traps (.bCond a b cond target w p) 0x01 0 0x08 (BitVec.ofNat 64 s.ctx.word.toNat))) ∧
    (s.Full [a] →
      (x ≠ 1 → s.GoesTo (.loop a target w p) less (target.setWidth 7)) ∧
      (x = 1 → ¬ last → s.GoesTo (.loop a target w p) less (s.ctx.word + 1)) ∧
      (x = 1 → last → s.Traps (.loop a target w p) 0x01 0 0x08 (BitVec.ofNat 64 s.ctx.word.toNat)))

/-- R53, R54, R55: control between blocks. `next` and `call` go to word 0 of the handler the immediate names (with an
`ext` prefix HI:imm15), `call` with the link word in s[d]; `ret` goes to the block and word of the link in s[a]; each
raises the illegal-instruction trap with DETAIL 0x0C where there is no such handler or word, with the FADDR of R55. Where the
entered block fails the header checks of R25, control is there and the trap of the check is raised: DETAIL 0x0A, or precision
window with DETAIL 0x02 where its WIN is too small for P (R386). -/
def Obligations.BlockTransfers : Prop :=
  ∀ (s : State) (d a : Reg) (imm : BitVec 15) (w : Bool),
    let n : Nat := match s.ctx.chain.ext with
      | none => imm.toNat
      | some hi => hi.toNat * 2 ^ 15 + imm.toNat
    let h := BitVec.ofNat 16 n
    let link := BitVec.ofNat 64 (s.ctx.handler.toNat * 2 ^ 7 + (s.ctx.word + 1).toNat)
    (n < 65536 → ∀ hd, s.Enterable h hd 0 →
      s.GoesTo (.next imm) { s.ctx with handler := h } 0 ∧
      s.GoesTo (.call d imm) { s.ctx.writeS d link with handler := h } 0) ∧
    (n < 65536 → ∀ hd, s.header s.focus s.ctx h = some hd →
      s.EntryTraps (.next imm) s.ctx h hd 0 ∧ s.EntryTraps (.call d imm) (s.ctx.writeS d link) h hd 0) ∧
    ((65536 ≤ n ∨ s.ctx.blockAt h = none) →
      s.Traps (.next imm) 0x01 0 0x0C (BitVec.ofNat 64 (n * 2 ^ 7)) ∧
      s.Traps (.call d imm) 0x01 0 0x0C (BitVec.ofNat 64 (n * 2 ^ 7))) ∧
    (s.Full [a] →
      let x := s.ctx.readS a
      let g : BitVec 16 := x.extractLsb' 7 16
      let i := (x.extractLsb' 0 7).toNat
      (∀ hd, x.toNat < 2 ^ 23 → s.Enterable g hd i → i < wordCount hd →
        s.GoesTo (.ret a w) { s.ctx with handler := g } (BitVec.ofNat 7 i)) ∧
      (∀ hd, x.toNat < 2 ^ 23 → s.header s.focus s.ctx g = some hd → i < wordCount hd → s.EntryTraps (.ret a w) s.ctx g hd i) ∧
      ((2 ^ 23 ≤ x.toNat ∨ s.ctx.blockAt g = none ∨ ∃ hd, s.header s.focus s.ctx g = some hd ∧ wordCount hd ≤ i) →
        s.Traps (.ret a w) 0x01 0 0x0C x))

/-- R18, R70: a handled trap that can be delivered. CAUSE, FADDR and EPC take the fields of the tables, INTRAP is set,
word 0 of TVEC.HANDLER is next; the task keeps every register, its firing and its counts, and memory and channels stay.
R19, R70: a handled trap that cannot be delivered. The context stops and its turn ends, its graph region halts and
its press commands go, but one whose commit has begun (R352), the log gains the machine check "unhandled trap" with what CAUSE and FADDR would have held, and
CAUSE, FADDR and EPC keep their values.
R70: `tret`. Outside the trap handler it is illegal; inside it goes to EPC.HANDLER and EPC.WORD with INTRAP clear
and CAUSE and FADDR kept, or raises DETAIL 0x0C where there is no such word; that INTRAP is clear before the header checks of R25
is the model's choice (log entry 88). -/
def Obligations.Traps : Prop :=
  (∀ (s : State) (code operand detail : BitVec 8) (addr : Word), s.ctx.inTrap = false → s.TrapReady →
     let t := s.trap code operand detail addr
     let w := s.ctx.first
     t.ctx = { s.ctx with
       cause := BitVec.ofNat 64 (operand.toNat * 2 ^ 16 + detail.toNat * 2 ^ 8 + code.toNat)
       faddr := addr
       epc := ((s.blockWord s.focus s.ctx s.ctx.handler w).getD 0 ++ s.ctx.handler ++ BitVec.ofNat 16 w : BitVec 64)
       status := s.ctx.status ||| 1
       handler := s.ctx.tvec.extractLsb' 0 16
       word := 0
       chain := .empty } ∧
     t.cur.turn = s.cur.turn ∧ t.mem = s.mem ∧ t.chans = s.chans ∧ t.net = s.net ∧ t.graphs = s.graphs ∧
     t.module = s.module) ∧
  (∀ (s : State) (code operand detail : BitVec 8) (addr : Word), s.ctx.inTrap = true ∨ ¬ s.TrapReady →
     let t := s.trap code operand detail addr
     let g := s.ctx.graph
     t.ctx.stopped = true ∧ t.cur.turn = false ∧ t.ctx.cause = s.ctx.cause ∧ t.ctx.faddr = s.ctx.faddr ∧
     t.ctx.epc = s.ctx.epc ∧ t.ctx.status = s.ctx.status ∧ t.ctx.s = s.ctx.s ∧ t.mem = s.mem ∧ t.chans = s.chans ∧
     (∀ x ∈ s.graphs, x.num = g → x.st ≠ .unloaded → { x with st := .halted } ∈ t.graphs) ∧
     (∀ x ∈ t.graphs, x.num = g → x.st = .halted ∨ x.st = .unloaded) ∧
     (∀ k, ∀ p ∈ (t.core k).pressQ, p.graph = g → p.phase = .committing) ∧
     ∃ r, t.module.log.getLast? = some r ∧ r.cls = 1 ∧ r.kind = 0x01 ∧ r.detail = code ∧ r.graph = g ∧
       r.faddr = addr ∧ r.cause = BitVec.ofNat 64 (operand.toNat * 2 ^ 16 + detail.toNat * 2 ^ 8 + code.toNat) ∧
       r.core = BitVec.ofNat 16 s.focus ∧ r.epc = s.epcNow) ∧
  (∀ s : State,
     let h : BitVec 16 := s.ctx.epc.extractLsb' 16 16
     let i := (s.ctx.epc.extractLsb' 0 6).toNat
     (s.ctx.status.getLsbD 0 = false → s.Traps .tret 0x01 0 0x0D 0) ∧
     (s.ctx.status.getLsbD 0 = true →
       (∀ hd, s.Enterable h hd i → i < wordCount hd →
         s.GoesTo .tret { s.ctx with status := s.ctx.status &&& ~~~1, handler := h } (BitVec.ofNat 7 i)) ∧
       (∀ hd, s.header s.focus s.ctx h = some hd → i < wordCount hd →
         s.EntryTraps .tret { s.ctx with status := s.ctx.status &&& ~~~1 } h hd i) ∧
       ((s.ctx.blockAt h = none ∨ ∃ hd, s.header s.focus s.ctx h = some hd ∧ wordCount hd ≤ i) →
         s.Traps .tret 0x01 0 0x0C (BitVec.ofNat 64 (h.toNat * 2 ^ 7 + i)))))

/-- R56, R67, R68, R69: the forms of major 0x25 beside transfers: `nop` changes nothing, `trap` raises the software trap with
its code as FADDR, `evrd` reads a counter of the core, its cluster hub or its field, `yield` goes on at the next word
after giving up the turn with its firing and counts.
`barr` marks the core's arrival at a barrier bound on it, once however often, and raises port unbound at one that is not.
R57, R162: `done` ends the task and its firing: the turn ends, INTRAP and the counts are cleared, every register keeps its
value; what is left unread on an input (not an engine end) is discarded with its credits, and what is left unsent on an
output is sent as zero tokens with control code 0, behind what the context has sent. The `done` of an end firing then counts
the invocation as ended, puts one marker behind them on every output and takes the marker at the head of every static
input; it waits while an engine end among its outputs has no entry for the marker (the model's reading, log entry 26). -/
def Obligations.SystemAndDone : Prop :=
  (∀ (s : State) (d b : Reg) (n : BitVec 10),
     s.Does .nop id ∧
     s.Traps (.trap n) 0x0F 0 0 (BitVec.ofNat 64 n.toNat) ∧
     (∀ i : Fin 4, n.toNat = i → s.WritesS (.evrd d n) d (s.cur.counters[i].count.setWidth 64)) ∧
     (∀ i : Fin 8, n.toNat = 4 + i → s.WritesS (.evrd d n) d ((s.hub (s.focus / 16)).counters[i].count.setWidth 64)) ∧
     (∀ i : Fin 8, n.toNat = 12 + i → s.WritesS (.evrd d n) d ((s.field (s.focus / 1024)).counters[i].count.setWidth 64)) ∧
     (∃ t, exec .yield s = .next t ∧ t.cur.turn = false ∧
       t.ctx = { s.ctx with chain := .empty, word := s.ctx.word + 1 } ∧ t.mem = s.mem ∧ t.chans = s.chans) ∧
     (b.toNat ≤ 7 →
       let id : BitVec 3 := BitVec.ofNat 3 b.toNat
       ((∃ x ∈ s.barriers, x.bound = true ∧ x.ident = id ∧ s.focus ∈ x.members) →
         ∃ t, exec (.barr b) s = .next t ∧ getV t.cur.arrive id = true ∧
         (∀ j, j ≠ id → getV t.cur.arrive j = getV s.cur.arrive j) ∧
         t.ctx = { s.ctx with chain := .empty, word := s.ctx.word + 1 } ∧ t.barriers = s.barriers ∧ t.mem = s.mem ∧
         t.chans = s.chans) ∧
       ((∀ x ∈ s.barriers, x.bound = true → x.ident = id → s.focus ∉ x.members) →
         s.Traps (.barr b) 0x06 (BitVec.ofNat 8 b.toNat) 0x03 0))) ∧
  (∀ s : State,
     let last := s.ctx.endFiring = true
     (last → s.engineOutputsFull s.ctx = true → exec .done s = .next s) ∧
     ((last → s.engineOutputsFull s.ctx = false) →
     ∃ t, exec .done s = .next t ∧ t.cur.turn = false ∧ t.ctx.firing = false ∧ t.ctx.endFiring = false ∧
       t.ctx.status = s.ctx.status &&& ~~~1 ∧
       t.ctx.consRem = Vector.replicate 16 0 ∧ t.ctx.prodRem = Vector.replicate 16 0 ∧ t.ctx.s = s.ctx.s ∧
       t.ctx.full = s.ctx.full ∧ t.ctx.v = s.ctx.v ∧ t.ctx.e = s.ctx.e ∧ t.ctx.prec = s.ctx.prec ∧
       t.ctx.tvec = s.ctx.tvec ∧ t.ctx.gen = s.ctx.gen ∧ t.mem = s.mem ∧
       t.ctx.invocations = s.ctx.invocations + (if s.ctx.endFiring = true then 1 else 0) ∧
       (∀ (p : BitVec 4) (n : Nat) (ch : Channel), s.inChan s.ctx p = some (n, ch) → ch.deng = none →
         (∀ q m x, s.inChan s.ctx q = some (m, x) → m = n → q = p) →
         (∀ q m x, s.outChan s.ctx q = some (m, x) → m ≠ n) →
         let k := (getV s.ctx.consRem p).toNat
         let q := ch.queue.drop k
         let owed := ch.owed + min k ch.queue.length
         ∃ ch', t.chans[n]? = some ch' ∧
           (last ∧ ch.isStatic = true ∧ (∃ y rest, q = y :: rest ∧ y.code = 5) → ch'.queue = q.drop 1 ∧ ch'.owed = owed + 1) ∧
           (¬ last ∨ ch.isStatic = false ∨ q = [] ∨ (∃ y rest, q = y :: rest ∧ y.code ≠ 5) → ch'.queue = q ∧ ch'.owed = owed)) ∧
       (∀ (q : BitVec 4) (n : Nat) (ch : Channel), s.outChan s.ctx q = some (n, ch) → ch.seng = none →
         (∀ p m x, s.outChan s.ctx p = some (m, x) → m = n → p = q) →
         (∀ p m x, s.inChan s.ctx p = some (m, x) → m ≠ n) →
         ∃ ch' pend, t.chans[n]? = some ch' ∧
           ch'.held = ch.held ++ List.replicate (getV s.ctx.prodRem q).toNat ⟨⟨0, 0, 0⟩, pend, none⟩ ++
             (if s.ctx.endFiring = true then [⟨⟨0, 0, 5⟩, pend, none⟩] else []))))

/-! ## Control registers -/

/-- R13, R15, R66: `csrr` copies the present value of a control register to s[d] and changes nothing else: the context's
and the core's own registers, TFREE as the rows of the accumulator partition that no shaped tile occupies, the tile
shapes, and the views of the remap tables of the core's wafer, field by field (R240 to R244). -/
def Obligations.ControlRead : Prop :=
  ∀ (s : State) (d : Reg),
    let rd := fun (n : Nat) (x : Word) => s.WritesS (.csrr d (BitVec.ofNat 12 n)) d x
    let k := s.cur
    let t := (assocGet s.tables (s.focus / 65536)).getD Tables.perfect
    rd 0x000 s.ctx.status ∧ rd 0x001 s.ctx.prec ∧ rd 0x002 s.ctx.cause ∧ rd 0x003 s.ctx.faddr ∧ rd 0x004 s.ctx.epc ∧
    rd 0x005 s.ctx.ctxid ∧ rd 0x006 s.ctx.tvec ∧ rd 0x007 k.sqlim ∧ rd 0x008 s.ctx.rseed ∧ rd 0x00A k.partn ∧
    rd 0x00B s.ctx.pladder ∧ rd 0x00C s.ctx.pbudget ∧ rd 0x00D k.cycle ∧
    rd 0x009 (BitVec.ofNat 64 ((k.partn.extractLsb' 18 6).toNat * 32 - ((List.range 8).map fun n =>
      if (((k.shape (BitVec.ofNat 3 n)).extractLsb' 8 8).toNat = 0) then 0
      else ((k.shape (BitVec.ofNat 3 n)).extractLsb' 0 7).toNat).sum)) ∧
    (∀ n < 8, rd (0x010 + n) (k.shape (BitVec.ofNat 3 n))) ∧
    (∀ n < 64, rd (0x100 + n) (match (t.fields[n]?).join with
      | none => 0
      | some p => BitVec.ofNat 64 (256 + 8 * (p / 8) + p % 8))) ∧
    (∀ n < 64, ∃ x, rd (0x140 + n) x ∧
      ∀ c < 64, x.getLsbD c = (((t.fields[n]?).join).isSome && !t.outClusters.contains (n * 64 + c))) ∧
    (s.present s.focus = true → ∀ j < 2, ∃ x, rd (0x180 + j) x ∧ ∀ i < 8,
      x.extractLsb' (8 * i) 8 = if (s.focus / 16 % 4096, 8 * j + i) ∈ t.spares then 16 else BitVec.ofNat 8 (8 * j + i)) ∧
    (∀ j < 8, ∃ x, rd (0x182 + j) x ∧ ∀ h < 2,
      let y : BitVec 32 := x.extractLsb' (32 * h) 32
      match ((assocGet t.dram (s.focus % 65536)).getD [])[2 * j + h]? with
      | none => y = 0
      | some e => y.getLsbD 31 = true ∧ y.getLsbD 30 = e.nb ∧ y.extractLsb' 26 4 = (if e.nb = true then e.ncore else 0) ∧
        y.extractLsb' 20 6 = 0 ∧ y.extractLsb' 18 2 = e.slayer ∧ y.extractLsb' 16 2 = e.sreg ∧ y.extractLsb' 10 6 = 0 ∧
        y.extractLsb' 8 2 = e.layer ∧ y.extractLsb' 6 2 = 0 ∧ y.extractLsb' 0 6 = e.region) ∧
    (∀ n < 64, ∀ i < 2, ∃ x, rd (0x200 + 2 * n + i) x ∧ match ((assocGet t.detours n).getD [])[i]? with
      | none => x = 0
      | some e => x.extractLsb' 31 33 = 1 ∧ x.getLsbD 30 = e.xstep ∧ x.getLsbD 29 = e.ystep ∧ x.extractLsb' 24 5 = 0 ∧
        x.extractLsb' 18 6 = e.ydr ∧ x.extractLsb' 12 6 = e.xdr ∧ x.extractLsb' 6 6 = 0 ∧ x.extractLsb' 0 6 = e.cluster)

/-- R14, R17, R18, R19, R20: `csrw` of an accepted value of a writable context-scope register, or of SQLIM, writes its RW fields
and nothing else (TSHAPE0 to 7, the other writable registers of the core, are in `TileForms`); RSEED seeds the lane generators (R116); EPC.IWORD is ignored; in PREC a flag written 1 is cleared, and a new
P that the window holds rounds every elastic register where it is lower than the old (R367). -/
def Obligations.ControlWrite : Prop :=
  ∀ (s : State) (w : Bool) (a : Reg), s.Full [a] →
    let v := s.ctx.readS a
    let wr := fun (n : Nat) (f : Context → Context) => s.Does (.csrw w a (BitVec.ofNat 12 n)) f
    (v.toNat < 2 ^ 24 → wr 0x002 fun c => { c with cause := v }) ∧
    wr 0x003 (fun c => { c with faddr := v }) ∧
    (v.extractLsb' 6 10 = 0 → wr 0x004 fun c => { c with
      epc := (c.epc.extractLsb' 32 32 ++ v.extractLsb' 16 16 ++ (0 : BitVec 10) ++ v.extractLsb' 0 6 : BitVec 64) }) ∧
    (v.toNat < 2 ^ 17 → wr 0x006 fun c => { c with tvec := v }) ∧
    wr 0x008 (fun c => { c with rseed := v, gen := Vector.ofFn fun i =>
      let x := v.extractLsb' 32 32 ^^^ v.extractLsb' 0 32 ^^^ (0x9E3779B9 * BitVec.ofNat 32 (i.val + 1))
      if x = 0 then 1 else x }) ∧
    (v.toNat < 2 ^ 42 → ladderOk v = true → wr 0x00B fun c => { c with pladder := v }) ∧
    (v.toNat < 2 ^ 56 → wr 0x00C fun c => { c with pbudget := v }) ∧
    (v.toNat < 2 ^ 24 → (v.extractLsb' 0 8).toNat = s.ctx.precP → 2 ≤ s.ctx.precP → s.ctx.precP ≤ 241 →
      (v.extractLsb' 8 8).toNat < s.ctx.precP → (v.extractLsb' 17 3).toNat ≤ 5 →
      ∃ x : Word, wr 0x001 (fun c => { c with prec := x }) ∧ x.extractLsb' 0 20 = v.extractLsb' 0 20 ∧
        x.extractLsb' 20 4 = (s.ctx.prec.extractLsb' 20 4 &&& ~~~v.extractLsb' 20 4) ∧ x.extractLsb' 24 40 = 0) ∧
    (let p := (v.extractLsb' 0 8).toNat
     let rm : BitVec 3 := v.extractLsb' 17 3
     let words := (p + 78) / 64
     let win := (s.runHeader.extractLsb' 23 3).toNat
     let fits := (0 < win → words ≤ win) ∧ (win = 0 → 0 < s.ctx.window → words ≤ s.ctx.window)
     v.toNat < 2 ^ 24 → p ≠ s.ctx.precP → 2 ≤ p → p ≤ 241 → (v.extractLsb' 8 8).toNat < p → rm.toNat ≤ 5 → fits →
      let short := fun r : Reg => match (s.ctx.readE r).read with
        | .fin sg m e => if m = 0 then (s.ctx.readE r, (0 : BitVec 4)) else efRound p (if rm = 5 then 0 else rm) 0 (.fin sg m e)
        | _ => (s.ctx.readE r, 0)
      ∃ (x : Word) (y : Vector Ereg 32), wr 0x001 (fun c => { c with prec := x, e := y }) ∧
        x.extractLsb' 0 20 = v.extractLsb' 0 20 ∧ x.extractLsb' 24 40 = 0 ∧
        (∀ r : Reg, getV y r = if p < s.ctx.precP then (short r).1 else s.ctx.readE r) ∧
        ∀ j < 4, (x.getLsbD (20 + j) = true ↔ (s.ctx.prec.getLsbD (20 + j) = true ∧ v.getLsbD (20 + j) = false) ∨
          p < s.ctx.precP ∧ ∃ r, (short r).2.getLsbD j = true)) ∧
    (v.toNat < 2 ^ 13 → v.extractLsb' 5 3 = 0 → 1 ≤ (v.extractLsb' 0 5).toNat → (v.extractLsb' 0 5).toNat ≤ 16 →
      1 ≤ (v.extractLsb' 8 5).toNat → (v.extractLsb' 8 5).toNat ≤ 16 →
      ∃ t, exec (.csrw w a 0x007) s = .next t ∧ t.cur.sqlim = v ∧ t.cur.partn = s.cur.partn ∧
        t.ctx = { s.ctx with chain := .empty, word := s.ctx.word + 1 } ∧ t.mem = s.mem)

/-- R14, R17, R19, R20: `csrw` that breaks a rule raises the control-write trap and changes no register beside what the
trap entry writes: DETAIL 0x01 at a register whose fields are all RO, 0x02 at a nonzero reserved field, 0x03 at a value
out of range, 0x04 at the shape of a tile that a press command targets (R21). A P that needs more words than the running block's
WIN (with WIN = 0, the actor's window) gives raises the precision-window trap with the words and the P asked for.
R66: `csrw` writes s[a]; `csrx` writes the register's value with each bit where the mask s[d] holds 1 taken from
s[a], and in the W1C flags of PREC a 1 exactly where both hold 1. What a write of a value does is one operation for both
(R14 to R22). -/
def Obligations.ControlWriteRefusals : Prop :=
  (∀ (s : State) (w : Bool) (a : Reg), s.Full [a] →
     let v := s.ctx.readS a
     let no := fun (n : Nat) (detail : BitVec 8) => s.Traps (.csrw w a (BitVec.ofNat 12 n)) 0x0E 0 detail 0
     (∀ n, (n = 0x000 ∨ n = 0x005 ∨ n = 0x009 ∨ n = 0x00A ∨ n = 0x00D ∨ (0x100 ≤ n ∧ n ≤ 0x189) ∨
       (0x200 ≤ n ∧ n ≤ 0x27F)) → no n 0x01) ∧
     (2 ^ 24 ≤ v.toNat → no 0x001 0x02 ∧ no 0x002 0x02) ∧ (v.extractLsb' 6 10 ≠ 0 → no 0x004 0x02) ∧
     (2 ^ 17 ≤ v.toNat → no 0x006 0x02) ∧ (2 ^ 13 ≤ v.toNat ∨ v.extractLsb' 5 3 ≠ 0 → no 0x007 0x02) ∧
     (2 ^ 42 ≤ v.toNat → no 0x00B 0x02) ∧ (2 ^ 56 ≤ v.toNat → no 0x00C 0x02) ∧
     (v.toNat < 2 ^ 42 → ladderOk v = false → no 0x00B 0x03) ∧
     (v.toNat < 2 ^ 13 → v.extractLsb' 5 3 = 0 → (v.extractLsb' 0 5 = 0 ∨ 16 < (v.extractLsb' 0 5).toNat ∨
       v.extractLsb' 8 5 = 0 ∨ 16 < (v.extractLsb' 8 5).toNat) → no 0x007 0x03) ∧
     (v.toNat < 2 ^ 24 → ((v.extractLsb' 0 8).toNat < 2 ∨ 241 < (v.extractLsb' 0 8).toNat ∨
       (v.extractLsb' 0 8).toNat ≤ (v.extractLsb' 8 8).toNat ∨ 5 < (v.extractLsb' 17 3).toNat) → no 0x001 0x03) ∧
     (∀ n : BitVec 3, s.NoCopies → s.NoImage n →
       let rows := (v.extractLsb' 0 7).toNat
       let cols := (v.extractLsb' 8 8).toNat
       let clean := v.toNat < 2 ^ 21 ∧ v.getLsbD 7 = false
       let bad := (rows = 0 ↔ cols ≠ 0) ∨ 64 < rows ∨ 128 < cols ∨
         rows ≠ 0 ∧ (s.cur.partn.extractLsb' 18 6).toNat * 16384 < (n.toNat + 1) * 32768
       (¬ clean → no (0x010 + n.toNat) 0x02) ∧ (clean → bad → no (0x010 + n.toNat) 0x03) ∧
       (clean → ¬ bad → s.cur.tileBusy n = true → no (0x010 + n.toNat) 0x04)) ∧
     (∀ hd, s.header s.focus s.ctx s.ctx.handler = some hd →
       let p := (v.extractLsb' 0 8).toNat
       let words := (p + 15 + 63) / 64
       let win := (hd.extractLsb' 23 3).toNat
       v.toNat < 2 ^ 24 → 2 ≤ p → p ≤ 241 → (v.extractLsb' 8 8).toNat < p → (v.extractLsb' 17 3).toNat ≤ 5 →
       p ≠ s.ctx.precP → ((0 < win ∧ win < words) ∨ (win = 0 ∧ 0 < s.ctx.window ∧ s.ctx.window < words)) →
       s.Traps (.csrw w a 0x001) 0x0C (BitVec.ofNat 8 words) 0x01 (BitVec.ofNat 64 p))) ∧
  (∀ (s : State) (w : Bool) (d a : Reg) (n : BitVec 12),
     (s.Full [a] → exec (.csrw w a n) s = .next (s.csrWrite n (s.ctx.readS a))) ∧
     (s.Full [d, a] → ∃ v, exec (.csrx w d a n) s = .next (s.csrWrite n v) ∧
       ∀ j < 64, v.getLsbD j =
         if n = 1 ∧ 20 ≤ j ∧ j < 24 then (s.ctx.readS a).getLsbD j && (s.ctx.readS d).getLsbD j
         else if (s.ctx.readS d).getLsbD j then (s.ctx.readS a).getLsbD j else (s.readCsr n).getLsbD j))

/-! ## The pool -/

/-- R61: `ld`, and the traps of `ld` and `st`. An aligned load inside the scratchpad writes its little-endian number,
sign- or zero-extended as the size code says, to s[d] and touches nothing else. An access whose offset is not a multiple
of its size raises misaligned, and an aligned one that touches a byte outside the scratchpad pool bounds, with the base
register as OPERAND and the offset as FADDR. -/
def Obligations.PoolLoadAndTraps : Prop :=
  ∀ (s : State) (w : Bool) (d a : Reg) (z : BitVec 3) (y : BitVec 2) (off : BitVec 12), z ≠ 7 →
    let at_ := fun size : Nat => (((s.ctx.readS a).toInt + off.toInt * size) % 2 ^ 64).toNat
    let size := if z.toNat = 6 then 8 else 2 ^ (z.toNat / 2)
    let x := s.readLE (poolAddr s.focus (at_ size)) size
    let traps := fun (i : Instr) (n : Nat) =>
      (at_ n % n ≠ 0 → s.Traps i 0x03 (a.setWidth 8) 0 (BitVec.ofNat 64 (at_ n))) ∧
      (at_ n % n = 0 → (at_ n < s.cur.scratchLo ∨ s.cur.scratchHi < at_ n + n) →
        s.Traps i 0x04 (a.setWidth 8) 0 (BitVec.ofNat 64 (at_ n)))
    (s.Full [a] → at_ size % size = 0 → s.cur.scratchLo ≤ at_ size → at_ size + size ≤ s.cur.scratchHi →
      s.WritesS (.ld w d a z off) d (if z.toNat % 2 = 0 ∧ 2 ^ (8 * size) ≤ 2 * x
        then BitVec.ofInt 64 (x - 2 ^ (8 * size)) else BitVec.ofNat 64 x)) ∧
    (s.Full [a] → traps (.ld w d a z off) size) ∧ (s.Full [d, a] → traps (.st w d a y off) (2 ^ y.toNat))

/-- R61, R97: an aligned store inside the scratchpad writes the low bytes of s[d] at the computed offset, least
significant first, and leaves every other byte of every pool and column, and every register, as it was.
R61, R62: what `st.d` writes, `ld.d` from the same offset reads: with the store done and the base register as it
was, the load gives s[d] back. -/
def Obligations.PoolStores : Prop :=
  (∀ (s : State) (w : Bool) (d a : Reg) (z : BitVec 2) (off : BitVec 12), s.Full [d, a] → Memory.wf s.mem = true →
     s.focus < 2 ^ 21 →
     let size := 2 ^ z.toNat
     let at_ := (((s.ctx.readS a).toInt + off.toInt * size) % 2 ^ 64).toNat
     at_ % size = 0 → s.cur.scratchLo ≤ at_ → at_ + size ≤ s.cur.scratchHi →
     ∃ t, exec (.st w d a z off) s = .next t ∧
       (∀ i < size, t.readByte (poolAddr s.focus (at_ + i)) = (s.ctx.readS d).extractLsb' (8 * i) 8) ∧
       (∀ b, (∀ i < size, s.place b ≠ poolAddr s.focus (at_ + i)) → t.readByte b = s.readByte b) ∧
       t.ctx = { s.ctx with chain := .empty, word := s.ctx.word + 1 } ∧ t.chans = s.chans ∧ t.net = s.net ∧
       (∀ n, n ≠ s.who → t.ctxAt s.focus n = s.ctxAt s.focus n) ∧ Memory.wf t.mem = true) ∧
  (∀ (s t : State) (w : Bool) (d a r : Reg) (off : BitVec 12), s.Full [d, a] → Memory.wf s.mem = true →
     s.focus < 2 ^ 21 →
     let at_ := (((s.ctx.readS a).toInt + off.toInt * 8) % 2 ^ 64).toNat
     at_ % 8 = 0 → s.cur.scratchLo ≤ at_ → at_ + 8 ≤ s.cur.scratchHi → exec (.st w d a 3 off) s = .next t →
     t.WritesS (.ld w r a 6 off) r (s.ctx.readS d))

/-! ## Ports and full/empty bits -/

/-- R58, R59, R211: `pin` takes the head token of a bound word-plane port with count left: the payload to s[d], CCPORT and
CCODE and the count as the rule says, the credit owed to the source; `pout` and `poutc` send s[a] with their control code
behind what the context has sent on the channel, and take one from the count. Each raises port unbound (DETAIL 0x01; 0x02
at the other plane, 0x04 at an engine end) and port empty (0x01 for a read, 0x02 for a send) with the port as OPERAND.
R60, R63, R211: `pstat` and `qstat` write the port's status word, of an engine end as of any other, its reserved bits 0, HEAD and
HV 0 for an empty queue, and 0 for an unbound port; `fe.clr` and `fe.set` act on the
bit alone, and `fe.tst` reads the bit alone. That an engine end of the wrong plane gives 0x04, not 0x02, is the model's reading
(log entry 25). -/
def Obligations.Ports : Prop :=
  (∀ (s : State) (d a p : Reg) (code : BitVec 3) (w : Bool) (n : Nat) (ch : Channel), p.toNat < 16 →
     let port : BitVec 4 := BitVec.ofNat 4 p.toNat
     let op : BitVec 8 := BitVec.ofNat 8 p.toNat
     (s.inChan s.ctx port = some (n, ch) → ch.deng = none → ch.vec = false → getV s.ctx.consRem port ≠ 0 →
       ∀ tok rest, ch.queue = tok :: rest →
       ∃ t, exec (.pin d p) s = .next t ∧ t.chans[n]? = some { ch with queue := rest, owed := ch.owed + 1 } ∧
         t.ctx = { s.ctx.writeS d (tok.payload.extractLsb' 0 64) with
           status := (s.ctx.status.extractLsb' 8 56 ++ port ++ tok.code ++ s.ctx.status.extractLsb' 0 1 : BitVec 64)
           consRem := setV s.ctx.consRem port (getV s.ctx.consRem port - 1)
           chain := .empty
           word := s.ctx.word + 1 } ∧ t.mem = s.mem ∧ ∀ m, m ≠ n → t.chans[m]? = s.chans[m]?) ∧
     (s.outChan s.ctx port = some (n, ch) → ch.seng = none → ch.vec = false → getV s.ctx.prodRem port ≠ 0 → s.Full [a] →
       ∀ i k, (i = .pout p a w ∧ k = 0 ∨ i = .poutc p a code w ∧ k = code) →
       ∃ t, exec i s = .next t ∧ t.chans[n]? = some { ch with
           held := ch.held ++ [⟨⟨(s.ctx.readS a).setWidth 512, 0, k⟩, s.writesOf s.focus s.who, none⟩] } ∧
         t.ctx = { s.ctx with
           prodRem := setV s.ctx.prodRem port (getV s.ctx.prodRem port - 1)
           chain := .empty
           word := s.ctx.word + 1 } ∧ t.mem = s.mem ∧ ∀ m, m ≠ n → t.chans[m]? = s.chans[m]?) ∧
     (s.inChan s.ctx port = none → s.Traps (.pin d p) 0x06 op 0x01 0) ∧
     (∀ n ch, s.inChan s.ctx port = some (n, ch) →
       (ch.deng ≠ none → s.Traps (.pin d p) 0x06 op 0x04 0) ∧
       (ch.deng = none → ch.vec = true → s.Traps (.pin d p) 0x06 op 0x02 0) ∧
       (ch.deng = none → ch.vec = false → getV s.ctx.consRem port = 0 → s.Traps (.pin d p) 0x05 op 0x01 0)) ∧
     (s.Full [a] → ∀ i, (i = .pout p a w ∨ i = .poutc p a code w) →
       (s.outChan s.ctx port = none → s.Traps i 0x06 op 0x01 0) ∧
       (∀ n ch, s.outChan s.ctx port = some (n, ch) →
         (ch.seng ≠ none → s.Traps i 0x06 op 0x04 0) ∧
         (ch.seng = none → ch.vec = true → s.Traps i 0x06 op 0x02 0) ∧
         (ch.seng = none → ch.vec = false → getV s.ctx.prodRem port = 0 → s.Traps i 0x05 op 0x02 0)))) ∧
  (∀ (s : State) (d a p : Reg), p.toNat < 16 →
     let port : BitVec 4 := BitVec.ofNat 4 p.toNat
     (s.inChan s.ctx port = none → s.WritesS (.pstat d p) d 0) ∧
     (s.outChan s.ctx port = none → s.WritesS (.qstat d p) d 0) ∧
     (∀ n ch, s.inChan s.ctx port = some (n, ch) → ch.queue.length < 2 ^ 16 → ∃ x : Word, s.WritesS (.pstat d p) d x ∧
       x.getLsbD 0 = true ∧ x.getLsbD 2 = ch.vec ∧ (x.extractLsb' 16 8) = getV s.ctx.consRem port ∧
       (x.extractLsb' 24 16).toNat = ch.queue.length ∧ x.getLsbD 4 = !ch.queue.isEmpty ∧ x.extractLsb' 40 24 = 0 ∧
       x.extractLsb' 8 8 = 0 ∧ x.getLsbD 3 = false ∧ x.getLsbD 1 = false ∧ (ch.queue = [] → x.extractLsb' 5 3 = 0) ∧
       (∀ tok rest, ch.queue = tok :: rest → x.extractLsb' 5 3 = tok.code)) ∧
     (∀ n ch, s.outChan s.ctx port = some (n, ch) → ch.free < 2 ^ 16 → ∃ x : Word, s.WritesS (.qstat d p) d x ∧
       x.getLsbD 0 = true ∧ x.getLsbD 2 = ch.vec ∧ (x.extractLsb' 16 8) = getV s.ctx.prodRem port ∧
       (x.extractLsb' 24 16).toNat = ch.free ∧ x.extractLsb' 4 4 = 0 ∧ x.extractLsb' 40 24 = 0 ∧ x.extractLsb' 8 8 = 0 ∧
       x.getLsbD 3 = false ∧ x.getLsbD 1 = false) ∧
     (d ≠ 0 → s.Does (.feClr d) fun c => { c with full := setV c.full d false }) ∧
     (d ≠ 0 → s.Does (.feSet d) fun c => { c with full := setV c.full d true }) ∧
     s.Does (.feSet 0) id ∧ fieldFault (.feClr 0) = some .longLatencyS0 ∧
     s.WritesS (.feTst d a) d (if s.ctx.isFull a = true then 1 else 0))

/-! ## Messages: what the sender does -/

/-- R80, R81, R82, R83, R91: `snd.curd` with good reserved fields, a present destination and room: the request goes to the core the
service address names, with the reply tag of R82. With d = 0 the tag says NOREPLY and nothing waits; else SEQ advances
modulo 1,024, s[d] is marked empty and its reply is awaited. A
`rpl.whey` that passes its checks sends s[b] to the core of the tag on the whey network, held until the context's earlier
writes are visible (R314), or nothing where the tag says NOREPLY; either way the hold of an `ocall` with that tag, which the
context has consumed, ends once those writes are visible (R90, R314); `mcast` sends s[b] to the group s[a]. -/
def Obligations.RequestsSent : Prop :=
  ∀ (s : State) (d a b : Reg) (w : Bool), s.Full [a, b] →
    let x := s.ctx.readS a
    let dst := (x.extractLsb' 26 21).toNat
    let tag := fun n : Nat => BitVec.ofNat 64 (n + s.focus * 2 ^ 26 + s.who.toNat * 2 ^ 10)
    let good := s.Room ∧ s.focus < 2 ^ 21 ∧ x.toNat < 2 ^ 47 ∧ x.extractLsb' 4 22 = 0 ∧ s.present dst = true
    let ends := fun t : State => ∀ i h, s.cur.holds[i]? = some h → t.cur.holds[i]? = some
      (if i < s.takenHolds s.focus ∧ h.tag = x ∧ h.ctx = s.who ∧ h.ends = none
       then { h with ends := some (true, s.writesOf s.focus s.who), mine := (s.ctx.firedAt, s.nextId) } else h)
    (good → d = 0 → ∃ t, exec (.sndCurd d a b w) s = .next t ∧ s.Sent t
      (s.outMsg dst false [] (.request (x.extractLsb' 0 4).toNat (tag (2 ^ 47)) (s.ctx.readS b))) s.ctx) ∧
    (good → d ≠ 0 → ∃ t, exec (.sndCurd d a b w) s = .next t ∧ s.Sent t
      (s.outMsg dst false [] (.request (x.extractLsb' 0 4).toNat
        (tag (s.ctx.seq.toNat * 2 ^ 16 + d.toNat * 2 ^ 5)) (s.ctx.readS b)))
      { s.ctx with full := setV s.ctx.full d false, awaits := s.ctx.awaits ++ [.reply d s.ctx.seq], seq := s.ctx.seq + 1 }) ∧
    (x.extractLsb' 48 16 = 0 → x.extractLsb' 14 2 = 0 → x.extractLsb' 0 5 = 0 → s.present dst = true →
      (x.getLsbD 47 = true → ∃ t, exec (.rplWhey a b w) s = .next t ∧ t.net = s.net ∧ t.mem = s.mem ∧ ends t ∧
        t.ctx = { s.ctx with chain := .empty, word := s.ctx.word + 1 }) ∧
      (x.getLsbD 47 = false → s.queued s.focus true < (s.cur.sqlim.extractLsb' 8 5).toNat →
        ∃ t, exec (.rplWhey a b w) s = .next t ∧ ends t ∧ s.Sent t
          (s.outMsg dst true (s.writesOf s.focus s.who) (.answer x (s.ctx.readS b))) s.ctx)) ∧
    (∀ k h l, h.ends = some (true, l) →
      (s.holdActive k h = true ↔ ∃ id ∈ l, s.invisible (scopeOf k h.cid) k id = true)) ∧
    (x.toNat < 2 ^ 8 → s.Room → ∃ t, exec (.mcast a b w) s = .next t ∧
      s.Sent t (s.outMsg s.focus false [] (.mcast x.toNat (s.ctx.readS b))) s.ctx)

/-- R19, R75, R76, R77, R81, R83, R85 to R93, R286, R299, R376: what the message instructions refuse, in order: reserved
fields that are not 0 (DETAIL 0x0E), a core that is not present (0x0F), a full send queue (0x07); for `chase` first the
descriptor: misaligned, outside the scratchpad, not valid; then for every form with an address what `AccessTraps` says of
it. Nothing is sent. A chase with 8 outstanding parks its context. -/
def Obligations.MessageTraps : Prop :=
  ∀ (s : State) (d a b c : Reg) (w : Bool), s.Full [d, a, b, c] →
    let x := s.ctx.readS a
    let y := s.ctx.readS b
    let op : BitVec 8 := a.setWidth 8
    let dst := (x.extractLsb' 26 21).toNat
    let badService := x.extractLsb' 47 17 ≠ 0 ∨ x.extractLsb' 4 22 ≠ 0
    let badTag := x.extractLsb' 48 16 ≠ 0 ∨ x.extractLsb' 14 2 ≠ 0 ∨ x.extractLsb' 0 5 ≠ 0
    (badService → s.Traps (.sndCurd d a b w) 0x01 op 0x0E x) ∧
    (¬ badService → s.present dst = false → s.Traps (.sndCurd d a b w) 0x01 op 0x0F x) ∧
    (¬ badService → s.present dst = true → ¬ s.Room → s.Traps (.sndCurd d a b w) 0x07 0 0x01 0) ∧
    (badTag → s.Traps (.rplWhey a b w) 0x01 op 0x0E x) ∧
    (¬ badTag → s.present dst = false → s.Traps (.rplWhey a b w) 0x01 op 0x0F x) ∧
    (¬ badTag → s.present dst = true → x.getLsbD 47 = false →
      (s.cur.sqlim.extractLsb' 8 5).toNat ≤ s.queued s.focus true → s.Traps (.rplWhey a b w) 0x07 0 0x02 0) ∧
    (2 ^ 8 ≤ x.toNat → s.Traps (.mcast a b w) 0x01 op 0x0E x) ∧
    (x.toNat < 2 ^ 8 → ¬ s.Room → s.Traps (.mcast a b w) 0x07 0 0x01 0) ∧
    (∀ z : BitVec 3, z ≠ 7 → s.AccessTraps (.fld d a b w z) a (x + y) (if z.toNat = 6 then 8 else 2 ^ (z.toNat / 2)) true false false) ∧
    (∀ z : BitVec 2, s.AccessTraps (.fst d a b w z) a (x + y) (2 ^ z.toNat) false true false) ∧
    s.AccessTraps (.fstbN4 d a b w) a (x + BitVec.ofNat 64 (y.toNat / 2)) 1 false true false ∧
    s.AccessTraps (.fstbN2 d a b w) a (x + BitVec.ofNat 64 (y.toNat / 4)) 1 false true false ∧
    (let n := if s.ctx.chain.afmt = some 0x15 then 4 else 8
     ∀ i, (i = .amoAdd d a b w ∨ i = .amoAnd d a b w ∨ i = .amoOr d a b w ∨ i = .amoXor d a b w ∨ i = .amoMin d a b w ∨
        i = .amoMax d a b w ∨ i = .amoMinu d a b w ∨ i = .amoMaxu d a b w ∨ i = .amoSwap d a b w ∨ i = .amoCas d a b c w) →
      s.AccessTraps i a x n true true false) ∧
    s.AccessTraps (.amoFaddF32 d a b w) a x 4 true true false ∧ s.AccessTraps (.amoFaddBf16 d a b w) a x 2 true true false ∧
    s.AccessTraps (.ocall d a b w) a x 64 false true true ∧
    (let i := Instr.chase d a b w
     let ob : BitVec 8 := b.setWidth 8
     let steps := s.descriptor y.toNat
     (y.toNat % 8 ≠ 0 → s.Traps i 0x03 ob 0 y) ∧
     (y.toNat % 8 = 0 → s.cur.inScratch y.toNat 32 = false → s.Traps i 0x04 ob 0 y) ∧
     (y.toNat % 8 = 0 → s.cur.inScratch y.toNat 32 = true →
      (stepsInUse steps = none → s.Traps i 0x01 ob 0x0E y) ∧
      ∀ l z, stepsInUse steps = some (l ++ [z]) →
        let long := (z.extractLsb' 1 2) = 2 ∧ s.cur.inScratch y.toNat 65 = false
        (long → s.Traps i 0x04 ob 0 y) ∧
        (¬ long → stepsValid (l ++ [z]) = false → s.Traps i 0x01 ob 0x0E y) ∧
        (¬ long → stepsValid (l ++ [z]) = true → ∀ first, (l ++ [z]).head? = some first →
          let v := x + (first.extractLsb' 8 24).signExtend 64
          s.AccessTraps i a v (stepAlign first) true false true ∧
          ∀ addr, v.toNat % stepAlign first = 0 → s.Reaches v.toNat true false addr → addrPool addr = false → s.Room →
            8 ≤ s.chasesOut s.focus → ∃ t, exec i s = .next t ∧ t.cur.turn = false ∧ t.net = s.net ∧ t.mem = s.mem ∧
              t.ctx = { s.ctx with walked := none, park := .chase, word := BitVec.ofNat 7 s.ctx.first, chain := .empty })))

/-- R85, R86, R87: far loads and stores whose address is aligned and translated, with room: the message goes to the owner
of the address; a load marks s[d] empty and awaits its reply, a store marks nothing and carries s[d]; `fstb` names the
byte and the element's place in it.
R74, R88: an atomic whose location is aligned and translated with both permissions goes to the owner with its operand
(and `amo.cas` with its compare value), 8 bytes or with `fmt` INT32 4 bytes, the float forms 4 and 2; with d ≠ 0 s[d] is
marked empty and the old value awaited, with d = 0 nothing is. -/
def Obligations.FarAccessAndAtomics : Prop :=
  (∀ (s : State) (d a b : Reg) (w : Bool) (z : BitVec 3) (y : BitVec 2) (addr : Nat), s.Full [d, a, b] → s.Room →
     let va := ((s.ctx.readS a).toNat + (s.ctx.readS b).toNat) % 2 ^ 64
     let i := (s.ctx.readS b).toNat
     let at_ := fun n : Nat => ((s.ctx.readS a).toNat + i / n) % 2 ^ 64
     let c := { s.ctx with walked := none }
     let size := if z.toNat = 6 then 8 else 2 ^ (z.toNat / 2)
     (z ≠ 7 → d ≠ 0 → va % size = 0 → s.Reaches va true false addr → ∃ t, exec (.fld d a b w z) s = .next t ∧
       s.Sent t (s.outMsg (addrCore addr) false [] (.load addr size (z.toNat % 2 == 0) d))
         { c with full := setV c.full d false, awaits := c.awaits ++ [.read d s.nextId] }) ∧
     (va % 2 ^ y.toNat = 0 → s.Reaches va false true addr → ∃ t, exec (.fst d a b w y) s = .next t ∧
       s.Sent t (s.outMsg (addrCore addr) false [] (.store addr (2 ^ y.toNat) (s.ctx.readS d))) c) ∧
     (s.Reaches (at_ 2) false true addr → ∃ t, exec (.fstbN4 d a b w) s = .next t ∧
       s.Sent t (s.outMsg (addrCore addr) false [] (.subStore addr (4 * (i % 2)) 4 (s.ctx.readS d))) c) ∧
     (s.Reaches (at_ 4) false true addr → ∃ t, exec (.fstbN2 d a b w) s = .next t ∧
       s.Sent t (s.outMsg (addrCore addr) false [] (.subStore addr (2 * (i % 4)) 2 (s.ctx.readS d))) c)) ∧
  (∀ (s : State) (d a b c : Reg) (w : Bool) (addr : Nat), s.Full [a, b, c] → s.Room →
     let va := (s.ctx.readS a).toNat
     let n := if s.ctx.chain.afmt = some 0x15 then 4 else 8
     s.Reaches va true true addr →
     let sends := fun (i : Instr) (op : AmoOp) (size : Nat) (y : Word) => va % size = 0 → ∃ t, exec i s = .next t ∧
       s.Sent t (s.outMsg (addrCore addr) false [] (.amo op addr size (s.ctx.readS b) y d))
         (if d = 0 then { s.ctx with walked := none }
          else { s.ctx with walked := none, full := setV s.ctx.full d false, awaits := s.ctx.awaits ++ [.read d s.nextId] })
     sends (.amoAdd d a b w) .add n 0 ∧ sends (.amoAnd d a b w) .and n 0 ∧ sends (.amoOr d a b w) .or n 0 ∧
     sends (.amoXor d a b w) .xor n 0 ∧ sends (.amoMin d a b w) .min n 0 ∧ sends (.amoMax d a b w) .max n 0 ∧
     sends (.amoMinu d a b w) .minu n 0 ∧ sends (.amoMaxu d a b w) .maxu n 0 ∧ sends (.amoSwap d a b w) .swap n 0 ∧
     sends (.amoCas d a b c w) .cas n (s.ctx.readS c) ∧ sends (.amoFaddF32 d a b w) .faddF32 4 0 ∧
     sends (.amoFaddBf16 d a b w) .faddBf16 2 0)

/-- R90, R93, R95: `ocall` to a 64-byte line of DRAM, a `chase` whose descriptor and first address pass their checks while
fewer than 8 are outstanding, and the fences. With d = 0 the tag of an `ocall` says NOREPLY and nothing waits. The chase carries
the steps in use and marks s[d] and s[d+1] empty; a fence marks s[d] empty and remembers the context's earlier writes. -/
def Obligations.OcallChaseFence : Prop :=
  ∀ (s : State) (d a b : Reg) (w : Bool) (x : BitVec 3) (addr : Nat), s.Full [a, b] →
    let va := s.ctx.readS a
    let c := { s.ctx with walked := none }
    let off := (s.ctx.readS b).toNat
    (s.Room → s.focus < 2 ^ 21 → d ≠ 0 → va.toNat % 64 = 0 → s.Reaches va.toNat false true addr → addrPool addr = false →
      ∃ t, exec (.ocall d a b w) s = .next t ∧ s.Sent t (s.outMsg (addrCore addr) false [] (.ocall
          (BitVec.ofNat 64 (s.focus * 2 ^ 26 + s.ctx.seq.toNat * 2 ^ 16 + s.who.toNat * 2 ^ 10 + d.toNat * 2 ^ 5)) va
          (s.ctx.readS b) addr))
        { c with full := setV c.full d false, awaits := c.awaits ++ [.reply d c.seq], seq := c.seq + 1 }) ∧
    (s.Room → s.focus < 2 ^ 21 → d = 0 → va.toNat % 64 = 0 → s.Reaches va.toNat false true addr → addrPool addr = false →
      ∃ t, exec (.ocall d a b w) s = .next t ∧ s.Sent t (s.outMsg (addrCore addr) false [] (.ocall
          (BitVec.ofNat 64 (2 ^ 47 + s.focus * 2 ^ 26 + s.who.toNat * 2 ^ 10)) va (s.ctx.readS b) addr)) c) ∧
    (s.Room → 1 ≤ d.toNat → d.toNat ≤ 30 → s.chasesOut s.focus < 8 → off % 8 = 0 → s.cur.inScratch off 32 = true →
      ∀ first rest, stepsInUse (s.descriptor off) = some (first :: rest) → stepsValid (first :: rest) = true →
      (∀ z, (first :: rest).getLast? = some z → z.extractLsb' 1 2 = 2 → s.cur.inScratch off 65 = true) →
      let v := va + (first.extractLsb' 8 24).signExtend 64
      v.toNat % stepAlign first = 0 → s.Reaches v.toNat true false addr → addrPool addr = false →
      ∃ t p, exec (.chase d a b w) s = .next t ∧ s.Sent t (s.outMsg (addrCore addr) false [] (.chase p))
          { c with full := setV (setV c.full d false) (d + 1) false, awaits := c.awaits ++ [.chase d c.cseq], cseq := c.cseq + 1 } ∧
        p.dest = addr ∧ p.steps = first :: rest ∧ p.step = 0 ∧ p.va = v.toNat ∧ p.asn = s.ctx.graph ∧ p.rcid = s.focus ∧
        p.rctx = s.who ∧ p.rreg = d ∧ p.cseq = s.ctx.cseq ∧ p.roff = off + 32 ∧ p.waiting = none ∧ p.got = []) ∧
    (∀ i vis, (i = .fenceAcc d x ∧ vis = false ∨ i = .fenceVis d x ∧ vis = true) → d ≠ 0 → x.toNat ≤ 4 →
      ∃ t f, exec i s = .next t ∧ t.fences = s.fences ++ [f] ∧ f.cid = s.focus ∧ f.ctx = s.who ∧ f.reg = d ∧ f.vis = vis ∧
        f.pend = s.writesOf s.focus s.who ∧ (f.scope = .core ↔ x = 0) ∧ (f.scope = .cluster ↔ x = 1) ∧
        (f.scope = .field ↔ x = 2) ∧ (f.scope = .wafer ↔ x = 3) ∧ (f.scope = .system ↔ x = 4) ∧ t.net = s.net ∧
        t.mem = s.mem ∧
        t.ctx = { s.ctx with full := setV s.ctx.full d false, chain := .empty, word := s.ctx.word + 1 })

/-! ## Messages: what happens on the way and at the owner -/

/-- R78, R85, R86, R87: an access at its owner's column port. A load answers the little-endian number extended and
changes no memory; a store leaves its bytes and no other byte changed; a sub-byte store replaces its element and keeps the
byte's other bits. The message is gone.
R88, R89: an atomic at its owner's port is one read-modify-write: memory takes the form's new value, an `amo.cas` that finds
another value writes nothing, and the old value is answered exactly when d ≠ 0, an integer sign-extended. A float atomic
leaves the sum of the two numbers, rounded once with RNE.
When an access has arrived, and which accesses of its way it waits for, is the model's reading (log entry 95). -/
def Obligations.OwnerPort : Prop :=
  (∀ (s : State) (m : Msg) (a n : Nat), s.AtPort m a n → Memory.wf s.mem = true →
     (∀ i j, i < n → j < n → s.place (a + i) = s.place (a + j) → i = j) →
     let others := fun t : State => ∀ b, (∀ i < n, s.place b ≠ s.place (a + i)) → t.readByte b = s.readByte b
     (∀ sg r, m.body = .load a n sg r → ∃ t, exec (.ownerPortAccess m.id) s = .next t ∧ t.mem = s.mem ∧
       ∃ q, t.net = s.net.filter (fun x => x.id != m.id) ++ [q] ∧ q.dst = m.src ∧ q.ctx = m.ctx ∧
         q.body = .readReply r m.id (extendTo64 n (!sg) (s.readLE a n))) ∧
     (∀ x, m.body = .store a n x → ∃ t, exec (.ownerPortAccess m.id) s = .next t ∧ others t ∧
       (∀ i < n, (t.readByte (a + i)).toNat = x.toNat / 256 ^ i % 256) ∧
       t.net = s.net.filter (fun x => x.id != m.id)) ∧
     (∀ p w x, n = 1 → m.body = .subStore a p w x → p + w ≤ 8 → ∃ t, exec (.ownerPortAccess m.id) s = .next t ∧ others t ∧
       (∀ j < 8, (t.readByte a).getLsbD j =
         if p ≤ j ∧ j < p + w then x.getLsbD (j - p) else (s.readByte a).getLsbD j) ∧
       t.net = s.net.filter (fun x => x.id != m.id))) ∧
  (∀ (s : State) (m : Msg) (op : AmoOp) (a n : Nat) (x y : Word) (r : Reg), s.AtPort m a n → Memory.wf s.mem = true →
     (∀ i j, i < n → j < n → s.place (a + i) = s.place (a + j) → i = j) →
     (n = (if op = .faddF32 then 4 else if op = .faddBf16 then 2 else n) ∧ (n = 4 ∨ n = 8 ∨ op = .faddBf16)) →
     m.body = .amo op a n x y r →
     let old := s.readLE a n
     let xo := x.toNat % 256 ^ n
     let sgn := fun v : Nat => if 256 ^ n ≤ 2 * v then (v : Int) - 256 ^ n else v
     let new := match op with
       | .add => (old + xo) % 256 ^ n
       | .and => old &&& xo
       | .or => old ||| xo
       | .xor => old ^^^ xo
       | .min => if sgn xo < sgn old then xo else old
       | .max => if sgn old < sgn xo then xo else old
       | .minu => if xo < old then xo else old
       | .maxu => if old < xo then xo else old
       | .cas => if old = y.toNat % 256 ^ n then xo else old
       | .swap => xo
       | .faddF32 => (toF32 0 0 (ExNum.add false (f32 (BitVec.ofNat 32 old)) (f32 (BitVec.ofNat 32 xo)))).toNat
       | .faddBf16 => (fmtBF16.write 0 0 0 (ExNum.add false (fmtBF16.read old) (fmtBF16.read xo))).code % 2 ^ 16
     ∃ t, exec (.ownerPortAccess m.id) s = .next t ∧ t.readLE a n = new ∧
       (∀ b, (∀ i < n, s.place b ≠ s.place (a + i)) → t.readByte b = s.readByte b) ∧
       (r = 0 → t.net = s.net.filter (fun x => x.id != m.id)) ∧
       (r ≠ 0 → ∃ q, t.net = s.net.filter (fun x => x.id != m.id) ++ [q] ∧ q.dst = m.src ∧
         q.body = .readReply r m.id (if op = .faddF32 ∨ op = .faddBf16 then BitVec.ofNat 64 old else BitVec.ofInt 64 (sgn old))))

/-- R83, R84, R85, R193, R375, R383: a reply that arrives in its turn. At a bound context whose region is not saved an awaited
one writes its value to its register and marks it full (an answer that of its tag; a chase's s[d+1] and s[d], after its
EFM bytes, which go to the pool, those of each aligned 64-byte span in an event of their own); any other is discarded and changes no register. For a saved context it waits in the core's
reply buffer; where that is full, or the context is no longer bound, it is discarded and reported.
R77, R79, R90, R95, R182, R198, R377: the other events of messages. The head of a send queue leaves it and frees its entry
no earlier than the fourth cycle after the cycle of its issue, once the writes it waits for are visible; a multicast then
stands at the sender's router (log entry 2: a message is born in the cycle of its issue, and may leave once three more have
passed). An event that is not due leaves the state as it is (log entry 16). A request is delivered as its tag (code 6) and payload tokens once its whole count of entries
is free, an `ocall` as three, and its 64 bytes are held; a request for a service that is not bound is dropped and reported, its
service as DETAIL (log entry 86). A
fence whose writes are done fills its register with 0; the oldest spilled chase returns to a station with room once the port reads
its place in the spill area. -/
def Obligations.RepliesAndEvents : Prop :=
  (∀ (s : State) (m : Msg), s.msg? m.id = some m → m.entry = false → s.inTurn m = true →
     let gone := s.net.filter (fun x => x.id != m.id)
     let arrives := fun (i : Instr) (n : BitVec 4) (aw : Await) (f : Context → Context) (mem : State → Prop) =>
       let c := s.ctxAt m.dst n
       let lost := ∃ t r, exec i s = .next t ∧ t.net = gone ∧ (∀ k j, t.ctxAt k j = s.ctxAt k j) ∧
         (t.core m.dst).replyBuf = (s.core m.dst).replyBuf ∧ t.module.log.getLast? = some r ∧ r.cls = 2 ∧ r.kind = 0x05 ∧
         r.core = BitVec.ofNat 16 m.dst
       (c.bound = true → c.saved = false → ∃ t, exec i s = .next t ∧ t.net = gone ∧
         (aw ∉ c.awaits → t.mem = s.mem ∧ t.ctxAt m.dst n = c) ∧
         (aw ∈ c.awaits → mem t ∧ t.ctxAt m.dst n = { f c with awaits := c.awaits.erase aw })) ∧
       (c.bound = true → c.saved = true → (s.core m.dst).replyBuf.length < 16 → ∃ t, exec i s = .next t ∧ t.net = gone ∧
         (t.core m.dst).replyBuf = (s.core m.dst).replyBuf ++ [m] ∧ t.ctxAt m.dst n = c ∧ (aw ∈ c.awaits → mem t)) ∧
       (c.bound = true → c.saved = true → 16 ≤ (s.core m.dst).replyBuf.length → lost) ∧ (c.bound = false → lost)
     let same := fun t : State => t.mem = s.mem
     (∀ r req v, m.body = .readReply r req v → r ≠ 0 → arrives (.replyArrival m.id) m.ctx (.read r req)
       (fun c => { c with s := setV c.s r v, full := setV c.full r true }) same) ∧
     (∀ tag v : Word, m.body = .answer tag v → tag.extractLsb' 5 5 ≠ 0 →
       let r : Reg := tag.extractLsb' 5 5
       arrives (.replyArrival m.id) (tag.extractLsb' 10 4) (.reply r (tag.extractLsb' 16 10))
         (fun c => { c with s := setV c.s r v, full := setV c.full r true }) same) ∧
     (∀ n r q off st v l, m.body = .chaseReply n r q off st v l → 64 < off % 64 + l.length → Memory.wf s.mem = true →
       m.dst < 2 ^ 21 → off + l.length ≤ 2 ^ 26 → (s.ctxAt m.dst n).bound = true → .chase r q ∈ (s.ctxAt m.dst n).awaits →
       let room := 64 - off % 64
       ∃ t, exec (.chaseReply m.id) s = .next t ∧ (∀ k j, t.ctxAt k j = s.ctxAt k j) ∧
         t.net = s.net.map (fun x => if x.id = m.id then { x with body := .chaseReply n r q (off + room) st v (l.drop room) } else x) ∧
         (∀ j (h : j < l.length), j < room → t.readByte (poolAddr m.dst (off + j)) = l[j]) ∧
         ∀ y, (∀ j < room, s.place y ≠ poolAddr m.dst (off + j)) → t.readByte y = s.readByte y) ∧
     (∀ n r q off st v l, m.body = .chaseReply n r q off st v l → 1 ≤ r.toNat → r.toNat ≤ 30 → Memory.wf s.mem = true →
       m.dst < 2 ^ 21 → off + l.length ≤ 2 ^ 26 → off % 64 + l.length ≤ 64 →
       arrives (.chaseReply m.id) n (.chase r q)
         (fun c => { c with s := setV (setV c.s (r + 1) v) r st, full := setV (setV c.full (r + 1) true) r true })
         (fun t => (∀ j (h : j < l.length), t.readByte (poolAddr m.dst (off + j)) = l[j]) ∧
           ∀ y, (∀ j < l.length, s.place y ≠ poolAddr m.dst (off + j)) → t.readByte y = s.readByte y))) ∧
  (∀ s : State,
     (∀ m, s.msg? m.id = some m → m.entry = true → s.atQueueHead m = true →
       let gone := s.net.filter (fun x => x.id != m.id)
       let early := ((s.core m.src).cycle - m.born).toNat < 3 ∨ ∃ id ∈ m.pend, s.invisible (scopeOf m.src m.dst) m.src id = true
       (early → exec (.sendQueueEntryFree m.id) s = .next s) ∧
       (¬ early → (∀ g p, m.body ≠ .mcast g p) → ∃ t, exec (.sendQueueEntryFree m.id) s = .next t ∧ t.mem = s.mem ∧
         t.net = gone ++ [{ m with entry := false }]) ∧
       (¬ early → ∀ g p, m.body = .mcast g p → ∃ t q, exec (.sendQueueEntryFree m.id) s = .next t ∧ t.mem = s.mem ∧
         t.net = gone ∧ t.packets = s.packets ++ [q] ∧ (q.x, q.y) = s.routerOf m.src ∧ q.from_ = none ∧ q.group = g ∧
         q.payload = p ∧ q.sender = m.src ∧ q.origin = m.id ∧ q.member = none)) ∧
     (∀ m n tag x, s.msg? m.id = some m → m.body = .request n tag x → m.entry = false → s.inTurn m = true →
       let i := Instr.serviceRequestDelivery m.id
       let gone := s.net.filter (fun x => x.id != m.id)
       (s.serviceChan (.service m.dst n) = none → ∃ t r, exec i s = .next t ∧ t.net = gone ∧ t.chans = s.chans ∧
         t.module.log.getLast? = some r ∧ r.cls = 2 ∧ r.kind = 0x02 ∧ r.detail = BitVec.ofNat 8 n ∧ r.core = BitVec.ofNat 16 m.dst) ∧
       ∀ k ch, s.serviceChan (.service m.dst n) = some (k, ch) →
         (ch.depth < ch.queue.length + 2 → exec i s = .next s) ∧
         (ch.queue.length + 2 ≤ ch.depth → ∃ t, exec i s = .next t ∧ t.net = gone ∧
           t.chans[k]? = some { ch with queue := ch.queue ++ [⟨tag.setWidth 512, 0, 6⟩, ⟨x.setWidth 512, 0, 0⟩] })) ∧
     (∀ m tag va x a k ch, s.msg? m.id = some m → m.body = .ocall tag va x a → m.entry = false → s.inTurn m = true →
       s.spliceAt a = none → s.serviceChan (.ocall m.dst) = some (k, ch) → ch.queue.length + 3 ≤ ch.depth →
       s.held a 64 m.src m.ctx m.id = false → ∃ t h, exec (.serviceRequestDelivery m.id) s = .next t ∧
         t.net = s.net.filter (fun x => x.id != m.id) ∧
         t.chans[k]? = some { ch with queue := ch.queue ++ [⟨tag.setWidth 512, 0, 6⟩, ⟨va.setWidth 512, 0, 6⟩, ⟨x.setWidth 512, 0, 0⟩] } ∧
         (t.core m.dst).holds = (s.core m.dst).holds.filter (s.holdActive m.dst) ++ [h] ∧ h.addr = a ∧ h.tag = tag ∧
         h.ends = none) ∧
     (∀ f, s.fences.find? (fun g => g.id == f.id) = some f → s.fenceMet f = true →
       (s.ctxAt f.cid f.ctx).saved = false → f.reg ≠ 0 → ∃ t, exec (.fenceCompletion f.id) s = .next t ∧
         t.fences = s.fences.filter (fun g => g.id != f.id) ∧ t.mem = s.mem ∧
         t.ctxAt f.cid f.ctx = { s.ctxAt f.cid f.ctx with
           s := setV (s.ctxAt f.cid f.ctx).s f.reg 0, full := setV (s.ctxAt f.cid f.ctx).full f.reg true }) ∧
     (∀ cid i j rest, (s.core cid).spill = (i, j) :: rest → (s.core cid).station.length < 16 →
       let port := s.reachable cid (spillPlace cid j) 64
       (port = .wait → exec (.chaseSpillReturn cid) s = .next s) ∧
       (port = .open_ → ∃ t, exec (.chaseSpillReturn cid) s = .next t ∧ (t.core cid).station = (s.core cid).station ++ [i] ∧
         (t.core cid).spill = rest ∧ t.mem = s.mem ∧ t.net = s.net)))

/-- R93, R94, R378 to R380: a chase hop at an owner that holds the packet in its station, its port open. The last step reads its
8 or 4 bytes, or an elastic value (the canonical NaN for a malformed one), and answers with the status word; a result that
runs into the next 64 bytes is read in pieces, and one that runs into the next page once that page has translated (log entry
29: one event for each span; byte 0 gives the size, and is read again with its span after a wait; a malformed value is read to 3
bytes). An event that is not due leaves the state as it is (log entry 16). An earlier step reads a pointer, clears its tag, adds the next offset, and
either ends the chain with the KIND of the check that fails, waits for the hub on a miss, or goes on to the owner of the
address. A walk made for a chase that ends in a translation fault ends the chain with KIND 1. -/
def Obligations.ChaseHop : Prop :=
  ∀ (s : State) (m : Msg) (p : ChasePacket), s.msg? m.id = some m → m.body = .chase p →
    let answers := fun (i : Instr) (status value : Word) (l : List Byte) => ∃ t q, exec i s = .next t ∧ t.mem = s.mem ∧
      t.net = s.net.filter (fun x => x.id != m.id) ++ [q] ∧ q.dst = p.rcid ∧ m.id ∉ (t.core m.dst).station ∧
      q.body = .chaseReply p.rctx p.rreg p.cseq p.roff status value l
    let i := Instr.chaseHop m.id
    (m.entry = false → s.chaseMissing m.id = false → m.id ∈ (s.core m.dst).station → (∀ x ∈ (s.core m.dst).spill, x.1 ≠ m.id) →
      s.spliceAt p.dest = none → p.waiting = none → p.got = [] → p.asked = false →
      (s.portAt p.dest p.first p.rcid p.rctx m.id = .wait → exec i s = .next s) ∧
      (s.portAt p.dest p.first p.rcid p.rctx m.id = .open_ →
        (∀ x, p.steps = [x] → stepLast x = true → p.step < 8 →
          let status := fun n : Nat => BitVec.ofNat 64 (n * 2 ^ 16 + p.step * 2 ^ 8)
          (stepWidth x = 0 → answers i (status 8) (BitVec.ofNat 64 (s.readLE p.dest 8)) []) ∧
          (stepWidth x = 1 → answers i (status 4) (BitVec.ofNat 64 (s.readLE p.dest 4)) []) ∧
          (stepWidth x = 2 → addrCore p.dest = m.dst →
            let k := (s.readByte p.dest).toNat
            let n := if k ≤ 30 then 3 + k else 3
            let room := 64 - p.va % 64
            (n ≤ room → s.portAt p.dest n p.rcid p.rctx m.id = .open_ →
              (k ≤ 30 → answers i (status n) 0 (s.readBytes p.dest n)) ∧
              (30 < k → answers i (status 4) 0 [0x01, 0xFF, 0x7F, 0x80])) ∧
            (room < n → p.va % 2 ^ 18 + n ≤ 2 ^ 18 → s.portAt p.dest room p.rcid p.rctx m.id = .open_ →
              ∃ t, exec i s = .next t ∧ t.mem = s.mem ∧ t.net = s.net.map fun y =>
                if y.id = m.id then { y with body := .chase { p with got := s.readBytes p.dest room } } else y) ∧
            (2 ^ 18 < p.va % 2 ^ 18 + n → p.later = none →
              let c := (p.va / 2 ^ 18 + 1) * 2 ^ 18
              let ends := fun kind : Nat => answers i (BitVec.ofNat 64 (p.step * 2 ^ 8 + kind)) (BitVec.ofNat 64 c) []
              (2 ^ 54 ≤ c → ends 3) ∧
              (c < 2 ^ 54 →
                (∀ d, s.xlate m.dst p.asn c true false = .fault d → ends 2) ∧
                (s.xlate m.dst p.asn c true false = .miss → ∃ t z, exec i s = .next t ∧ t.mem = s.mem ∧ t.misses = s.misses ++ [z] ∧
                  z.hub = m.dst / 16 ∧ z.waiter = .chase m.id ∧ z.asn = p.asn ∧ z.va = c ∧ z.read = true ∧ z.write = false ∧
                  m.id ∈ (t.core m.dst).station ∧ t.net = s.net.map fun y =>
                    if y.id = m.id then { y with body := .chase { p with waiting := some c } } else y))))) ∧
        (∀ x y rest, p.steps = x :: y :: rest → stepLast x = false → p.step < 7 →
          let c := (s.readLE p.dest 8 % 2 ^ (64 - (x.extractLsb' 4 4).toNat) + ((y.extractLsb' 8 24).signExtend 64).toNat) % 2 ^ 64
          let ends := fun kind : Nat => answers i (BitVec.ofNat 64 ((p.step + 1) * 2 ^ 8 + kind)) (BitVec.ofNat 64 c) []
          (2 ^ 54 ≤ c → ends 3) ∧ (c < 2 ^ 54 → c % stepAlign y ≠ 0 → ends 4) ∧
          (c < 2 ^ 54 → c % stepAlign y = 0 →
            (∀ d, s.xlate m.dst p.asn c true false = .fault d → ends 2) ∧
            (s.xlate m.dst p.asn c true false = .miss → ∃ t z, exec i s = .next t ∧ t.mem = s.mem ∧ t.misses = s.misses ++ [z] ∧
              z.hub = m.dst / 16 ∧ z.waiter = .chase m.id ∧ z.asn = p.asn ∧ z.va = c ∧ z.read = true ∧ z.write = false ∧
              m.id ∈ (t.core m.dst).station ∧
              t.net = s.net.map fun y => if y.id = m.id then { y with body := .chase { p with waiting := some c } } else y) ∧
            (∀ addr, s.xlate m.dst p.asn c true false = .ok addr →
              (addrPool addr = true → ends 2) ∧
              (addrPool addr = false → ∃ t q, exec i s = .next t ∧ t.mem = s.mem ∧
                t.net = s.net.filter (fun x => x.id != m.id) ++ [q] ∧ q.dst = addrCore addr ∧
                q.body = .chase { p with dest := addr, steps := y :: rest, step := p.step + 1, va := c, waiting := none })))))) ∧
    (∀ (h : Nat) (w : Walk) (x y : BitVec 32) (rest : List (BitVec 32)) (z : Miss) (g : Graph) (r : Nat),
      (s.hub h).walks[0]? = some w → w.waiters = [z] → z.waiter = .chase m.id → s.graph? w.asn = some g → g.root = some r →
      s.present (addrCore w.node) = true → p.steps = x :: y :: rest → stepLast x = false → p.step < 7 →
      let entry := w.node + 8 * (w.va / 2 ^ (45 - 9 * w.level) % 512)
      w.level ≤ 3 → w.ended = false → (∀ v ∈ (s.hub h).walks.drop 1, v.ended = false) → s.reachable (16 * h) entry 8 = .open_ →
      s.readLE (s.servedAt entry) 8 % 2 = 0 → (s.hub h).queue = [] →
      answers (.walkLevelRead h 0) (BitVec.ofNat 64 ((p.step + 1) * 2 ^ 8 + 1)) (BitVec.ofNat 64 z.va) [])

/-! ## Vector instructions -/

/-- R121, R125, R127: the integer and logic forms of majors 0x50 and 0x52 in every lane: active lanes take the result of the
table, inactive lanes keep their value or become 0, nothing else changes. `vadds` and `vsubs` clamp to DFMT, else INT32. -/
def Obligations.VectorIntegers : Prop :=
  ∀ (s : State) (d a b : Reg) (k : BitVec 3) (z : Bool),
    let x := s.lane a
    let y := s.lane b
    let n := fun j => (y j).toNat % 32
    let wr := fun (i : Instr) (f : BitVec 4 → Lane) => s.WritesV i d k z f
    wr (.vadd d a b k z) (fun j => BitVec.ofNat 32 ((x j).toNat + (y j).toNat)) ∧
    wr (.vsub d a b k z) (fun j => BitVec.ofInt 32 ((x j).toNat - (y j).toNat)) ∧
    wr (.vmul d a b k z) (fun j => BitVec.ofNat 32 ((x j).toNat * (y j).toNat)) ∧
    wr (.vmulh d a b k z) (fun j => BitVec.ofInt 32 ((x j).toInt * (y j).toInt / 2 ^ 32)) ∧
    wr (.vmin d a b k z) (fun j => if (x j).toInt ≤ (y j).toInt then x j else y j) ∧
    wr (.vmax d a b k z) (fun j => if (x j).toInt ≤ (y j).toInt then y j else x j) ∧
    wr (.vminu d a b k z) (fun j => if (x j).toNat ≤ (y j).toNat then x j else y j) ∧
    wr (.vmaxu d a b k z) (fun j => if (x j).toNat ≤ (y j).toNat then y j else x j) ∧
    wr (.vabs d a k z) (fun j => BitVec.ofNat 32 (x j).toInt.natAbs) ∧
    wr (.vneg d a k z) (fun j => BitVec.ofInt 32 (-(x j).toInt)) ∧
    wr (.vsll d a b k z) (fun j => BitVec.ofNat 32 ((x j).toNat * 2 ^ n j)) ∧
    wr (.vsrl d a b k z) (fun j => BitVec.ofNat 32 ((x j).toNat / 2 ^ n j)) ∧
    wr (.vsra d a b k z) (fun j => BitVec.ofInt 32 ((x j).toInt / 2 ^ n j)) ∧
    wr (.vand d a b k z) (fun j => x j &&& y j) ∧
    wr (.vor d a b k z) (fun j => x j ||| y j) ∧
    wr (.vxor d a b k z) (fun j => x j ^^^ y j) ∧
    wr (.vandn d a b k z) (fun j => x j &&& ~~~y j) ∧
    wr (.vnot d a k z) (fun j => ~~~x j) ∧
    wr (.vmov d a k z) x ∧
    (∀ lo hi : Int, (s.ctx.chain.dfmt = none ∨ s.ctx.chain.dfmt = some 0x15) ∧ lo = -2 ^ 31 ∧ hi = 2 ^ 31 - 1 ∨
        s.ctx.chain.dfmt = some 0x03 ∧ lo = -128 ∧ hi = 127 ∨ s.ctx.chain.dfmt = some 0x04 ∧ lo = 0 ∧ hi = 255 ∨
        s.ctx.chain.dfmt = some 0x14 ∧ lo = -2 ^ 15 ∧ hi = 2 ^ 15 - 1 →
      wr (.vadds d a b k z) (fun j => BitVec.ofInt 32 (max lo (min hi ((x j).toInt + (y j).toInt)))) ∧
      wr (.vsubs d a b k z) (fun j => BitVec.ofInt 32 (max lo (min hi ((x j).toInt - (y j).toInt)))))

/-- R121, R126, R136, R137: the rounded lane forms and the conversions: sources in AFMT and BFMT where `fmt` names them, else
FP32, and one rounding of the exact result in the mode of `rnd`, else RNE (`vscvt`: STO), into DFMT or the format of the
instruction, any other of which is refused (R99, R124); under STO each active lane's generator advances once. `vfmin`, `vfmax` order as `fmin`, `fmax`; `vfabs` and
`vfneg` move bits. That an E8M0 code is written zero-extended is the model's choice (log entry 64). -/
def Obligations.VectorFloats : Prop :=
  ∀ (s : State) (d a b : Reg) (k : BitVec 3) (z : Bool),
    let c := s.ctx.chain
    let df := c.dfmt.getD 0x0F
    let x := fun j => (fmtOf (c.afmt.getD 0x0F)).read (s.lane a j).toNat
    let y := fun j => (fmtOf (c.bfmt.getD 0x0F)).read (s.lane b j).toNat
    let v := fun j => (fmtOf df).read (s.lane d j).toNat
    let sat := match c.rnd with
      | some p => p.extractLsb' 20 2
      | none => 0
    let rdn := s.rm == 3
    let rounds := fun (i : Instr) (r : BitVec 4 → ExNum) => s.WritesVAnd i d k z (fun j => BitVec.ofNat 32
      ((fmtOf df).write s.rm (if df = 0x0F then 0 else sat) (s.drawOf s.rm j) (r j))) (s.drawn s.rm k)
    let converts := fun (i : Instr) (m : BitVec 3) (f : Reg) => s.WritesVAnd i d k z (fun j =>
      let code := (fmtOf f).write m sat (s.drawOf m j) (x j)
      match fmtOf f with
      | .int n true => BitVec.ofInt 32 (if 2 ^ n ≤ 2 * code then (code : Int) - 2 ^ n else code)
      | .tern => BitVec.ofInt 32 (if 4 ≤ 2 * code then (code : Int) - 4 else code)
      | _ => BitVec.ofNat 32 code) (s.drawn m k)
    (df = 0x0D ∨ df = 0x0E ∨ df = 0x0F → rounds (.vfadd d a b k z) (fun j => ExNum.add rdn (x j) (y j)) ∧
      rounds (.vfsub d a b k z) (fun j => ExNum.add rdn (x j) (ExNum.neg (y j))) ∧
      rounds (.vfmul d a b k z) (fun j => ExNum.mul (x j) (y j)) ∧
      rounds (.vfma d a b k z) (fun j => ExNum.add rdn (ExNum.mul (x j) (y j)) (v j))) ∧
    s.WritesV (.vfabs d a k z) d k z (fun j => s.lane a j &&& 0x7FFFFFFF) ∧
    s.WritesV (.vfneg d a k z) d k z (fun j => s.lane a j ^^^ 0x80000000) ∧
    (∃ lo hi : BitVec 4 → Lane, s.WritesV (.vfmin d a b k z) d k z lo ∧ s.WritesV (.vfmax d a b k z) d k z hi ∧
      ∀ (j : BitVec 4) (t : State), t.ctx.readF 2 = s.lane a j → t.ctx.readF 3 = s.lane b j →
        t.Does (.fmin 1 2 3) (fun q => q.writeF 1 (lo j)) ∧ t.Does (.fmax 1 2 3) (fun q => q.writeF 1 (hi j))) ∧
    (∀ f : Reg,
      (f.toNat ≤ 0x0F ∨ f = 0x14 ∨ f = 0x15 ∨ f = 0x17 → converts (.vcvt d a f k z) s.rm f ∧ converts (.vscvt d a f k z) 5 f) ∧
      (¬ (f.toNat ≤ 0x0F ∨ f = 0x14 ∨ f = 0x15 ∨ f = 0x17) →
        s.Traps (.vcvt d a f k z) 0x01 0 0x0E (f.setWidth 64) ∧ s.Traps (.vscvt d a f k z) 0x01 0 0x0E (f.setWidth 64)))

/-- R9, R121, R128, R139: compares write one bit of k[d] for each active lane (a floating relation with a NaN is 0, `un` is 1),
inactive bits keep their value or become 0; the mask forms combine whole mask registers; k0 reads all ones and a write to
it is discarded. -/
def Obligations.VectorMasks : Prop :=
  ∀ (s : State) (kd ka kb : BitVec 3) (d a b : Reg) (k : BitVec 3) (z w : Bool) (m : Mask),
    let x := s.lane a
    let y := s.lane b
    let kr := kd.setWidth 5
    let p := fun j => f32 (x j)
    let q := fun j => f32 (y j)
    let num := fun j => p j ≠ .nan ∧ q j ≠ .nan
    let wr := fun (i : Instr) (f : BitVec 4 → Bool) => s.WritesK i kd k z f
    let sets := fun (i : Instr) (f : Mask) => s.Does i fun c => c.writeK kd f
    wr (.vcmpEq kr a b k z) (fun j => decide (x j = y j)) ∧
    wr (.vcmpNe kr a b k z) (fun j => decide (x j ≠ y j)) ∧
    wr (.vcmpLt kr a b k z) (fun j => decide ((x j).toInt < (y j).toInt)) ∧
    wr (.vcmpLe kr a b k z) (fun j => decide ((x j).toInt ≤ (y j).toInt)) ∧
    wr (.vcmpLtu kr a b k z) (fun j => decide ((x j).toNat < (y j).toNat)) ∧
    wr (.vcmpLeu kr a b k z) (fun j => decide ((x j).toNat ≤ (y j).toNat)) ∧
    wr (.vfcmpEq kr a b k z) (fun j => decide (num j ∧ ExNum.cmp (p j) (q j) = 0)) ∧
    wr (.vfcmpLt kr a b k z) (fun j => decide (num j ∧ ExNum.cmp (p j) (q j) = -1)) ∧
    wr (.vfcmpLe kr a b k z) (fun j => decide (num j ∧ ExNum.cmp (p j) (q j) ≠ 1)) ∧
    wr (.vfcmpUn kr a b k z) (fun j => decide (p j = .nan ∨ q j = .nan)) ∧
    sets (.kand kr (ka.setWidth 5) (kb.setWidth 5)) (s.ctx.readK ka &&& s.ctx.readK kb) ∧
    sets (.kor kr (ka.setWidth 5) (kb.setWidth 5)) (s.ctx.readK ka ||| s.ctx.readK kb) ∧
    sets (.kxor kr (ka.setWidth 5) (kb.setWidth 5)) (s.ctx.readK ka ^^^ s.ctx.readK kb) ∧
    sets (.knot kr (ka.setWidth 5)) (~~~s.ctx.readK ka) ∧
    sets (.kmov kr (ka.setWidth 5)) (s.ctx.readK ka) ∧
    s.WritesS (.kpopc d (ka.setWidth 5)) d
      (BitVec.ofNat 64 ((List.range 16).countP fun j => (s.ctx.readK ka).getLsbD j)) ∧
    (s.Full [a] → sets (.kfrom kr a w) ((s.ctx.readS a).extractLsb' 0 16)) ∧
    s.ctx.readK 0 = 0xFFFF ∧ s.ctx.writeK 0 m = s.ctx ∧
    (kd ≠ 0 → (s.ctx.writeK kd m).readK kd = m ∧ ∀ r, r ≠ kd → (s.ctx.writeK kd m).readK r = s.ctx.readK r)

/-- R129, R130, R131, R132: lanes moved and combined. The permutes read all of va first; a reduction writes the value of the
tree over lane pairs, with the identity in inactive lanes, to every lane; a scan runs from lane 0 upward; floating nodes
round with RNE. -/
def Obligations.VectorMoves : Prop :=
  ∀ (s : State) (d a b : Reg) (k : BitVec 3) (z w : Bool) (l : BitVec 4),
    let x := s.lane a
    let n := l.setWidth 5
    let at_ := fun i : Nat => x (BitVec.ofNat 4 i)
    let wr := fun (i : Instr) (f : BitVec 4 → Lane) => s.WritesV i d k z f
    let entry := fun (e : Lane) (i : Nat) => if s.laneOn k (BitVec.ofNat 4 i) = true then at_ i else e
    let level := fun (f : Lane → Lane → Lane) (v : Nat → Lane) (i : Nat) => f (v (2 * i)) (v (2 * i + 1))
    let tree := fun (f : Lane → Lane → Lane) (v : Nat → Lane) => level f (level f (level f (level f v))) 0
    let red := fun (i : Instr) (f : Lane → Lane → Lane) (e : Lane) =>
      s.Does i fun c => c.writeV d (Vector.replicate 16 (tree f (entry e)))
    let scan := fun (i : Instr) (f : Lane → Lane → Lane) (e : Lane) => ∃ y : Nat → Lane, y 0 = entry e 0 ∧
      (∀ j < 15, y (j + 1) = f (y j) (entry e (j + 1))) ∧ wr i fun j => y j.toNat
    let sum := fun p q : Lane => toF32 0 0 (ExNum.add false (f32 p) (f32 q))
    (∃ v : Lanes, s.Does (.vsel d a b k) (fun c => c.writeV d v) ∧
      ∀ j, getV v j = if s.laneOn k j = true then x j else s.lane b j) ∧
    wr (.vrot d a n k z) (fun j => x (j + l)) ∧
    wr (.vshdn d a n k z) (fun j => if j.toNat + l.toNat ≤ 15 then x (j + l) else 0) ∧
    wr (.vshup d a n k z) (fun j => if l.toNat ≤ j.toNat then x (j - l) else 0) ∧
    (s.Full [a] → wr (.vbcast d a k z w) (fun _ => (s.ctx.readS a).extractLsb' 0 32)) ∧
    s.WritesS (.vmvSV d a n) d (BitVec.ofInt 64 (x l).toInt) ∧
    (s.Full [a] → ∃ v : Lanes, s.Does (.vmvVS d a n w) (fun c => c.writeV d v) ∧
      ∀ j, getV v j = if j = l then (s.ctx.readS a).extractLsb' 0 32 else s.lane d j) ∧
    red (.vredAdd d a k) (fun p q => p + q) 0 ∧
    red (.vredMax d a k) (fun p q => if p.toInt < q.toInt then q else p) 0x80000000 ∧
    red (.vredMin d a k) (fun p q => if q.toInt < p.toInt then q else p) 0x7FFFFFFF ∧
    red (.vredFadd d a k) sum 0x80000000 ∧ red (.vredFmax d a k) f32Max 0xFF800000 ∧
    scan (.vscanAdd d a k z) (fun p q => p + q) 0 ∧ scan (.vscanFadd d a k z) sum 0x80000000

/-- R133, R134, R138, R145: vectors and the pool. `vld` reads 64 aligned bytes of the scratchpad, `vgat` an aligned 4-byte
lane at each active lane's own address, `vunpark` a free park slot; `vpack` and `vunpk` move the bits of sixteen elements
and refuse other formats (R99, R124).
The traps of the accesses name va and the failing offset. That `vgat` and `vsct` judge the alignment of all active lanes
before any bound is the model's reading (log entry 34). -/
def Obligations.VectorLoads : Prop :=
  ∀ (s : State) (d a b o f : Reg) (k : BitVec 3) (z w : Bool),
    let at_ := (((s.ctx.readS a).toInt + o.toInt * 64) % 2 ^ 64).toNat
    let lo := s.cur.scratchLo
    let hi := s.cur.scratchHi
    let op : BitVec 8 := a.setWidth 8
    let p := fun j => ((s.ctx.readS a).toNat + (s.lane b j).toNat) % 2 ^ 64
    let word := fun off => BitVec.ofNat 32 (s.readLE (poolAddr s.focus off) 4)
    let on := fun j => s.laneOn k j = true
    let slot := (s.ctx.readS a).toNat
    let acc := s.cur.accuLo
    let taken := ∃ t : BitVec 3, 64 * t.toNat ≤ slot / 8 ∧
      slot / 8 < 64 * t.toNat + ((s.cur.shape t).extractLsb' 0 7).toNat
    let width := (fmtOf f).bits
    s.Full [a] →
    (at_ % 64 = 0 → lo ≤ at_ → at_ + 64 ≤ hi →
      s.WritesV (.vld d a o k z w) d k z fun j => word (at_ + 4 * j.toNat)) ∧
    (∀ i, (i = .vld d a o k z w ∨ i = .vst d a o k w) →
      (at_ % 64 ≠ 0 → s.Traps i 0x03 op 0 (BitVec.ofNat 64 at_)) ∧
      (at_ % 64 = 0 → (at_ < lo ∨ hi < at_ + 64) → s.Traps i 0x04 op 0 (BitVec.ofNat 64 at_))) ∧
    ((∀ j, on j → p j % 4 = 0 ∧ lo ≤ p j ∧ p j + 4 ≤ hi) →
      s.WritesV (.vgat d a b k z w) d k z fun j => word (p j)) ∧
    (∀ i, (i = .vgat d a b k z w ∨ i = .vsct d a b k w) → ∀ j, on j →
      (p j % 4 ≠ 0 → (∀ q, on q → p q % 4 ≠ 0 → j.toNat ≤ q.toNat) → s.Traps i 0x03 op 0 (BitVec.ofNat 64 (p j))) ∧
      ((∀ q, on q → p q % 4 = 0) → (p j < lo ∨ hi < p j + 4) →
        (∀ q, on q → (p q < lo ∨ hi < p q + 4) → j.toNat ≤ q.toNat) → s.Traps i 0x04 op 0 (BitVec.ofNat 64 (p j)))) ∧
    (slot < (s.cur.partn.extractLsb' 18 6).toNat * 256 → ¬ taken →
      s.WritesV (.vunpark d a k z w) d k z fun j => word (acc + 64 * slot + 4 * j.toNat)) ∧
    (((s.cur.partn.extractLsb' 18 6).toNat * 256 ≤ slot ∨ taken) → ∀ i, (i = .vpark d a k w ∨ i = .vunpark d a k z w) →
      s.Traps i 0x04 op 0x01 (s.ctx.readS a)) ∧
    (¬ (f.toNat ≤ 0x0E ∨ f = 0x14) →
      s.Traps (.vpack d a f) 0x01 0 0x0E (f.setWidth 64) ∧ s.Traps (.vunpk d a f) 0x01 0 0x0E (f.setWidth 64)) ∧
    (f.toNat ≤ 0x0E ∨ f = 0x14 →
      (∃ v : Lanes, s.Does (.vpack d a f) (fun c => c.writeV d v) ∧ ∀ n < 512,
        (getV v (BitVec.ofNat 4 (n / 32))).getLsbD (n % 32) =
          if n < 16 * width then (s.lane a (BitVec.ofNat 4 (n / width))).getLsbD (n % width)
          else (s.lane d (BitVec.ofNat 4 ((n - 16 * width) / 32))).getLsbD ((n - 16 * width) % 32)) ∧
      (∃ v : Lanes, s.Does (.vunpk d a f) (fun c => c.writeV d v) ∧ ∀ (j : BitVec 4) (n : Nat), n < 32 →
        let bit := fun m => (s.lane a (BitVec.ofNat 4 ((width * j.toNat + m) / 32))).getLsbD ((width * j.toNat + m) % 32)
        (getV v j).getLsbD n = match fmtOf f with
          | .int _ true => if n < width then bit n else bit (width - 1)
          | .tern => if n = 0 then bit 0 else bit 0 && bit 1
          | _ => decide (n < width) && bit n))

/-- R133, R134, R145: a vector store writes the four bytes of each active lane, least significant first (`vsct` in
ascending order of lanes, so that the highest lane of an address stays), and leaves every other byte, and every register,
as it was. -/
def Obligations.VectorStores : Prop :=
  ∀ (s : State) (d a b o : Reg) (k : BitVec 3) (w : Bool), s.Full [a] → Memory.wf s.mem = true → s.focus < 2 ^ 21 →
    let at_ := (((s.ctx.readS a).toInt + o.toInt * 64) % 2 ^ 64).toNat
    let lo := s.cur.scratchLo
    let hi := s.cur.scratchHi
    let on := fun j => s.laneOn k j = true
    let stores := fun (i : Instr) (off : BitVec 4 → Nat) => ∃ t, exec i s = .next t ∧
      (∀ j, on j → (∀ q, on q → j.toNat < q.toNat → off q ≠ off j) →
        ∀ n < 4, t.readByte (poolAddr s.focus (off j + n)) = (s.lane d j).extractLsb' (8 * n) 8) ∧
      (∀ x, (∀ j, on j → ∀ n < 4, s.place x ≠ poolAddr s.focus (off j + n)) → t.readByte x = s.readByte x) ∧
      t.ctx = { s.ctx with chain := .empty, word := s.ctx.word + 1 } ∧ t.chans = s.chans ∧ t.net = s.net ∧
      (∀ n, n ≠ s.who → t.ctxAt s.focus n = s.ctxAt s.focus n) ∧ Memory.wf t.mem = true
    let p := fun j => ((s.ctx.readS a).toNat + (s.lane b j).toNat) % 2 ^ 64
    let slot := (s.ctx.readS a).toNat
    (at_ % 64 = 0 → lo ≤ at_ → at_ + 64 ≤ hi → stores (.vst d a o k w) fun j => at_ + 4 * j.toNat) ∧
    ((∀ j, on j → p j % 4 = 0 ∧ lo ≤ p j ∧ p j + 4 ≤ hi) → stores (.vsct d a b k w) p) ∧
    (slot < (s.cur.partn.extractLsb' 18 6).toNat * 256 →
      (∀ t : BitVec 3, slot / 8 < 64 * t.toNat ∨
        64 * t.toNat + ((s.cur.shape t).extractLsb' 0 7).toNat ≤ slot / 8) →
      stores (.vpark d a k w) fun j => s.cur.accuLo + 64 * slot + 4 * j.toNat)

/-- R24, R122, R124, R140 to R144: `vcfg` of 48 aligned scratchpad bytes puts the six words into the bank and changes nothing else,
and is refused at the first stage whose word does not pass; `vrun` of a bank without a valid configuration raises DETAIL
0x11, and one that names no bank runs the block's. A one-stage pass over registers does what the vector instruction of its
operation does, with the fields of its word; a second stage reads the result of the first, moved by LINK. A pass that
converts or copies an input port's token to an output port pops one and pushes one, with the active set as its mask, also
where no lane is active; it leaves the vat six cycles after the issue, and after what the vat issued before (R146, R147); a token
of code 6 counts as data, and one of code 7 makes it a mode pass. The port traps come in the order of R143. The
0x04 of an engine end before the 0x02 of the wrong plane, the FADDR of `vcfg`, and E8M0 results are the model's readings and
choice (log entries 25, 34 and 64). -/
def Obligations.VectorPasses : Prop :=
  ∀ (s : State) (a : Reg) (n : BitVec 4) (k : BitVec 3) (z w : Bool),
    let bank := n.setWidth 5
    let vb : Reg := (1#1 ++ n : BitVec 5)
    let i := Instr.vrun vb k z
    let ws := (getV s.cur.banks n)
    let at_ := (s.ctx.readS a).toNat
    let lo := s.cur.scratchLo
    let hi := s.cur.scratchHi
    let stage := fun i : Nat => BitVec.ofNat 64 (s.readLE (poolAddr s.focus (at_ + 8 * i)) 8)
    let fits := at_ % 8 = 0 ∧ lo ≤ at_ ∧ at_ + 48 ≤ hi
    let goesTo := fun (m : Nat) => ∀ j < m, stageOk j (stage j) = true ∧ (stage j).getLsbD 34 = false
    (s.Full [a] →
      (fits → (∀ i < 6, goesTo i → stageOk i (stage i) = true) →
        ∃ t, exec (.vcfg bank a w) s = .next t ∧ (∀ i : Fin 6, (getV t.cur.banks n)[i] = stage i) ∧
          (∀ m, m ≠ n → getV t.cur.banks m = getV s.cur.banks m) ∧ t.mem = s.mem ∧ t.chans = s.chans ∧
          t.ctx = { s.ctx with chain := .empty, word := s.ctx.word + 1 }) ∧
      (fits → ∀ i < 6, goesTo i → stageOk i (stage i) = false →
        s.Traps (.vcfg bank a w) 0x01 (BitVec.ofNat 8 i) 0x10 (s.ctx.readS a + BitVec.ofNat 64 (8 * i))) ∧
      (at_ % 8 ≠ 0 → s.Traps (.vcfg bank a w) 0x03 (a.setWidth 8) 0 (s.ctx.readS a)) ∧
      (at_ % 8 = 0 → (at_ < lo ∨ hi < at_ + 48) → s.Traps (.vcfg bank a w) 0x04 (a.setWidth 8) 0
        (BitVec.ofNat 64 (if at_ < lo then at_ else max at_ hi)))) ∧
    (ws = Vector.replicate 6 0 → s.Traps i 0x01 (n.setWidth 8) 0x11 0) ∧
    (∀ r : Reg, r.getLsbD 4 = false →
      exec (.vrun r k z) s = exec (.vrun (1#1 ++ (s.runHeader.extractLsb' 20 3).setWidth 4 : BitVec 5) k z) s) ∧
    (∀ x : Word, ws[0] = x → x.getLsbD 34 = true → stageOk 0 x = true → x.extractLsb' 45 2 = 0 → x.extractLsb' 11 2 = 1 →
      x.extractLsb' 32 2 = 1 →
      let op := (x.extractLsb' 0 6).toNat
      let d : Reg := x.extractLsb' 27 5
      let p : Reg := x.extractLsb' 6 5
      let q : Reg := x.extractLsb' 13 5
      let r : Reg := x.extractLsb' 20 5
      let u := s.lane p
      let v := s.lane q
      let y := s.lane r
      let fm : BitVec 5 := x.extractLsb' 35 5
      let sat : BitVec 2 := x.extractLsb' 40 2
      let m : BitVec 3 := x.extractLsb' 42 3
      let rdn := m == 3
      let rounds := fun (f : BitVec 4 → ExNum) =>
        s.WritesVAnd i d k z (fun j => toF32 m (s.drawOf m j) (f j)) (s.drawn m k)
      let converts := fun (f : BitVec 4 → ExNum) => s.WritesVAnd i d k z (fun j =>
        let code := (fmtOf fm).write m sat (s.drawOf m j) (f j)
        match fmtOf fm with
        | .int b true => BitVec.ofInt 32 (if 2 ^ b ≤ 2 * code then (code : Int) - 2 ^ b else code)
        | .tern => BitVec.ofInt 32 (if 4 ≤ 2 * code then (code : Int) - 4 else code)
        | _ => BitVec.ofNat 32 code) (s.drawn m k)
      let as := fun (o : Nat) (j : Instr) => s.ctx.chain = .empty → op = o → exec i s = exec j s
      (x.extractLsb' 18 2 = 1 →
        as 1 (.vadd d p q k z) ∧ as 2 (.vsub d p q k z) ∧ as 3 (.vmul d p q k z) ∧ as 4 (.vmulh d p q k z) ∧
        as 5 (.vmin d p q k z) ∧ as 6 (.vmax d p q k z) ∧ as 9 (.vsll d p q k z) ∧ as 10 (.vsrl d p q k z) ∧
        as 11 (.vsra d p q k z) ∧ as 12 (.vand d p q k z) ∧ as 13 (.vor d p q k z) ∧ as 14 (.vxor d p q k z) ∧
        as 20 (.vfmin d p q k z) ∧ as 21 (.vfmax d p q k z) ∧
        (fm = 0x15 → as 7 (.vadds d p q k z) ∧ as 8 (.vsubs d p q k z)) ∧
        (op = 15 → x.extractLsb' 25 2 = 1 → s.WritesV i d k z fun j => u j * v j + y j) ∧
        (op = 16 → rounds fun j => ExNum.add rdn (f32 (u j)) (f32 (v j))) ∧
        (op = 17 → rounds fun j => ExNum.add rdn (f32 (u j)) (ExNum.neg (f32 (v j)))) ∧
        (op = 18 → rounds fun j => ExNum.mul (f32 (u j)) (f32 (v j))) ∧
        (op = 19 → x.extractLsb' 25 2 = 1 →
          rounds fun j => ExNum.add rdn (ExNum.mul (f32 (u j)) (f32 (v j))) (f32 (y j)))) ∧
      as 22 (.vfabs d p k z) ∧ as 23 (.vfneg d p k z) ∧ as 27 (.vmov d p k z) ∧ as 30 (.vscanAdd d p k z) ∧
      as 31 (.vscanFadd d p k z) ∧ (op = 24 → converts fun j => f32 (u j)) ∧ (op = 25 → converts fun j => ExNum.ofInt (u j).toInt) ∧
      (op = 26 → s.WritesV i d k z fun j => toF32 0 0 ((fmtOf fm).read (u j).toNat)) ∧
      ∀ e : Lane, (op = 28 ∧ s.Does (.vredAdd d p k) (fun c => c.writeV d (Vector.replicate 16 e)) ∨
        op = 29 ∧ s.Does (.vredFadd d p k) (fun c => c.writeV d (Vector.replicate 16 e))) → s.WritesV i d k z fun _ => e) ∧
    (∀ x y : Word, ws[0] = x → ws[1] = y → x.getLsbD 34 = false → y.getLsbD 34 = true → stageOk 0 x = true →
      stageOk 1 y = true → (x.extractLsb' 0 6).toNat = 3 → x.extractLsb' 11 2 = 1 → x.extractLsb' 18 2 = 3 →
      x.extractLsb' 32 2 = 0 → x.extractLsb' 45 2 = 0 → (y.extractLsb' 0 6).toNat = 1 → y.extractLsb' 11 2 = 0 →
      y.extractLsb' 18 2 = 1 → y.extractLsb' 32 2 = 1 →
      let c : Lane := if x.getLsbD 47 then (x.extractLsb' 48 16).signExtend 32 else (x.extractLsb' 48 16 ++ (0 : BitVec 16) : BitVec 32)
      let f := fun j : BitVec 4 => s.lane (x.extractLsb' 6 5) j * c
      s.WritesV i (y.extractLsb' 27 5) k z fun j =>
        (match (y.extractLsb' 45 2).toNat with
          | 0 => f j
          | 1 => if j = 0 then 0 else f (j - 1)
          | _ => if j = 15 then 0 else f (j + 1)) + s.lane (y.extractLsb' 13 5) j) ∧
    (∀ x : Word, ws[0] = x → x.getLsbD 34 = true → stageOk 0 x = true → x.extractLsb' 11 2 = 2 → x.extractLsb' 32 2 = 2 →
      x.extractLsb' 45 2 = 0 → (x.extractLsb' 0 6).toNat = 24 ∨ (x.extractLsb' 0 6).toNat = 27 → ∀ p q : BitVec 4,
      p = x.extractLsb' 6 4 → q = x.extractLsb' 27 4 →
      let converts := (x.extractLsb' 0 6).toNat = 24
      let fm : BitVec 5 := x.extractLsb' 35 5
      let sat : BitVec 2 := x.extractLsb' 40 2
      let m : BitVec 3 := x.extractLsb' 42 3
      (s.inChan s.ctx p = none → s.Traps i 0x06 (p.setWidth 8) 0x01 0) ∧
      ∀ g ch, s.inChan s.ctx p = some (g, ch) →
        (ch.deng ≠ none → s.Traps i 0x06 (p.setWidth 8) 0x04 0) ∧
        (ch.deng = none → ch.vec = false → s.Traps i 0x06 (p.setWidth 8) 0x02 0) ∧
        (ch.deng = none → ch.vec = true →
          (s.outChan s.ctx q = none → s.Traps i 0x06 (q.setWidth 8) 0x01 0) ∧
          ∀ h ch', s.outChan s.ctx q = some (h, ch') →
            (ch'.seng ≠ none → s.Traps i 0x06 (q.setWidth 8) 0x04 0) ∧
            (ch'.seng = none → ch'.vec = false → s.Traps i 0x06 (q.setWidth 8) 0x02 0) ∧
            (ch'.seng = none → ch'.vec = true →
              (getV s.ctx.consRem p = 0 → s.Traps i 0x05 (p.setWidth 8) 0x01 0) ∧
              (getV s.ctx.consRem p ≠ 0 → getV s.ctx.prodRem q = 0 → s.Traps i 0x05 (q.setWidth 8) 0x02 0) ∧
              (getV s.ctx.consRem p ≠ 0 → getV s.ctx.prodRem q ≠ 0 → g ≠ h → ∀ tok rest, ch.queue = tok :: rest →
                let passes := fun (more : State → Token → Prop) => ∃ t y, exec i s = .next t ∧
                  t.chans[g]? = some { ch with queue := rest, owed := ch.owed + 1 } ∧
                  t.chans[h]? = some { ch' with held := ch'.held ++ [⟨y, s.writesOf s.focus s.who, some (s.cur.cycle, max 6 s.cur.vatLeft)⟩] } ∧
                  getV t.ctx.consRem p = getV s.ctx.consRem p - 1 ∧ getV t.ctx.prodRem q = getV s.ctx.prodRem q - 1 ∧
                  t.ctx.v = s.ctx.v ∧ t.ctx.s = s.ctx.s ∧ t.mem = s.mem ∧ t.ctx.status.extractLsb' 4 4 = p ∧
                  t.ctx.status.extractLsb' 1 3 = tok.code ∧ more t y
                let lane := fun j : Nat => tok.payload.extractLsb' (32 * j) 32
                let act := tok.valid &&& s.ctx.readK k
                (∀ c : BitVec 3, (tok.code.toNat ≤ 4 ∧ c = tok.code ∨ tok.code = 6 ∧ c = 0) → passes fun _ y => y.valid = act ∧ y.code = c ∧ ∀ j < 16,
                  (act.getLsbD j = false → y.payload.extractLsb' (32 * j) 32 = 0) ∧
                  (act.getLsbD j = true → ¬ converts → y.payload.extractLsb' (32 * j) 32 = lane j) ∧
                  (act.getLsbD j = true → converts → m ≠ 5 → y.payload.extractLsb' (32 * j) 32 =
                    laneForm fm ((fmtOf fm).write m sat 0 (f32 (lane j))))) ∧
                (tok.code = 7 → passes fun t y => y = ⟨(lane 0).setWidth 512, 1, 7⟩ ∧
                  (∀ b, b ≠ n → getV t.cur.banks b = getV s.cur.banks b) ∧
                  let new := (getV t.cur.banks n)[0]
                  (∀ b < 6, 1 ≤ b → (getV t.cur.banks n)[b]? = ws[b]?) ∧
                  (5 < ((lane 0).extractLsb' 0 3).toNat ∨ (lane 0).extractLsb' 4 2 = 3 ∨ ¬ converts → new = x) ∧
                  (((lane 0).extractLsb' 0 3).toNat ≤ 5 → (lane 0).extractLsb' 4 2 ≠ 3 → converts → ∀ b < 64, new.getLsbD b =
                    if 40 ≤ b ∧ b < 42 then (lane 0).getLsbD (b - 36) else if 42 ≤ b ∧ b < 45 then (lane 0).getLsbD (b - 42)
                    else x.getLsbD b))))))

/-! ## Tiles and the press -/

/-- R21, R324, R325, R327, R328: tile instructions of a context that owns the tile, no queued command targeting it. `tshp` does
what `csrw` of TSHAPEn does: OWNER the context, DIRTY 0. `tclr`, the slice writes and `tld` write the shaped elements they
name and set DIRTY; the slice reads copy elements to lanes, 0 outside the shape. Addresses of `tld` are taken modulo 2^64 (log
entry 38). -/
def Obligations.TileForms : Prop :=
  ∀ (s : State) (n : BitVec 3) (d a b : Reg) (w : Bool), s.Full [a, b] → Memory.wf s.mem = true → s.focus < 2 ^ 21 →
    let tn := n.setWidth 5
    let x := s.ctx.readS a
    let rows := ((s.cur.shape n).extractLsb' 0 7).toNat
    let cols := ((s.cur.shape n).extractLsb' 8 8).toNat
    let r := (x.extractLsb' 0 6).toNat
    let rg := 16 * (x.extractLsb' 8 3).toNat
    let c := (x.extractLsb' 0 7).toNat
    let cg := 16 * (x.extractLsb' 8 2).toNat
    let lane := fun j : Nat => s.lane d (BitVec.ofNat 4 j)
    (s.NoCopies → s.NoImage n → s.cur.tileBusy n = false → x.toNat < 2 ^ 21 →
      x.getLsbD 7 = false → (x.extractLsb' 0 7).toNat ≤ 64 → (x.extractLsb' 8 8).toNat ≤ 128 →
      (x.extractLsb' 0 7 = 0 ↔ x.extractLsb' 8 8 = 0) →
      (x.extractLsb' 0 7 ≠ 0 → (n.toNat + 1) * 32768 ≤ (s.cur.partn.extractLsb' 18 6).toNat * 16384) →
      ∀ i, (i = .tshp tn a w ∨ i = .csrw w a (0x010 + n.setWidth 12)) → ∃ t, exec i s = .next t ∧ t.mem = s.mem ∧
        (t.cur.shape n).extractLsb' 0 16 = x.extractLsb' 0 16 ∧ (t.cur.shape n).extractLsb' 16 4 = s.who ∧
        (t.cur.shape n).extractLsb' 20 44 = 0 ∧ (∀ m, m ≠ n → t.cur.shape m = s.cur.shape m) ∧
        t.ctx = { s.ctx with chain := .empty, word := s.ctx.word + 1 }) ∧
    (s.OwnTile n →
      (s.cur.tileBusy n = false → s.FillsTile (.tclr tn) n (fun _ _ => True) fun _ _ => 0) ∧
      (x.toNat = r + 2 ^ 4 * rg → r < rows → rg < cols →
        s.WritesV (.trowRd d a tn w) d 0 false (fun j => if rg + j.toNat < cols then s.cell n r (rg + j.toNat) else 0) ∧
        (s.cur.tileBusy n = false →
          s.FillsTile (.trowWr d a tn w) n (fun i k => i = r ∧ rg ≤ k ∧ k < rg + 16) fun _ k => lane (k - rg))) ∧
      (x.toNat = c + 2 ^ 4 * cg → c < cols → cg < rows →
        s.WritesV (.tcolRd d a tn w) d 0 false (fun j => if cg + j.toNat < rows then s.cell n (cg + j.toNat) c else 0) ∧
        (s.cur.tileBusy n = false →
          s.FillsTile (.tcolWr d a tn w) n (fun i k => k = c ∧ cg ≤ i ∧ i < cg + 16) fun i _ => lane (i - cg))) ∧
      (∀ f : BitVec 5, f = s.ctx.chain.afmt.getD 0x0F → (f = 0x0D ∨ f = 0x0E ∨ f = 0x0F) →
        let z := if f = 0x0F then 4 else 2
        let st := (s.ctx.readS b).toNat
        let at_ := fun i k => (x.toNat + i * st + k * z) % 2 ^ 64
        x.toNat % z = 0 → st % z = 0 →
        (∀ i < rows, ∀ k < cols, s.cur.scratchLo ≤ at_ i k ∧ at_ i k + z ≤ s.cur.scratchHi) → s.cur.tileBusy n = false →
        s.FillsTile (.tld tn a b w) n (fun _ _ => True) fun i k =>
          let v := s.readLE (poolAddr s.focus (at_ i k)) z
          if f = 0x0F then BitVec.ofNat 32 v else toF32 0 0 ((fmtOf f).read v)))

/-- R252, R323, R324, R326, R328, R329: `tst` writes each shaped element, converted once, to its place in the scratchpad, rows
and columns ascending, so that the last of several elements at one address stays (addresses modulo 2^64: log entry 38); `tsave`
copies the shaped elements (not the rest of the rows: log entry 75) and the shape to the context's save area and clears
DIRTY, `trest` brings them back; a tile unshaped, or shaped by another context, raises tile unconfigured, for every
instruction that names it; a write of a tile that a queued command targets raises DETAIL 0x15, whichever instruction
writes it; `trest` without a saved image raises tile unconfigured, and control write where the image does not fit. While the
column port lets no read of the save header in, each parks. -/
def Obligations.TileStores : Prop :=
  ∀ (s : State) (n : BitVec 3) (d a b f' : Reg) (w : Bool), s.Full [a, b] → Memory.wf s.mem = true → s.focus < 2 ^ 21 →
    let tn := n.setWidth 5
    let x := s.ctx.readS a
    let y' := s.ctx.readS b
    let rows := ((s.cur.shape n).extractLsb' 0 7).toNat
    let cols := ((s.cur.shape n).extractLsb' 8 8).toNat
    let op : BitVec 8 := n.setWidth 8
    let lo := s.cur.scratchLo
    let hi := s.cur.scratchHi
    let col := s.focus * 2 ^ 26 + 3 * 2 ^ 24
    let img := col + 0xC00000 + 0x40000 * s.who.toNat + 0x8000 * n.toNat
    let head := col + 0xBFFC00 + 64 * s.who.toNat + 8 * n.toNat
    let slot := poolAddr s.focus (s.cellAt n 0 0)
    let goesOn := fun t : State => t.ctx = { s.ctx with chain := .empty, word := s.ctx.word + 1 }
    (s.OwnTile n → ∀ f : BitVec 5, f = s.ctx.chain.dfmt.getD 0x0F → (f = 0x0D ∨ f = 0x0E ∨ f = 0x0F) →
      let z := if f = 0x0F then 4 else 2
      let st := y'.toNat
      let at_ := fun i k => (x.toNat + i * st + k * z) % 2 ^ 64
      let last := fun i k => ∀ i' < rows, ∀ k' < cols, at_ i' k' = at_ i k → i' < i ∨ i' = i ∧ k' ≤ k
      let sat := match s.ctx.chain.rnd with
        | some p => p.extractLsb' 20 2
        | none => 0
      x.toNat % z = 0 → st % z = 0 →
      (∀ i < rows, ∀ k < cols, s.cur.scratchLo ≤ at_ i k ∧ at_ i k + z ≤ s.cur.scratchHi) →
      ∃ t, exec (.tst tn a b w) s = .next t ∧ goesOn t ∧ t.cur.tshape = s.cur.tshape ∧
        (∀ i < rows, ∀ k < cols, last i k → t.readLE (poolAddr s.focus (at_ i k)) z =
          (fmtOf f).write s.rm sat 0 (f32 (s.cell n i k)) % 256 ^ z) ∧
        (∀ y, (∀ i < rows, ∀ k < cols, ∀ j < z, s.place y ≠ poolAddr s.focus (at_ i k + j)) → t.readByte y = s.readByte y)) ∧
    (s.SaveAreaOpen s.focus s.who n →
      (s.OwnTile n → ∃ t, exec (.tsave tn) s = .next t ∧ goesOn t ∧
        (∀ r < rows, ∀ j < 4 * cols, t.readByte (img + 512 * r + j) = s.readByte (slot + 512 * r + j)) ∧
        (t.readLE head 8 = 2 ^ 63 + ((s.cur.shape n).extractLsb' 0 20).toNat) ∧
        (∀ y, (∀ r < rows, ∀ j < 4 * cols, s.place y ≠ img + 512 * r + j) → (∀ j < 8, s.place y ≠ head + j) →
          t.readByte y = s.readByte y) ∧
        t.cur.shape n = s.cur.shape n &&& ~~~0x100000 ∧ (∀ m, m ≠ n → t.cur.shape m = s.cur.shape m)) ∧
      (let h := s.readLE head 8
       let saved := h % 128
       let wide := 4 * (h / 256 % 256)
       let fits := 32768 * n.toNat + 512 * saved ≤ (s.cur.partn.extractLsb' 18 6).toNat * 16384
       s.NoCopies →
        (2 ^ 63 ≤ h → h < 2 ^ 63 + 2 ^ 62 → fits → s.cur.tileBusy n = false →
          ∃ t, exec (.trest tn) s = .next t ∧ goesOn t ∧
            (∀ r < saved, ∀ j < wide, t.readByte (slot + 512 * r + j) = s.readByte (img + 512 * r + j)) ∧
            (∀ y, (∀ r < saved, ∀ j < wide, s.place y ≠ slot + 512 * r + j) → t.readByte y = s.readByte y) ∧
            (t.cur.shape n).extractLsb' 0 16 = BitVec.ofNat 16 h ∧ (t.cur.shape n).extractLsb' 16 4 = s.who ∧
            (t.cur.shape n).extractLsb' 20 44 = 0 ∧ (∀ m, m ≠ n → t.cur.shape m = s.cur.shape m)) ∧
        (2 ^ 63 ≤ h → h < 2 ^ 63 + 2 ^ 62 → fits → s.cur.tileBusy n = true → s.Traps (.trest tn) 0x01 op 0x15 0) ∧
        (2 ^ 63 ≤ h → h < 2 ^ 63 + 2 ^ 62 → ¬ fits → s.Traps (.trest tn) 0x0E op 0x03 0) ∧
        (h < 2 ^ 62 → s.Traps (.trest tn) 0x0D op 0 0))) ∧
    (s.NoCopies → s.NoImage n → (rows = 0 ∨ (s.cur.shape n).extractLsb' 16 4 ≠ s.who) →
      (∀ i, (i = .tclr tn ∨ i = .tsave tn ∨ i = .tld tn a b w ∨ i = .tst tn a b w ∨ i = .tnorm d tn f' w) →
        s.Traps i 0x0D op 0 0) ∧
      (x &&& 0xFFFFFFFFFFFFF8C0 = 0 → ∀ i, (i = .trowRd d a tn w ∨ i = .trowWr d a tn w) → s.Traps i 0x0D op 0 0) ∧
      (x &&& 0xFFFFFFFFFFFFFC80 = 0 → ∀ i, (i = .tcolRd d a tn w ∨ i = .tcolWr d a tn w) → s.Traps i 0x0D op 0 0) ∧
      (let ab := (x.extractLsb' 0 20).toNat
       x.toNat < 2 ^ 32 → (x.extractLsb' 27 3).toNat ≤ 4 → x.getLsbD 30 = false → x.extractLsb' 20 3 = n →
        y'.toNat < 2 ^ 20 → ab % 64 = 0 → y'.toNat % 64 = 0 → lo ≤ ab → ab + 64 ≤ hi → lo ≤ y'.toNat → y'.toNat + 64 ≤ hi →
        s.Traps (.pmm d a b f' w) 0x0D op 0 0)) ∧
    (s.headerPort s.focus s.who n = .wait →
      ∀ i, (i = .tclr tn ∨ i = .tsave tn ∨ i = .trest tn ∨ i = .tld tn a b w ∨ i = .tst tn a b w ∨ i = .tnorm d tn f' w) →
        ∃ t, exec i s = .next t ∧ t.cur.turn = false ∧ t.mem = s.mem ∧
          t.ctx = { s.ctx with park := .tile (some n), word := BitVec.ofNat 7 s.ctx.first, chain := .empty }) ∧
    (s.OwnTile n → s.cur.tileBusy n = true →
      s.Traps (.tclr tn) 0x01 op 0x15 0 ∧
      (x &&& 0xFFFFFFFFFFFFF8C0 = 0 → (x.extractLsb' 0 6).toNat < rows → 16 * (x.extractLsb' 8 3).toNat < cols →
        s.Traps (.trowWr d a tn w) 0x01 op 0x15 0) ∧
      (x &&& 0xFFFFFFFFFFFFFC80 = 0 → (x.extractLsb' 0 7).toNat < cols → 16 * (x.extractLsb' 8 2).toNat < rows →
        s.Traps (.tcolWr d a tn w) 0x01 op 0x15 0) ∧
      (let z := if s.ctx.chain.afmt.getD 0x0F = 0x0F then 4 else 2
       x.toNat % z = 0 → y'.toNat % z = 0 →
        (∀ i < rows, ∀ k < cols, let q := (x.toNat + i * y'.toNat + k * z) % 2 ^ 64; lo ≤ q ∧ q + z ≤ hi) →
        s.Traps (.tld tn a b w) 0x01 op 0x15 0))

/-- R334, R335, R337, R338, R341, R342: commands at issue. An accepted `pmm` or `tnorm` joins the queue with what it captured
and marks s[d] empty; a queue whose entries are taken, or awaited by the held commands of a resumed region (R357), parks the
context at the instruction; `arst` zeroes an accumulator that no queued
command names; `pstatus` writes the press status word. -/
def Obligations.PressIssue : Prop :=
  ∀ (s : State) (n : BitVec 3) (m : BitVec 2) (d a b f : Reg) (w zt : Bool), s.Full [a, b] → s.NoCopies →
    let tn := n.setWidth 5
    let x := s.ctx.readS a
    let y := s.ctx.readS b
    let ab := (x.extractLsb' 0 20).toNat
    let bb := (y.extractLsb' 0 20).toNat
    let ha := BitVec.ofNat 64 (s.readLE (poolAddr s.focus ab) 8)
    let hb := BitVec.ofNat 64 (s.readLE (poolAddr s.focus bb) 8)
    let ga := setGeom ha
    let gb := setGeom hb
    let lo := s.cur.scratchLo
    let hi := s.cur.scratchHi
    let queued := fun (i : Instr) (good : PressCmd → Prop) =>
      (s.cur.pressQ.length < 4 → (∀ q ∈ s.cur.held, q.back = false) → ∃ t p, exec i s = .next t ∧
        t.cur.pressQ = s.cur.pressQ ++ [p] ∧ p.ctx = s.who ∧
        p.graph = s.ctx.graph ∧ p.dreg = d ∧ p.ladder = s.ctx.pladder ∧ p.budget = s.ctx.pbudget ∧ p.phase = .queued ∧
        p.left = 2 ∧ good p ∧ t.mem = s.mem ∧ t.ctx = { s.ctx with full := setV s.ctx.full d false, chain := .empty, word := s.ctx.word + 1 }) ∧
      (4 ≤ s.cur.pressQ.length ∨ (∃ q ∈ s.cur.held, q.back = true) → ∃ t, exec i s = .next t ∧ t.cur.pressQ = s.cur.pressQ ∧ t.cur.turn = false ∧
        t.ctx = { s.ctx with park := .press, word := BitVec.ofNat 7 s.ctx.first, chain := .empty } ∧ t.mem = s.mem)
    (d ≠ 0 → x.toNat < 2 ^ 32 → (x.extractLsb' 27 3).toNat ≤ 4 → y.toNat < 2 ^ 20 → ab % 64 = 0 → bb % 64 = 0 →
      lo ≤ ab → ab + 64 ≤ hi → lo ≤ bb → bb + 64 ≤ hi →
      ha.getLsbD 63 = true → ha.getLsbD 62 = false → hb.getLsbD 63 = true → hb.getLsbD 62 = true →
      ha.extractLsb' 0 13 = hb.extractLsb' 0 13 → (ga.gamma = 0 ∨ gb.gamma = 0 ∨ ga.gamma = gb.gamma) →
      (∀ i ≤ (s.ctx.pladder.extractLsb' 40 2).toNat, (s.ctx.pladder.extractLsb' (10 * i) 5).toNat ≤ (ha.extractLsb' 43 5).toNat ∧
        (s.ctx.pladder.extractLsb' (10 * i + 5) 5).toNat ≤ (hb.extractLsb' 43 5).toNat) →
      (x.getLsbD 30 = true → ga.block = 0 ∧ gb.block = 0 ∧ ga.sc = false ∧ gb.sc = false) →
      (x.getLsbD 30 = false → s.OwnTile (x.extractLsb' 20 3)) →
      queued (.pmm d a b f w) fun p => p.isPmm = true ∧ p.cmdWord = x ∧ p.bWord = y ∧ p.hdrA = ha ∧ p.hdrB = hb ∧
        p.fscale = s.ctx.readF f ∧ p.tile = x.extractLsb' 20 3 ∧ p.acc = x.extractLsb' 23 2 ∧ p.zt = x.getLsbD 31 ∧
        p.shape = s.cur.shape (x.extractLsb' 20 3)) ∧
    (d ≠ 0 → s.OwnTile n → queued (.tnorm d tn (m.setWidth 5) zt) fun p => p.isPmm = false ∧ p.tile = n ∧ p.acc = m ∧
      p.zt = zt ∧ p.shape = s.cur.shape n) ∧
    (s.cur.accBusy m = false → ∃ t, exec (.arst (m.setWidth 5)) s = .next t ∧ getV t.cur.acc m = [] ∧
      (∀ k, k ≠ m → getV t.cur.acc k = getV s.cur.acc k) ∧ t.mem = s.mem ∧
      t.ctx = { s.ctx with chain := .empty, word := s.ctx.word + 1 }) ∧
    (s.cur.accBusy m = true → s.Traps (.arst (m.setWidth 5)) 0x01 (m.setWidth 8) 0x15 0) ∧
    (s.cur.pressQ.length ≤ 4 → ∃ v : Word, s.WritesS (.pstatus d) d v ∧ (v.extractLsb' 5 3).toNat = s.cur.pressQ.length ∧
      (∀ k : BitVec 3, v.getLsbD (8 + k.toNat) = s.cur.tileBusy k) ∧ (∀ k : BitVec 2, v.getLsbD (16 + k.toNat) = s.cur.accBusy k) ∧
      v.getLsbD 2 = (s.cur.moulds[0]).isSome ∧ v.getLsbD 3 = (s.cur.moulds[1]).isSome ∧
      (∀ q, s.cur.moulds[0] = some q → v.extractLsb' 20 4 = q.owner) ∧
      (∀ q, s.cur.moulds[1] = some q → v.extractLsb' 24 4 = q.owner) ∧ v.extractLsb' 28 36 = 0)

/-- R330 to R334: `mcfg` of a good word makes the slot the issuing context's with an empty FIFO and writes the new set's
header with VALID and NREC 0; `plda` and `pldb` take sixteen elements, from v[a] or one token's lanes; for the integer
formats they land at once as planes or digits, NREC counts them and VALID is set with the last.
R346: the elements of a set with blocks wait in the FIFO for the last of their block; it lands aligned to its greatest exponent, each
element rounded once, an MX block with its scale, one with a NaN or an infinity as its mark and zeros. -/
def Obligations.MouldForms : Prop :=
  ∀ (s : State) (a : Reg) (w : Bool) (m : Word), s.NoCopies → Memory.wf s.mem = true → s.focus < 2 ^ 21 →
    let b := m.getLsbD 1
    let slot := if b then 1 else 0
    let base := (m.extractLsb' 10 20).toNat
    let kk := (m.extractLsb' 51 13).toNat + 1
    let ww := (m.extractLsb' 35 5).toNat
    let port : BitVec 4 := m.extractLsb' 3 4
    let scl := s.ctx.chain.scl
    let head := fun t : State => t.readLE (poolAddr s.focus base) 8
    (s.Full [a] → (∀ p, scl = some p → s.Full [p.extractLsb' 20 5]) → s.ctx.readS a = m → base % 64 = 0 →
      mouldRefused m scl = false → scl.bind (mouldPrefixFault m) = none →
      (m.getLsbD 2 = true → ∃ n ch, s.inChan s.ctx port = some (n, ch) ∧ ch.vec = true) →
      s.cur.scratchLo ≤ base → base + (setGeom (mouldHeader m scl)).bytes ≤ s.cur.scratchHi →
      (let at_ := match scl with
        | some p => (s.ctx.readS (p.extractLsb' 20 5) + BitVec.ofNat 64 (64 * (p.extractLsb' 10 10).toNat)).toNat
        | none => 0
       (∀ p, scl = some p → s.cur.scratchLo ≤ at_ ∧ at_ + scaleBytes m p ≤ s.cur.scratchHi) →
        ∃ t, exec (.mcfg a w) s = .next t ∧ t.cur.moulds[slot]? = some (some ⟨m, s.who, at_, scl, []⟩) ∧
        head t / 2 ^ 63 = 0 ∧ head t / 2 ^ 13 % 2 ^ 21 = 0 ∧ head t % 2 ^ 13 + 1 = kk ∧ head t / 2 ^ 43 % 2 ^ 5 = ww ∧
        head t / 2 ^ 48 % 2 ^ 5 = (m.extractLsb' 30 5).toNat ∧ head t / 2 ^ 53 % 2 ^ 3 = (m.extractLsb' 40 3).toNat ∧
        head t / 2 ^ 62 % 2 = (if b then 1 else 0) ∧ t.readLE (poolAddr s.focus (base + 8)) 56 = 0 ∧
        (∀ y, (∀ j < 64, s.place y ≠ poolAddr s.focus (base + j)) → t.readByte y = s.readByte y) ∧
        t.ctx = { s.ctx with chain := .empty, word := s.ctx.word + 1 })) ∧
    (∀ q, s.cur.moulds[slot]? = some (some q) → q.word = m → q.owner = s.who → head s < 2 ^ 63 →
      let pld := if b then Instr.pldb else Instr.plda
      (m.getLsbD 2 = false → ∃ t, exec (pld a) s = .next t ∧
        t.mem = (s.feed s.focus slot q ((List.range 16).map fun j => s.lane a (BitVec.ofNat 4 j))).mem ∧
        t.ctx = { s.ctx with chain := .empty, word := s.ctx.word + 1 }) ∧
      (∀ n ch tok rest, m.getLsbD 2 = true → s.inChan s.ctx port = some (n, ch) → ch.deng = none → ch.vec = true →
        getV s.ctx.consRem port ≠ 0 → ch.queue = tok :: rest → ∃ t, exec (pld 0) s = .next t ∧
          t.mem = (s.feed s.focus slot q ((List.range 16).map fun j =>
            if tok.valid.getLsbD j then tok.payload.extractLsb' (32 * j) 32 else 0)).mem ∧
          t.chans[n]? = some { ch with queue := rest, owed := ch.owed + 1 } ∧
          getV t.ctx.consRem port = getV s.ctx.consRem port - 1 ∧ t.ctx.s = s.ctx.s) ∧
      (∀ (xs : List Lane) (fm : BitVec 5), xs.length = 16 → fm = m.extractLsb' 30 5 →
        (fm = 0 ∧ ww = 2 ∨ (fm = 1 ∨ fm = 2) ∧ ww = 4 ∨ (fm = 3 ∨ fm = 4) ∧ ww = 8) → m.extractLsb' 40 3 = 0 →
        q.scl = none → q.fifo = [] → kk % 16 = 0 →
        let t := s.feed s.focus slot q xs
        let nrec := head s / 2 ^ 13 % 2 ^ 21
        let row := nrec / kk
        let rows := if b then 128 else 64
        nrec % 16 = 0 → nrec < rows * kk →
        head t / 2 ^ 13 % 2 ^ 21 = nrec + 16 ∧ (2 ^ 63 ≤ head t ↔ nrec + 16 = rows * kk) ∧
        head t % 2 ^ 13 = head s % 2 ^ 13 ∧ head t / 2 ^ 34 % 2 ^ 29 = head s / 2 ^ 34 % 2 ^ 29 ∧
        ∀ j (h : j < xs.length), let k := nrec % kk + j
          (b = false → ∀ p < ww, (t.readByte (poolAddr s.focus (base + 64 + 8 * (k * ww + p) + row / 8))).getLsbD (row % 8) =
            xs[j].getLsbD (ww - 1 - p)) ∧
          (b = true → (t.readByte (poolAddr s.focus (base + 64 + 128 * k + row))).toNat =
            xs[j].toNat % 2 ^ ww * 2 ^ (8 - ww))) ∧
      (∀ xs : List Lane, xs.length = 16 →
        let g := setGeom (mouldHeader m q.scl)
        let run := q.fifo ++ xs
        let nrec := head s / 2 ^ 13 % 2 ^ 21 + 16
        let row := (nrec - g.block) / kk
        let k0 := (nrec - g.block) % kk
        let i := row * (kk / g.block) + k0 / g.block
        let t := s.feed s.focus slot q xs
        g.block ≠ 0 → mouldRefused m q.scl = false → nrec ≤ (if b then 128 else 64) * kk → 2 ≤ ww → kk % g.block = 0 →
        (run.length < g.block → head t / 2 ^ 13 % 2 ^ 21 = nrec ∧
          (∀ y, (∀ j < 8, s.place y ≠ poolAddr s.focus (base + j)) → t.readByte y = s.readByte y) ∧
          t.cur.moulds[slot]? = some (some { q with fifo := run })) ∧
        (run.length = g.block → nrec % g.block = 0 →
          head t / 2 ^ 13 % 2 ^ 21 = nrec ∧ (2 ^ 63 ≤ head t ↔ nrec = (if b then 128 else 64) * kk) ∧
          t.cur.moulds[slot]? = some (some { q with fifo := [] }) ∧
          ∃ (e : Int) (n : Nat → Int),
            t.readLE (poolAddr s.focus (base + g.expOff + 2 * i)) 2 = (e % 2 ^ 16).toNat ∧
            (∀ j < g.block,
              (b = false → ∀ p < ww, (t.readByte (poolAddr s.focus (base + 64 + 8 * ((k0 + j) * ww + p) + row / 8))).getLsbD (row % 8) =
                decide (n j / 2 ^ (ww - 1 - p) % 2 = 1)) ∧
              (b = true → ∀ p < (ww + 7) / 8,
                (t.readByte (poolAddr s.focus (base + 64 + 128 * ((k0 + j) * ((ww + 7) / 8) + p) + row))).toNat =
                  (n j % 2 ^ ww * 2 ^ (8 * ((ww + 7) / 8) - ww) / 256 ^ ((ww + 7) / 8 - 1 - p) % 256).toNat)) ∧
            let one := if 0x10 ≤ g.fmt.toNat ∧ g.fmt.toNat ≤ 0x13
              then (fmtOf 0x17).read (s.readByte (poolAddr s.focus (q.scaleBase + i))).toNat else .fin false 1 0
            let v := fun j : Nat => ExNum.mul ((fmtOf g.fmt).read (run.getD j 0).toNat) one
            let nan := ∃ j < g.block, v j = .nan
            let inf := ∃ j < g.block, v j = .inf true ∨ v j = .inf false
            let live := fun j => ∃ sg man x, v j = .fin sg man x ∧ man ≠ 0
            (nan → e = 0x7FFF) ∧ (¬ nan → inf → e = 0x7FFE) ∧ (nan ∨ inf → ∀ j < g.block, n j = 0) ∧
            (¬ nan → ¬ inf →
              ((∀ j < g.block, ¬ live j) → e = 0 ∧ ∀ j < g.block, n j = 0) ∧
              ((∃ j < g.block, live j) →
                (∃ j < g.block, ∃ sg man x, v j = .fin sg man x ∧ man ≠ 0 ∧ (Nat.log2 man : Int) + x = e + (ww - 2)) ∧
                ∀ j < g.block, ∀ sg man x, v j = .fin sg man x →
                  (man ≠ 0 → (Nat.log2 man : Int) + x ≤ e + (ww - 2)) ∧
                  n j = (let r := roundAt 0 0 sg man x e
                    if sg then -(r : Int) else if r = 2 ^ (ww - 1) then (r : Int) - 1 else r))))))

/-- R337, R339, R340, R341, R349, R352, R353, R356, R357: events of the press. The first command starts once what it acquires is
visible and its two cycles have passed, with its accumulator's value kept, and its pass takes the tile's elements (none with ZT or
KEEP) and its cycles; one that a pre-emption has put back starts from rung 0 too, its tile brought back first
where its image is pending; as entries are free, the commands held by a pre-emption re-enter behind the others, marked
restarted. A pass whose cycles have passed commits if it is good, or goes to the next rung where a count exceeds its limit and
a rung is left; a checksum mismatch reruns it, a second one ends it with ERR. The commit, after its own cycles, writes the captured
shape, fills s[d] with the status word and frees the entry; that s[d] fills with REL = 1 too as soon as the commit has ended, its
writes being the pool's own, is the model's reading (log entry 39), and so is the time at which a command is said to have
ended (log entry 104). For a parked context whose region goes on, dirty tiles of others are saved in ascending order and
then the pending image of the tile it names is brought back, each once the column port is open to it. That a pass reads the
pool at its end event, and writes a KEEP accumulator when it is accepted, is the model's reading (log entry 37). -/
def Obligations.PressEvents : Prop :=
  (∀ (s : State) (cid : Nat) (p : PressCmd) (rest : List PressCmd), (s.core cid).pressQ = p :: rest →
    let back := fun n : Nat => (((s.core cid).held.filter fun q => q.back).take (4 - n)).map fun q =>
      { q with rst := true, back := false }
    let head := fun (i : Instr) (more : List PressCmd) (f : PressCmd → Prop) => ∃ t q, exec i s = .next t ∧ t.mem = s.mem ∧
      (t.core cid).pressQ = q :: (rest ++ more) ∧ f q
    let r := if p.isPmm then s.pmmPass cid p else s.tnormPass cid p
    let past := (p.budget.extractLsb' 16 16).toNat < r.ucnt ∨ (p.budget.extractLsb' 0 16).toNat < r.scnt ∨
      (p.budget.extractLsb' 32 16).toNat < r.ccnt
    let more := p.rung < (p.ladder.extractLsb' 40 2).toNat
    let keep := p.isPmm = true ∧ p.cmdWord.getLsbD 30 = true
    let rows := (p.shape.extractLsb' 0 7).toNat
    let cols := (p.shape.extractLsb' 8 8).toNat
    let cycles := fun i : Nat => if p.isPmm then 12 + (setGeom p.hdrA).k * (p.ladder.extractLsb' (10 * i) 5).toNat *
      (((p.ladder.extractLsb' (10 * i + 5) 5).toNat + 7) / 8) else 12
    let begins := fun (t : State) (q y : PressCmd) (wait : Nat) =>
      q = { y with result := q.result, left := cycles y.rung + wait } ∧ (p.zt = true ∨ keep → q.result = []) ∧
        (p.zt = false → ¬ keep → cols ≤ 128 → ∀ r < rows, ∀ c < cols, assocGet q.result (r * 128 + c) =
          some (BitVec.ofNat 32 (t.readLE (poolAddr cid ((s.core cid).elemAt p.tile r c)) 4)))
    let first := { p with phase := .running, rung := 0, replays := 0, chkr := 0, rerun := false, snapshot := getV (s.core cid).acc p.acc }
    (p.left ≠ 0 →
      (p.phase = .queued → head (.pressCommandStart cid) (back (rest.length + 1)) fun q => q = p) ∧
      (∀ b, p.phase = .running → exec (.pressPassEnd cid b) s = .next s) ∧
      (p.phase = .committing → exec (.pressCommitEnd cid) s = .next s)) ∧
    (p.phase = .queued → p.left = 0 → p.rst = false ∨ keep → (p.isPmm = true → p.cmdWord.getLsbD 25 = true →
        ∀ id ∈ p.acq, s.invisible (scopeCode (p.cmdWord.extractLsb' 27 3)) cid id = false) →
      head (.pressCommandStart cid) (back (rest.length + 1)) fun q => begins s q first 0) ∧
    (p.phase = .queued → p.left = 0 → p.rst = true → ¬ keep → (p.isPmm = true → p.cmdWord.getLsbD 25 = false) → cid < 2 ^ 21 → Memory.wf s.mem = true → s.SaveAreaOpen cid p.ctx p.tile →
      let h := s.readLE (cid * 2 ^ 26 + 3 * 2 ^ 24 + 0xBFFC00 + 64 * p.ctx.toNat + 8 * p.tile.toNat) 8
      let img := cid * 2 ^ 26 + 3 * 2 ^ 24 + 0xC00000 + 0x40000 * p.ctx.toNat + 0x8000 * p.tile.toNat
      let slot := poolAddr cid ((s.core cid).accuLo + 32768 * p.tile.toNat)
      let started := fun (t : State) (wait : Nat) => ∃ q, (t.core cid).pressQ = q :: (rest ++ back (rest.length + 1)) ∧
        begins t q first wait
      (h % 2 ^ 63 < 2 ^ 62 → ∃ t, exec (.pressCommandStart cid) s = .next t ∧ started t 0 ∧ t.mem = s.mem) ∧
      (2 ^ 62 ≤ h % 2 ^ 63 → 32768 * p.tile.toNat + 512 * (h % 128) ≤ (s.core cid).accuBytes →
        (((s.core cid).shape p.tile).extractLsb' 0 7 = 0 ∨ ((s.core cid).shape p.tile).getLsbD 20 = false ∨
          ((s.core cid).shape p.tile).extractLsb' 16 4 = p.ctx) →
        ∃ t, exec (.pressCommandStart cid) s = .next t ∧ started t (8 + 16 * (h % 128)) ∧
          (∀ j < 512 * (h % 128), t.readByte (slot + j) = s.readByte (img + j)) ∧
          ((t.core cid).shape p.tile).extractLsb' 0 16 = BitVec.ofNat 16 h ∧
          ((t.core cid).shape p.tile).extractLsb' 16 4 = p.ctx)) ∧
    (p.phase = .running → p.left = 0 →
      (p.isPmm = true → past → more → head (.pressPassEnd cid false) [] fun q =>
        begins s q { p with rung := p.rung + 1, replays := p.replays + 1, rerun := false } 0) ∧
      ((p.isPmm = false ∨ ¬ past ∨ ¬ more) → head (.pressPassEnd cid false) [] fun q => q.phase = .committing ∧
        q.result = r.result ∧ q.scnt = r.scnt ∧ q.ucnt = r.ucnt ∧ q.ccnt = r.ccnt ∧ q.rung = p.rung ∧
        (q.bex = true ↔ p.isPmm = true ∧ past) ∧ q.replays = p.replays ∧ q.chkr = p.chkr ∧
        (keep → q.left = 2) ∧ (¬ keep → p.err = false → q.left = rows + 2)) ∧
      (p.isPmm = true → p.rerun = false →
        head (.pressPassEnd cid true) [] fun q => begins s q { p with rerun := true, chkr := p.chkr + 1 } 0) ∧
      (p.isPmm = true → p.rerun = true → (∃ t l, exec (.pressPassEnd cid true) s = .next t ∧
          t.module.log.getLast? = some l ∧ l.cls = 1 ∧ l.kind = 0x08) ∧
        head (.pressPassEnd cid true) [] fun q => q.phase = .committing ∧ q.err = true ∧ q.scnt = r.scnt ∧ q.ucnt = r.ucnt ∧
          q.ccnt = r.ccnt ∧ q.left = 2)) ∧
    (p.phase = .committing → p.left = 0 → s.focus = cid → cid < 2 ^ 21 → Memory.wf s.mem = true →
      (s.ctxAt cid p.ctx).bound = true → (s.ctxAt cid p.ctx).graph = p.graph →
      rows ≤ 64 → cols ≤ 128 →
      ∃ (t : State) (v : Word), exec (.pressCommitEnd cid) s = .next t ∧ (t.core cid).pressQ = rest ++ back rest.length ∧
        t.ctxAt cid p.ctx = (s.ctxAt cid p.ctx).writeS p.dreg v ∧ v.getLsbD 6 = p.rst ∧
        (v.getLsbD 5 = true ↔ ∃ c, getV (s.core cid).accUser p.acc = some c ∧ c ≠ p.ctx) ∧
        v.extractLsb' 16 16 = BitVec.ofNat 16 p.scnt ∧ v.extractLsb' 0 5 = 0 ∧
        (p.isPmm = true → v.getLsbD 7 = p.err ∧ v.getLsbD 8 = p.bex ∧ v.extractLsb' 14 2 = BitVec.ofNat 2 p.rung ∧
          v.extractLsb' 12 2 = BitVec.ofNat 2 p.replays ∧ v.extractLsb' 9 3 = BitVec.ofNat 3 p.chkr ∧
          v.extractLsb' 32 16 = BitVec.ofNat 16 p.ucnt ∧ v.extractLsb' 48 16 = BitVec.ofNat 16 p.ccnt) ∧
        (p.isPmm = false → v.extractLsb' 7 9 = 0 ∧ v.extractLsb' 32 32 = 0) ∧
        ((p.err = true ∨ p.isPmm = true ∧ p.cmdWord.getLsbD 30 = true) → t.mem = s.mem) ∧
        (p.err = false → (p.isPmm = false ∨ p.cmdWord.getLsbD 30 = false) →
          (∀ i < rows, ∀ k < cols, t.cell p.tile i k = (assocGet p.result (i * 128 + k)).getD 0) ∧
          (∀ x, (∀ i < rows, ∀ k < cols, ∀ j < 4, s.place x ≠ poolAddr cid (s.cellAt p.tile i k + j)) →
            t.readByte x = s.readByte x) ∧
          (t.cur.shape p.tile).getLsbD 20 = true ∧ (p.isPmm = true → getV t.cur.acc p.acc = [])))) ∧
  ∀ (s : State) (cid : Nat) (n : BitVec 3) (y : BitVec 4) (g : Graph), cid < 2 ^ 21 → Memory.wf s.mem = true →
    (s.ctxAt cid y).bound = true → (s.ctxAt cid y).saved = false → s.graph? (s.ctxAt cid y).graph = some g →
    g.st ≠ .halting → g.st ≠ .saved → g.st ≠ .halted →
    let shape := (s.core cid).shape n
    let owner : BitVec 4 := shape.extractLsb' 16 4
    let img := fun x : BitVec 4 => cid * 2 ^ 26 + 3 * 2 ^ 24 + 0xC00000 + 0x40000 * x.toNat + 0x8000 * n.toNat
    let head := fun x : BitVec 4 => cid * 2 ^ 26 + 3 * 2 ^ 24 + 0xBFFC00 + 64 * x.toNat + 8 * n.toNat
    let slot := poolAddr cid ((s.core cid).accuLo + 32768 * n.toNat)
    (∀ w, (s.ctxAt cid y).park = .tile w → 1 ≤ (shape.extractLsb' 0 7).toNat → (shape.extractLsb' 0 7).toNat ≤ 64 →
      shape.getLsbD 20 = true → owner ≠ y → (∀ p ∈ (s.core cid).pressQ, p.targets n = false) →
      (∀ m, m.toNat < n.toNat → ((s.core cid).shape m).extractLsb' 0 7 ≠ 0 → ((s.core cid).shape m).getLsbD 20 = true →
        ((s.core cid).shape m).extractLsb' 16 4 = y) → s.SaveAreaOpen cid owner n →
      ∃ t, exec (.tileSaveCopy cid n.toNat) s = .next t ∧ (t.core cid).shape n = shape &&& ~~~0x100000 ∧
        t.readLE (head owner) 8 = 2 ^ 63 + 2 ^ 62 + (shape.extractLsb' 0 20).toNat ∧
        ∀ j < 512 * (shape.extractLsb' 0 7).toNat, t.readByte (img owner + j) = s.readByte (slot + j)) ∧
    (let h := s.readLE (head y) 8
     (s.ctxAt cid y).park = .tile (some n) → 2 ^ 62 ≤ h % 2 ^ 63 →
      32768 * n.toNat + 512 * (h % 128) ≤ (s.core cid).accuBytes →
      (∀ m, ((s.core cid).shape m).extractLsb' 0 7 ≠ 0 → ((s.core cid).shape m).getLsbD 20 = true →
        ((s.core cid).shape m).extractLsb' 16 4 = y) → s.SaveAreaOpen cid y n →
      ∃ t, exec (.tileRestoreCopy cid y.toNat n.toNat) s = .next t ∧
        (∀ j < 512 * (h % 128), t.readByte (slot + j) = s.readByte (img y + j)) ∧
        t.readLE (head y) 8 = h - 2 ^ 62 ∧ ((t.core cid).shape n).extractLsb' 16 4 = y ∧
        ((t.core cid).shape n).extractLsb' 0 16 = BitVec.ofNat 16 h ∧ ((t.core cid).shape n).getLsbD 20 = false)

/-- R337, R338, R341, R347, R349, R350, R351: what a pass of a `pmm` computes. On integer sets without blocks, scales or zero points:
with KEEP the sums of products, which an accepted pass leaves added to the accumulator's snapshot modulo 2^80 (R354), else each
element's base plus the product scaled by f[c] and rounded to FP32 once, in each of its 64 × 128 or shaped places. On any sets, group
by group in ascending order: Z with the zero points, G with the exponents, scales and f[c], rounded once, a special group the
canonical NaN, and R + G rounded once; SCNT, UCNT and CCNT as the table of R351. `tnorm` adds the cell, and counts what overflows
(an infinite base does not: log entry 39).
The base is what the pass took at its start; the integers are read at the rung's widths, their low planes as 0. That a pass reads the pool at its end event, and writes a KEEP accumulator when it is
accepted, is the model's reading (log entry 37). -/
def Obligations.PressProducts : Prop :=
  ∀ (s : State) (cid : Nat) (p : PressCmd),
    let ga := setGeom p.hdrA
    let gb := setGeom p.hdrB
    let aa := fun r k => s.getAligned cid (p.cmdWord.extractLsb' 0 20).toNat ga r k
    let bb := fun c k => s.getAligned cid (p.bWord.extractLsb' 0 20).toNat gb c k
    let cut := fun (w aw : Nat) (n : Int) => n - n % 2 ^ (w - aw)
    let sum := fun r c => ((List.range ga.k).map fun k =>
      cut ga.w (p.ladder.extractLsb' (10 * p.rung) 5).toNat (aa r k) *
        cut gb.w (p.ladder.extractLsb' (10 * p.rung + 5) 5).toNat (bb c k)).foldl (fun x y => x + y) 0
    let base := fun r c => if p.zt then (0 : BitVec 32) else (assocGet p.result (r * 128 + c)).getD 0
    let wild := fun x : ExNum => decide (x = .nan ∨ x = .inf true ∨ x = .inf false)
    let rows := (p.shape.extractLsb' 0 7).toNat
    let cols := (p.shape.extractLsb' 8 8).toNat
    (p.isPmm = true → p.phase = .running → p.left = 0 → (s.core cid).pressQ.head? = some p → p.cmdWord.getLsbD 30 = true →
      ((s.pmmPass cid p).ucnt ≤ (p.budget.extractLsb' 16 16).toNat ∨ (p.ladder.extractLsb' 40 2).toNat ≤ p.rung) →
      ga.block = 0 → gb.block = 0 → ga.sc = false → gb.sc = false → ga.zp = false → gb.zp = false → ga.group = 0 →
      gb.group = 0 → ga.k = gb.k →
      ∃ t, exec (.pressPassEnd cid false) s = .next t ∧ t.mem = s.mem ∧ ∀ r < 64, ∀ c < 128,
        (assocGet (getV (t.core cid).acc p.acc) (r * 128 + c)).getD 0 =
          (assocGet p.snapshot (r * 128 + c)).getD 0 + BitVec.ofInt 80 (sum r c)) ∧
    (ga.block = 0 → gb.block = 0 → ga.sc = false → gb.sc = false → ga.zp = false → gb.zp = false →
      ga.group = 0 → gb.group = 0 → ga.k = gb.k →
      (p.cmdWord.getLsbD 30 = true → ∀ r < 64, ∀ c < 128,
        assocGet (s.pmmPass cid p).sums (r * 128 + c) = some (BitVec.ofInt 80 (sum r c))) ∧
      (p.cmdWord.getLsbD 30 = false → rows ≤ 64 → cols ≤ 128 → ∀ r < rows, ∀ c < cols, ∀ sg m e, f32 p.fscale = .fin sg m e →
        assocGet (s.pmmPass cid p).result (r * 128 + c) = some (toF32 0 0 (ExNum.add false (f32 (base r c))
          (f32 (toF32 0 0 (ExNum.mul (ExNum.ofInt (sum r c)) (f32 p.fscale)))))))) ∧
    (let pass := s.pmmPass cid p
     let keep := p.cmdWord.getLsbD 30
     let lost := fun (w aw n k : Nat) (f : Nat → Nat → Int) =>
       ((List.range n).flatMap fun i => (List.range k).map (f i)).countP fun x => decide (x ≠ 0 ∧ x.natAbs < 2 ^ (w - aw))
     pass.ucnt = min 0xFFFF
       (lost ga.w (p.ladder.extractLsb' (10 * p.rung) 5).toNat (if keep then 64 else rows) ga.k aa +
         lost gb.w (p.ladder.extractLsb' (10 * p.rung + 5) 5).toNat (if keep then 128 else cols) gb.k bb) ∧
     (keep = true → pass.scnt = 0 ∧ pass.ccnt = 0) ∧
     (keep = false → ga.k = gb.k → rows ≤ 64 → cols ≤ 128 →
       let half := fun at_ : Nat => (BitVec.ofNat 16 (s.readLE (poolAddr cid at_) 2)).toInt
       let expo := fun (at_ : Nat) (t : SetGeom) (i g : Nat) => if t.block = 0 then 0 else half (at_ + t.expOff + 2 * (i * t.blocks + g))
       let zero := fun (at_ : Nat) (t : SetGeom) (i g : Nat) => if t.zp then half (at_ + t.zeroOff + 2 * (i * t.groups + g)) else 0
       let scale := fun (at_ : Nat) (t : SetGeom) (i g : Nat) => if t.sc
         then f32 (BitVec.ofNat 32 (s.readLE (poolAddr cid (at_ + t.scaleOff + 4 * (i * t.groups + g))) 4)) else .fin false 1 0
       let ab := (p.cmdWord.extractLsb' 0 20).toNat
       let bb' := (p.bWord.extractLsb' 0 20).toNat
       let len := fun t : SetGeom => if t.block ≠ 0 then t.block else t.group
       let gam := if len ga ≠ 0 then len ga else if len gb ≠ 0 then len gb else ga.k
       let n := ga.k / gam
       let a := fun r k => cut ga.w (p.ladder.extractLsb' (10 * p.rung) 5).toNat (aa r k)
       let b := fun c k => cut gb.w (p.ladder.extractLsb' (10 * p.rung + 5) 5).toNat (bb c k)
       let total := fun (g : Nat) (f : Nat → Int) => ((List.range gam).map fun j => f (g * gam + j)).foldl (fun x y => x + y) 0
       let z := fun r c g => total g (fun k => a r k * b c k) - zero bb' gb c g * total g (a r) - zero ab ga r g * total g (b c) +
         gam * zero ab ga r g * zero bb' gb c g
       let m := fun r c g => total g fun k => ((a r k - zero ab ga r g).natAbs * (b c k - zero bb' gb c g).natAbs : Nat)
       let bad := fun r c g => decide (expo ab ga r g = 0x7FFE ∨ expo ab ga r g = 0x7FFF ∨ expo bb' gb c g = 0x7FFE ∨
         expo bb' gb c g = 0x7FFF) || wild (scale ab ga r g) || wild (scale bb' gb c g) || wild (f32 p.fscale)
       let val := fun r c g => if bad r c g then (0x7FC00000 : BitVec 32) else toF32 0 0 (ExNum.mul (ExNum.mul (ExNum.mul
         (ExNum.scale (expo ab ga r g + expo bb' gb c g) (ExNum.ofInt (z r c g))) (scale ab ga r g)) (scale bb' gb c g))
         (f32 p.fscale))
       let count := fun f : Nat → Nat → Nat → Bool => min 0xFFFF
         (((List.range rows).flatMap fun r => (List.range cols).map fun c => (r, c)).countP fun q => (List.range n).any (f q.1 q.2))
       ∃ R : Nat → Nat → Nat → BitVec 32,
         (∀ r < rows, ∀ c < cols, R r c 0 = base r c ∧
           (∀ g < n, R r c (g + 1) = toF32 0 0 (ExNum.add false (f32 (R r c g)) (f32 (val r c g)))) ∧
           assocGet pass.result (r * 128 + c) = some (R r c n)) ∧
         pass.scnt = count (fun r c g => !bad r c g && wild (f32 (val r c g)) ||
           !wild (f32 (R r c g)) && !wild (f32 (val r c g)) && wild (f32 (R r c (g + 1)))) ∧
         pass.ccnt = count fun r c g => m r c g != 0 && (z r c g == 0 ||
           decide ((p.budget.extractLsb' 48 8).toNat + Nat.log2 (z r c g).natAbs < Nat.log2 (m r c g).natAbs)))) ∧
    (rows ≤ 64 → cols ≤ 128 →
      let sum := fun r c => toF32 0 0 (ExNum.add false (f32 (base r c))
        (ExNum.ofInt ((assocGet (getV (s.core cid).acc p.acc) (r * 128 + c)).getD 0).toInt))
      (∀ r < rows, ∀ c < cols, assocGet (s.tnormPass cid p).result (r * 128 + c) = some (sum r c)) ∧
      (s.tnormPass cid p).ucnt = 0 ∧ (s.tnormPass cid p).ccnt = 0 ∧
      (s.tnormPass cid p).scnt = min 0xFFFF (((List.range rows).flatMap fun r => (List.range cols).map fun c => (r, c)).countP
        fun q => !wild (f32 (base q.1 q.2)) && wild (f32 (sum q.1 q.2))))

/-! ## Stream engines -/

/-- R210, R219 to R224: `sopen` of an accepted record leaves the engine open with the record and this context its holder;
`sgo` starts an open engine's command and marks s[d] and s[d+1] empty; `sstop` ends a running one with KIND 1, which then
waits for no translation; `sstat`
reads the status word; `sparm` writes a field of an open engine's record, or is pending while a command runs. Each raises
its trap where another context holds the engine, or where its state, the offset or the word does not suit; a closed engine,
which no context holds, raises illegal instruction for `sgo` and `sparm` and lets `sstop` do nothing. Between two rounds of a command
the pending value is applied, then a parameter token is taken from PPORT or waited for, a marker there ending the command and a
bad token changing nothing, and then the bases of the round are checked: KIND 4 and 5; before the first round the bases alone. -/
def Obligations.EngineForms : Prop :=
  let applies := fun (x : Word) (r r' : Vector Word 9) =>
    let sel := (x.extractLsb' 60 4).toNat
    (sel = 0 → r' = r.set 0 ((x.extractLsb' 0 60).setWidth 64)) ∧
    (sel = 1 → r' = r.set 1 ((x.extractLsb' 0 60).setWidth 64)) ∧
    (sel = 2 → r' = r.set 8 ((x.extractLsb' 0 60).setWidth 64)) ∧
    (4 ≤ sel → (∀ i : Fin 9, i ≠ 3 → r'[i] = r[i]) ∧
      ∀ j < 4, r'[3].extractLsb' (16 * j) 16 = if j = sel - 4 then x.extractLsb' 0 16 else r[3].extractLsb' (16 * j) 16)
  let good := fun x : Word =>
    let sel := (x.extractLsb' 60 4).toNat
    sel = 0 ∨ sel = 1 ∨ sel = 2 ∨ 4 ≤ sel ∧ sel ≤ 7 ∧ x.extractLsb' 16 44 = 0
  (∀ (s : State) (g : BitVec 2) (d a : Reg) (w : Bool), s.Full [a] →
    let gn := g.setWidth 5
    let e := s.eng s.focus g
    let x := s.ctx.readS a
    let r : Vector Word 9 := Vector.ofFn fun i => BitVec.ofNat 64 (s.readLE (poolAddr s.focus (x.toNat + 8 * i.val)) 8)
    let idle := e.st = .closed ∨ e.st = .opened
    let code : BitVec 3 := match e.st with
      | .closed => 0
      | .opened => 1
      | .running => 2
      | .waitPort => 3
      | .waitXlate => 4
      | .halted => 5
      | .paused => 6
    let inside := s.cur.scratchLo ≤ x.toNat ∧ x.toNat + 72 ≤ s.cur.scratchHi
    let sel := (x.extractLsb' 60 4).toNat
    (idle → x.toNat % 8 = 0 → inside → s.recordPort s.ctx g.toNat r[2] = none → recordFault r = none →
      s.SetsEngine (.sopen gn a w) g { e with st := .opened, holder := some s.who, record := r } id) ∧
    (¬ idle → s.Traps (.sopen gn a w) 0x01 (g.setWidth 8) 0x12 (code.setWidth 64)) ∧
    (idle → x.toNat % 8 ≠ 0 → s.Traps (.sopen gn a w) 0x03 (a.setWidth 8) 0 x) ∧
    (idle → x.toNat % 8 = 0 → ¬ inside → s.Traps (.sopen gn a w) 0x04 (a.setWidth 8) 0 x) ∧
    (idle → x.toNat % 8 = 0 → inside → s.recordPort s.ctx g.toNat r[2] = none → ∀ i, recordFault r = some i →
      s.Traps (.sopen gn a w) 0x01 (BitVec.ofNat 8 i) 0x13 (x + BitVec.ofNat 64 (8 * i))) ∧
    (∀ h, e.holder = some h → h ≠ s.who → ∀ i, (i = .sgo d gn ∨ i = .sstop gn ∨ i = .sparm gn a w) →
      s.Traps i 0x0A (g.setWidth 8) 0x05 0) ∧
    (e.holder = some s.who ∨ e.holder = none → d.toNat ≤ 30 →
      (e.st = .opened → ∃ e' : Engine, e'.st = .running ∧ e'.cmd = .stream ∧ e'.record = e.record ∧ e'.dreg = d ∧
        e'.holder = some s.who ∧ e'.roundsRun = 0 ∧ e'.elems = 0 ∧ e'.idx = 0 ∧ e'.boundary = true ∧ e'.ending = none ∧
        e'.parm = none ∧ (e.record[2].getLsbD 36 = true → e'.acq = s.writesOf s.focus s.who) ∧
        s.SetsEngine (.sgo d gn) g e' fun c =>
          if d = 0 then c else { c with full := setV (setV c.full d false) (d + 1) false }) ∧
      (e.st ≠ .opened → s.Traps (.sgo d gn) 0x01 (g.setWidth 8) 0x12 (code.setWidth 64)) ∧
      (¬ idle → e.ending = none → s.SetsEngine (.sstop gn) g { e with
        ending := some (1, 0), waitMiss := none, st := if e.st = .waitXlate then .running else e.st } id) ∧
      (¬ idle → e.ending ≠ none → s.Does (.sstop gn) id) ∧
      (idle → s.Does (.sstop gn) id) ∧
      (good x → (¬ idle → s.SetsEngine (.sparm gn a w) g { e with parm := some x } id) ∧
        (e.st = .opened → ∃ r', s.SetsEngine (.sparm gn a w) g { e with record := r' } id ∧ applies x e.record r')) ∧
      (e.st = .closed → s.Traps (.sparm gn a w) 0x01 (g.setWidth 8) 0x12 0) ∧
      (e.st ≠ .closed → (sel = 3 ∨ 8 ≤ sel ∨ 4 ≤ sel ∧ x.extractLsb' 16 44 ≠ 0) →
        s.Traps (.sparm gn a w) 0x01 (a.setWidth 8) 0x0E x)) ∧
    (∃ v : Word, s.WritesS (.sstat d gn) d v ∧ v.extractLsb' 12 3 = code ∧ v.extractLsb' 0 4 = g.setWidth 4 ∧
      v.extractLsb' 4 4 = e.holder.getD 0 ∧ v.extractLsb' 8 4 = e.kind ∧ v.extractLsb' 16 8 = BitVec.ofNat 8 e.roundsRun ∧
      v.extractLsb' 24 40 = BitVec.ofNat 40 e.elems ∧ v.getLsbD 15 = false)) ∧
  ∀ (s : State) (cid : Nat) (g : BitVec 2), s.EngineGoes cid g →
    let e := s.eng cid g
    let i := Instr.engineRoundBoundary cid g.toNat
    let becomes := fun e' : Engine => ∃ t, exec i s = .next t ∧ t.eng cid g = e' ∧ t.mem = s.mem ∧ t.chans = s.chans
    let begins := fun (r : Vector Word 9) (is : Engine → Prop) =>
      let e0 := { e with record := r, parm := if e.roundsRun = 0 then e.parm else none, boundary := false, st := .running }
      let sf : BitVec 5 := r[2].extractLsb' 0 5
      let df : BitVec 5 := r[2].extractLsb' 5 5
      let ext := fun j : Nat => if j ≤ (r[2].extractLsb' 28 2).toNat then (r[3].extractLsb' (16 * j) 16).toNat + 1 else 1
      let end_ := fun (far : Bool) (p q : Word) =>
        let t := fun (j : Nat) (x : BitVec 32) => let y := ((ext j : Int) - 1) * x.toInt; if far then max 0 y else min 0 y
        t 0 (p.extractLsb' 0 32) + t 1 (p.extractLsb' 32 32) + t 2 (q.extractLsb' 0 32) + t 3 (q.extractLsb' 32 32)
      let lowest := fun (base p q : Word) (z : Nat) => (base.toNat : Int) + end_ false p q * z
      let beyond := fun (base p q : Word) (z : Nat) => (base.toNat : Int) + (end_ true p q + 1) * z
      let out := fun (k : Nat) (base p q : Word) (z : Nat) =>
        let lim : Int × Int := if k = 0 then ((s.core cid).scratchLo, (s.core cid).scratchHi) else (0, 2 ^ 26)
        if k ≠ 0 ∧ k ≠ 2 then none
        else if lowest base p q z < lim.1 then some (lowest base p q z)
        else if lim.2 < beyond base p q z then some (max lim.2 (lowest base p q z)) else none
      let sk := (r[2].extractLsb' 16 2).toNat
      let dk := (r[2].extractLsb' 18 2).toNat
      let sz := (fmtOf sf).bits / 8
      let dz := (fmtOf df).bits / 8
      let bads := sk = 3 ∧ r[0].toNat % sz ≠ 0
      let badd := dk = 3 ∧ r[1].toNat % dz ≠ 0
      r[2].getLsbD 15 = false → (sf = 0x03 ∨ sf = 0x04 ∨ sf = 0x0D ∨ sf = 0x0E ∨ sf = 0x0F ∨ sf = 0x14 ∨ sf = 0x15) →
      (df = 0x03 ∨ df = 0x04 ∨ df = 0x0D ∨ df = 0x0E ∨ df = 0x0F ∨ df = 0x14 ∨ df = 0x15) →
      (bads → is { e0 with ending := some (4, r[0]) }) ∧ (¬ bads → badd → is { e0 with ending := some (4, r[1]) }) ∧
      (¬ bads → ¬ badd →
        (∀ a, out sk r[0] r[4] r[5] sz = some a → is { e0 with ending := some (5, BitVec.ofInt 64 a) }) ∧
        (out sk r[0] r[4] r[5] sz = none →
          (∀ a, out dk r[1] r[6] r[7] dz = some a → is { e0 with ending := some (5, BitVec.ofInt 64 a) }) ∧
          (out dk r[1] r[6] r[7] dz = none → is { e0 with idx := 0, sOff := 0, dOff := 0 })))
    e.cmd = .stream → e.boundary = true → ∀ r : Vector Word 9,
      (e.roundsRun = 0 ∧ r = e.record ∨ 0 < e.roundsRun ∧
        ((e.parm = none ∧ r = e.record) ∨ ∃ x, e.parm = some x ∧ good x ∧ applies x e.record r)) →
      (e.roundsRun = 0 ∨ r[2].getLsbD 49 = false → begins r becomes) ∧
      (0 < e.roundsRun → r[2].getLsbD 49 = true →
        ∀ n ch, s.inChan (s.ctxAt cid (e.holder.getD 0)) (r[2].extractLsb' 50 4) = some (n, ch) →
        (ch.queue = [] → becomes { e with record := r, parm := none, st := .waitPort, waits := some n }) ∧
        (∀ tok rest, ch.queue = tok :: rest →
          let x := tok.payload.extractLsb' 0 64
          let took := fun e' : Engine => ∃ t, exec i s = .next t ∧ t.eng cid g = e' ∧ t.mem = s.mem ∧
            t.chans[n]? = some { ch with queue := rest, owed := ch.owed + 1 } ∧ ∀ m, m ≠ n → t.chans[m]? = s.chans[m]?
          (tok.code = 5 → becomes { e with record := r, parm := none, st := .running, ending := some (0, 0) }) ∧
          (tok.code ≠ 5 → (¬ good x → begins r took) ∧ (good x → ∀ r', applies x r r' → begins r' took))))

/-- R219, R221, R226, R227, R303: a transfer of an accepted descriptor starts on a closed or open engine and marks s[d] and s[d+1]
empty; `xsplice` also makes the column port double the writes of the old pieces from then on, and is refused to a context whose
graph is no pager; that it is refused before the state and the descriptor are judged, and that CPORT must be 0 without CTOK, are the
model's choices (log entries 35 and 93). With CTOK the completion port must be an engine end of that engine. The other traps come
in the order of R219: the state with its code, the offset, the scratchpad, the descriptor's word.
A transfer begins where the ranges of its bases lie inside the scratchpad or the column, else ends with KIND 5. A beat of a splice,
read at the old piece up to a multiple of 32 (the model's reading, log entry 97), goes to the new frame as a message behind those
that the port has sent; a store at the old piece is performed there and sent on while the copy runs, and only sent on once it is
complete. That a splice to a core that is not present ends with KIND 2 is the model's choice (log entry 93). -/
def Obligations.TransferForms : Prop :=
  (∀ (s : State) (g : BitVec 2) (d b : Reg) (w : Bool), s.Full [b] → d.toNat ≤ 30 →
    let gn := g.setWidth 5
    let e := s.eng s.focus g
    let at_ := (s.ctx.readS b).toNat
    let word := fun i : Nat => BitVec.ofNat 64 (s.readLE (poolAddr s.focus (at_ + 8 * i)) 8)
    let x := word 3
    let len := (word 2).toNat
    let idle := e.st = .closed ∨ e.st = .opened
    let inside := at_ % 8 = 0 ∧ s.cur.scratchLo ≤ at_ ∧ at_ + 32 ≤ s.cur.scratchHi
    let common := x.toNat < 2 ^ 14 ∧ (x.extractLsb' 6 3).toNat ≤ 4 ∧ x.extractLsb' 0 2 ≠ 1 ∧ x.extractLsb' 2 2 ≠ 1
    let starts := fun (i : Instr) (cmd : EngCmd) (more : State → Prop) => ∃ t, exec i s = .next t ∧
      (t.eng s.focus g).st = .running ∧ (t.eng s.focus g).cmd = cmd ∧ (t.eng s.focus g).holder = some s.who ∧
      (t.eng s.focus g).dreg = d ∧ (∀ i : Fin 4, (t.eng s.focus g).desc[i] = word i) ∧ (t.eng s.focus g).elems = 0 ∧
      (t.eng s.focus g).idx = 0 ∧ (t.eng s.focus g).boundary = true ∧ (∀ h, h ≠ g → t.eng s.focus h = s.eng s.focus h) ∧
      t.ctx = { s.ctx with
        full := if d = 0 then s.ctx.full else setV (setV s.ctx.full d false) (d + 1) false
        chain := .empty
        word := s.ctx.word + 1 } ∧ t.mem = s.mem ∧ t.chans = s.chans ∧ more t
    let noSplice := fun t : State => t.cur.splices = s.cur.splices
    let pager := ∃ x, s.graph? s.ctx.graph = some x ∧ x.pager = true
    (idle → inside → common → 1 ≤ len → len < 2 ^ 40 →
      (x.getLsbD 9 = false → x.extractLsb' 10 4 = 0) →
      (x.getLsbD 9 = true → ∃ n ch, s.outChan s.ctx (x.extractLsb' 10 4) = some (n, ch) ∧ ch.seng = some g.toNat) →
      starts (.xcopy d gn b w) .copy noSplice ∧
      (x.extractLsb' 0 2 = 0 → starts (.xfill d gn b w) .fill noSplice) ∧
      (pager → x.extractLsb' 0 2 = 0 → len ≤ 256 → (word 0).toNat % 2 ^ 18 = 0 → (word 0).toNat + len * 2 ^ 18 ≤ 2 ^ 26 →
        (word 1).toNat % 2 ^ 18 = 0 → (word 1).toNat < 2 ^ 47 → (word 1).toNat % 2 ^ 26 + len * 2 ^ 18 ≤ 2 ^ 26 →
        starts (.xsplice d gn b w) .splice fun t => t.cur.splices = s.cur.splices ++
          [⟨g, s.focus * 2 ^ 26 + (word 0).toNat, len * 2 ^ 18, (word 1).toNat, 0, false, false⟩])) ∧
    (idle → inside → x.getLsbD 9 = true →
      (∀ n ch, s.outChan s.ctx (x.extractLsb' 10 4) = some (n, ch) → ch.seng ≠ some g.toNat) →
      ∀ i, (i = .xcopy d gn b w ∨ i = .xfill d gn b w) → s.Traps i 0x06 ((x.extractLsb' 10 4).setWidth 8) 0x05 0) ∧
    (¬ pager → s.Traps (.xsplice d gn b w) 0x0A (g.setWidth 8) 0x06 0) ∧
    (idle → inside → (len = 0 ∨ 2 ^ 40 ≤ len) → x.getLsbD 9 = false → ∀ i, (i = .xcopy d gn b w ∨ i = .xfill d gn b w) →
      s.Traps i 0x01 0x02 0x13 (s.ctx.readS b + 16)) ∧
    (let code : Word := match e.st with
       | .closed => 0
       | .opened => 1
       | .running => 2
       | .waitPort => 3
       | .waitXlate => 4
       | .halted => 5
       | .paused => 6
     ∀ i, (i = .xcopy d gn b w ∨ i = .xfill d gn b w ∨ i = .xsplice d gn b w ∧ pager) →
       (¬ idle → s.Traps i 0x01 (g.setWidth 8) 0x12 code) ∧
       (idle → at_ % 8 ≠ 0 → s.Traps i 0x03 (b.setWidth 8) 0 (s.ctx.readS b)) ∧
       (idle → at_ % 8 = 0 → ¬ inside → s.Traps i 0x04 (b.setWidth 8) 0 (s.ctx.readS b))) ∧
    (idle → inside → pager → (x.getLsbD 9 = true → ∃ n ch, s.outChan s.ctx (x.extractLsb' 10 4) = some (n, ch) ∧ ch.seng = some g.toNat) →
      len < 2 ^ 40 →
      let no := fun n : Nat => s.Traps (.xsplice d gn b w) 0x01 (BitVec.ofNat 8 n) 0x13 (s.ctx.readS b + BitVec.ofNat 64 (8 * n))
      let bad0 := (word 0).toNat % 2 ^ 18 ≠ 0 ∨ 2 ^ 26 < (word 0).toNat + len * 2 ^ 18
      let bad1 := (word 1).toNat % 2 ^ 18 ≠ 0 ∨ 2 ^ 47 ≤ (word 1).toNat ∨ 2 ^ 26 < (word 1).toNat % 2 ^ 26 + len * 2 ^ 18
      let bad2 := len = 0 ∨ 256 < len
      let bad3 := 2 ^ 14 ≤ x.toNat ∨ 4 < (x.extractLsb' 6 3).toNat ∨ x.extractLsb' 0 2 ≠ 0 ∨ x.extractLsb' 2 2 = 1 ∨
        x.getLsbD 9 = false ∧ x.extractLsb' 10 4 ≠ 0
      (bad0 → no 0) ∧ (¬ bad0 → bad1 → no 1) ∧ (¬ bad0 → ¬ bad1 → bad2 → no 2) ∧ (¬ bad0 → ¬ bad1 → ¬ bad2 → bad3 → no 3))) ∧
  (∀ (s : State) (cid : Nat) (g : BitVec 2), cid < 2 ^ 21 → s.EngineGoes cid g →
    let e := s.eng cid g
    let src := e.desc[0].toNat
    let dst := e.desc[1].toNat
    let len := (e.desc[2].extractLsb' 0 40).toNat
    (e.boundary = true → e.roundsRun = 0 →
      let becomes := fun e' : Engine => ∃ t, exec (.engineRoundBoundary cid g.toNat) s = .next t ∧ t.eng cid g = e' ∧
        t.mem = s.mem ∧ t.chans = s.chans
      let begun := { e with boundary := false, st := .running, idx := 0, sOff := 0, dOff := 0 }
      let ends := fun (k : BitVec 4) (x : Nat) => becomes { e with boundary := false, st := .running, ending := some (k, BitVec.ofNat 64 x) }
      let out := fun (k : BitVec 2) (at_ : Nat) =>
        let lo := if k = 0 then (s.core cid).scratchLo else 0
        let hi := if k = 0 then (s.core cid).scratchHi else 2 ^ 26
        if k ≠ 0 ∧ k ≠ 2 then none else if at_ < lo then some at_ else if hi < at_ + len then some (max hi at_) else none
      let outs := out (e.desc[3].extractLsb' 0 2) src
      let outd := out (e.desc[3].extractLsb' 2 2) dst
      (e.cmd = .copy → ∀ x, outs = some x → ends 5 x) ∧ (e.cmd = .copy → outs = none → ∀ x, outd = some x → ends 5 x) ∧
      (e.cmd = .copy → outs = none → outd = none → becomes begun) ∧
      (e.cmd = .fill → (∀ x, outd = some x → ends 5 x) ∧ (outd = none → becomes begun)) ∧
      (e.cmd = .splice → (s.present (addrCore dst) = true → becomes begun) ∧ (s.present (addrCore dst) = false → ends 2 dst))) ∧
    (e.boundary = false → e.cmd = .splice → e.idx < len * 2 ^ 18 → src + len * 2 ^ 18 ≤ 2 ^ 26 →
      let a := cid * 2 ^ 26 + src + e.idx
      let home := dst + e.idx
      let n := min (32 - (src + e.idx) % 32) (len * 2 ^ 18 - e.idx)
      s.rejected a n = false → s.reachable cid a n = .open_ →
      ∃ t q, exec (.engineElement cid g.toNat) s = .next t ∧ t.mem = s.mem ∧ t.chans = s.chans ∧ t.net = s.net ++ [q] ∧ q.id = s.nextId ∧
        q.dst = addrCore home ∧ q.via = some cid ∧ q.entry = false ∧ q.body = .forward home n (BitVec.ofNat 256 (leNat (s.readBytes a n))) ∧
        (t.core cid).splices = (s.core cid).splices.map (fun p =>
          if p.eng = g ∧ p.complete = false ∧ p.aborted = false then { p with copied := e.idx + n } else p) ∧
        (t.eng cid g).idx = e.idx + n ∧ (t.eng cid g).elems = e.elems + n ∧ (t.eng cid g).writes = e.writes ++ [q.id] ∧
        (t.eng cid g).st = .running ∧ ((t.eng cid g).ending = if len * 2 ^ 18 ≤ e.idx + n then some (0, 0) else none))) ∧
  ∀ (s : State) (m : Msg) (a n : Nat) (x : Word) (p : Splice), s.msg? m.id = some m → m.entry = false → s.firstAtPort m = true →
    m.body = .store a n x → s.portAt a n m.src m.ctx m.id = .open_ → s.rejected a n = false → Memory.wf s.mem = true →
    (∀ i j, i < n → j < n → s.place (a + i) = s.place (a + j) → i = j) → s.spliceAt a = some p → p.aborted = false →
    let home := p.new + (a - p.old)
    let goes := fun (body : MsgBody) (is : State → Prop) => ∃ t q, exec (.ownerPortAccess m.id) s = .next t ∧
      t.net = s.net.filter (fun y => y.id != m.id) ++ [q] ∧ q.dst = addrCore home ∧ q.via = some m.dst ∧ q.src = m.src ∧ q.body = body ∧ is t
    (p.complete = false → goes (.forward home n (BitVec.ofNat 256 (x.toNat % 256 ^ n))) fun t =>
      (∀ i < n, (t.readByte (a + i)).toNat = x.toNat / 256 ^ i % 256) ∧
      ∀ b, (∀ i < n, s.place b ≠ s.place (a + i)) → t.readByte b = s.readByte b) ∧
    (p.complete = true → home ≠ a → goes (.store home n x) fun t => t.mem = s.mem)

/-- A part of `Obligations.EngineEvents` (R215, R216): an element of whole bytes in the core's column or at a virtual address, or
taken from a port or sent to one. -/
def Sys2Proof.Machine.State.ElementsElsewhere (s : State) (cid : Nat) (g : BitVec 2) : Prop :=
  let e := s.eng cid g
  let r := e.record
  let lo := (s.core cid).scratchLo
  let hi := (s.core cid).scratchHi
  let reads := fun e' : Engine => ∃ t, exec (.engineElement cid g.toNat) s = .next t ∧ t.eng cid g = { e' with st := .running } ∧
    t.mem = s.mem ∧ t.chans = s.chans
  ∀ (sf df : BitVec 5) (i0 i1 i2 i3 : Nat), s.EngineGoes cid g → e.boundary = false → e.cmd = .stream → e.part = [] →
    e.runs = [] → r[2].extractLsb' 0 5 = sf → r[2].extractLsb' 5 5 = df → r[2].getLsbD 15 = false →
    let ext := fun j : Nat => if j ≤ (r[2].extractLsb' 28 2).toNat then (r[3].extractLsb' (16 * j) 16).toNat + 1 else 1
    i0 < ext 0 → i1 < ext 1 → i2 < ext 2 → i3 < ext 3 → e.idx = i0 + ext 0 * (i1 + ext 1 * (i2 + ext 2 * i3)) →
    let total := ext 0 * ext 1 * ext 2 * ext 3
    let lin := fun (p q : Word) (i : Nat) => (i : Int) * (p.extractLsb' 0 32).toInt + (i1 : Int) * (p.extractLsb' 32 32).toInt +
      (i2 : Int) * (q.extractLsb' 0 32).toInt + (i3 : Int) * (q.extractLsb' 32 32).toInt
    let at_ := fun (base p q : Word) (z : Nat) => ((base.toNat + lin p q i0 * z) % 2 ^ 64).toNat
    let ks := (r[2].extractLsb' 16 2).toNat
    let kd := (r[2].extractLsb' 18 2).toNat
    let sat : BitVec 2 := r[2].extractLsb' 13 2
    let rm : BitVec 3 := r[2].extractLsb' 10 3
    let c := s.ctxAt cid (e.holder.getD 0)
    let i := Instr.engineElement cid g.toNat
    let rounds := (r[2].extractLsb' 56 8).toNat
    let round := fun e' : Engine => e'.roundsRun = e.roundsRun + 1 ∧ (rounds = e.roundsRun + 1 → e'.ending = some (0, 0)) ∧
      (rounds = 0 ∨ e.roundsRun + 1 < rounds → e'.ending = none ∧ e'.boundary = true)
    let stepped := fun (t : State) (k : Nat) => (t.eng cid g).elems = e.elems + k ∧ (t.eng cid g).runs = [] ∧
      (e.idx + k < total → (t.eng cid g).idx = e.idx + k ∧ (t.eng cid g).st = .running ∧ (t.eng cid g).ending = none ∧
        (t.eng cid g).boundary = false) ∧
      (e.idx + k = total → round (t.eng cid g))
    let only := fun (t : State) (n : Nat) => ∀ m, m ≠ n → t.chans[m]? = s.chans[m]?
    let waits := fun n : Nat => ∃ t, exec i s = .next t ∧ t.eng cid g = { e with st := .waitPort, waits := some n } ∧ t.mem = s.mem ∧
      t.chans = s.chans
    let ends := fun (k : BitVec 4) (x : Nat) => ∃ t, exec i s = .next t ∧ t.mem = s.mem ∧ t.chans = s.chans ∧
      t.eng cid g = { e with ending := some (k, BitVec.ofNat 64 x) }
    let whole := fun f : BitVec 5 => f = 0x03 ∨ f = 0x04 ∨ f = 0x0D ∨ f = 0x0E ∨ f = 0x0F ∨ f = 0x14 ∨ f = 0x15
    (e.raw = [] → whole sf → whole df →
      let sz := (fmtOf sf).bits / 8
      let dz := (fmtOf df).bits / 8
      let out := fun code : Nat => if sf = df then code else (fmtOf df).write rm sat 0 ((fmtOf sf).read code)
      let sa := at_ r[0] r[4] r[5] sz
      let da := at_ r[1] r[6] r[7] dz
      (e.got = [] → sa % sz = 0 →
        (∀ addr, s.EngineAt cid g ks sa sz false addr → reads { e with got := [out (s.readLE addr sz)] }) ∧
        (ks = 2 → 2 ^ 26 < sa + sz → ends 5 (max sa (2 ^ 26))) ∧ (ks = 3 → 2 ^ 54 ≤ sa → ends 3 sa) ∧
        (ks = 3 → sa < 2 ^ 54 → (∀ d, s.xlate cid c.graph sa true false = .fault d → ends 2 sa) ∧
          (s.xlate cid c.graph sa true false = .miss → ∃ t z, exec i s = .next t ∧ t.mem = s.mem ∧ t.misses = s.misses ++ [z] ∧
            z.hub = cid / 16 ∧ z.waiter = .engine cid g.toNat ∧ z.asn = c.graph ∧ z.va = sa ∧ z.read = true ∧ z.write = false ∧
            t.eng cid g = { e with waitMiss := some z.id }))) ∧
      (∀ x addr, e.got = [x] → da % dz = 0 → s.EngineAt cid g kd da dz true addr →
        (∀ j k, j < dz → k < dz → s.place (addr + j) = s.place (addr + k) → j = k) → ∃ t, exec i s = .next t ∧ stepped t 1 ∧
        (t.eng cid g).got = [] ∧ (∀ j < dz, t.readByte (addr + j) = BitVec.ofNat 8 (x / 256 ^ j)) ∧
        (∀ y, (∀ j < dz, s.place y ≠ s.place (addr + j)) → t.readByte y = s.readByte y) ∧ t.chans = s.chans) ∧
      (∀ n ch, ks = 1 → e.got = [] → s.inChan c (r[2].extractLsb' 20 4) = some (n, ch) →
        let takes := fun (rest : List Token) (e' : Engine) => ∃ t, exec i s = .next t ∧ t.eng cid g = { e' with st := .running } ∧
          t.mem = s.mem ∧ t.chans[n]? = some { ch with queue := rest, owed := ch.owed + 1 } ∧ only t n
        (∀ x l, e.srcLanes = x :: l → reads { e with srcLanes := l, got := [out (x.toNat % 2 ^ (8 * sz))] }) ∧
        (e.srcLanes = [] → ch.queue = [] → waits n) ∧
        (∀ tok rest, e.srcLanes = [] → ch.queue = tok :: rest →
          (tok.code ≠ 5 → ch.vec = false →
            takes rest { e with got := [out ((tok.payload.extractLsb' 0 64).toNat % 2 ^ (8 * sz))] }) ∧
          (tok.code ≠ 5 → ch.vec = true → takes rest { e with
            srcLanes := ((List.range 16).filter fun j => tok.valid.getLsbD j).map fun j => tok.payload.extractLsb' (32 * j) 32 }) ∧
          (tok.code = 5 → e.lanes = [] → ∃ t, exec i s = .next t ∧ t.mem = s.mem ∧ t.chans = s.chans ∧ round (t.eng cid g) ∧
            (rounds = 0 ∨ e.roundsRun + 1 < rounds → (t.eng cid g).st = .paused ∧ (t.eng cid g).pausedAt = c.invocations)))) ∧
      (∀ x n ch, kd = 1 → e.got = [x] → x < 2 ^ (8 * dz) → s.outChan c (r[2].extractLsb' 24 4) = some (n, ch) →
        let last := fun j : Nat => decide (i0 + 1 = ext 0 ∧ (1 ≤ j → i1 + 1 = ext 1) ∧ (2 ≤ j → i2 + 1 = ext 2) ∧ (3 ≤ j → i3 + 1 = ext 3))
        let code : BitVec 3 := if r[2].getLsbD 35 && last 3 then 4 else if r[2].getLsbD 34 && last 2 then 3
          else if r[2].getLsbD 33 && last 1 then 2 else if r[2].getLsbD 32 && last 0 then 1 else 0
        let signed := df = 0x03 ∨ df = 0x14 ∨ df = 0x15
        let value : Int := if signed ∧ 2 ^ (8 * dz) ≤ 2 * x then (x : Int) - 2 ^ (8 * dz) else x
        let l := e.lanes ++ [BitVec.ofInt 32 value]
        let full := ch.vec = false ∨ l.length = 16 ∨ i0 + 1 = ext 0
        let sends := fun (more : Token → Prop) (lanes : List Lane) => ∃ t tok, exec i s = .next t ∧ stepped t 1 ∧ (t.eng cid g).got = [] ∧
          (t.eng cid g).lanes = lanes ∧ t.mem = s.mem ∧ only t n ∧ tok.code = code ∧ more tok ∧
          t.chans[n]? = some { ch with held := ch.held ++ [⟨tok, [], none⟩], free := ch.free - 1 }
        (full → ch.free = 0 → waits n) ∧
        (ch.vec = false → ch.free ≠ 0 → sends (fun tok => tok.valid = 0 ∧ tok.payload = (BitVec.ofInt 64 value).setWidth 512) e.lanes) ∧
        (ch.vec = true → full → ch.free ≠ 0 → l.length ≤ 16 → sends (fun tok => tok.valid = BitVec.ofNat 16 (2 ^ l.length - 1) ∧
          ∀ j < 16, tok.payload.extractLsb' (32 * j) 32 = l.getD j 0) []) ∧
        (ch.vec = true → ¬ full → ∃ t, exec i s = .next t ∧ stepped t 1 ∧ (t.eng cid g).got = [] ∧ (t.eng cid g).lanes = l ∧
          t.mem = s.mem ∧ t.chans = s.chans)))

/-- A part of `Obligations.EngineEvents` (R107, R215, R216): elements of MX blocks, and EFM values, in the scratchpad. -/
def Sys2Proof.Machine.State.ElementsInBlocks (s : State) (cid : Nat) (g : BitVec 2) : Prop :=
  let e := s.eng cid g
  let r := e.record
  let lo := (s.core cid).scratchLo
  let hi := (s.core cid).scratchHi
  let writes := fun (t : State) (at_ k : Nat) (f : Nat → Byte) =>
    (∀ i < k, t.readByte (poolAddr cid (at_ + i)) = f i) ∧
    (∀ a, (∀ i < k, s.place a ≠ poolAddr cid (at_ + i)) → t.readByte a = s.readByte a) ∧ t.chans = s.chans
  let reads := fun e' : Engine => ∃ t, exec (.engineElement cid g.toNat) s = .next t ∧ t.eng cid g = { e' with st := .running } ∧
    t.mem = s.mem ∧ t.chans = s.chans
  ∀ (sf df : BitVec 5) (i0 i1 i2 i3 : Nat), s.EngineGoes cid g → e.boundary = false → e.cmd = .stream → e.part = [] →
    e.runs = [] → r[2].extractLsb' 0 5 = sf → r[2].extractLsb' 5 5 = df → r[2].getLsbD 15 = false →
    let ext := fun j : Nat => if j ≤ (r[2].extractLsb' 28 2).toNat then (r[3].extractLsb' (16 * j) 16).toNat + 1 else 1
    i0 < ext 0 → i1 < ext 1 → i2 < ext 2 → i3 < ext 3 → e.idx = i0 + ext 0 * (i1 + ext 1 * (i2 + ext 2 * i3)) →
    let total := ext 0 * ext 1 * ext 2 * ext 3
    let lin := fun (p q : Word) (i : Nat) => (i : Int) * (p.extractLsb' 0 32).toInt + (i1 : Int) * (p.extractLsb' 32 32).toInt +
      (i2 : Int) * (q.extractLsb' 0 32).toInt + (i3 : Int) * (q.extractLsb' 32 32).toInt
    let at_ := fun (base p q : Word) (z : Nat) => ((base.toNat + lin p q i0 * z) % 2 ^ 64).toNat
    let ks := (r[2].extractLsb' 16 2).toNat
    let kd := (r[2].extractLsb' 18 2).toNat
    let sat : BitVec 2 := r[2].extractLsb' 13 2
    let rm : BitVec 3 := r[2].extractLsb' 10 3
    let i := Instr.engineElement cid g.toNat
    let rounds := (r[2].extractLsb' 56 8).toNat
    let round := fun e' : Engine => e'.roundsRun = e.roundsRun + 1 ∧ (rounds = e.roundsRun + 1 → e'.ending = some (0, 0)) ∧
      (rounds = 0 ∨ e.roundsRun + 1 < rounds → e'.ending = none ∧ e'.boundary = true)
    let stepped := fun (t : State) (k : Nat) => (t.eng cid g).elems = e.elems + k ∧ (t.eng cid g).runs = [] ∧
      (e.idx + k < total → (t.eng cid g).idx = e.idx + k ∧ (t.eng cid g).st = .running ∧ (t.eng cid g).ending = none ∧
        (t.eng cid g).boundary = false) ∧
      (e.idx + k = total → round (t.eng cid g))
    (∀ o : Nat, e.raw = [] → ks = 0 → kd = 0 → sf = 0x12 ∨ sf = 0x13 → df = 0x0D ∨ df = 0x0E ∨ df = 0x0F → e.got = [] →
      let sa := at_ r[0] r[4] r[5] 1
      o = r[8].toNat + e.idx / 32 → lo ≤ sa → sa < hi → lo ≤ o → o < hi →
      let scale := (s.readByte (poolAddr cid o)).toNat
      let v := if scale = 255 then ExNum.nan
        else ExNum.scale ((scale : Int) - 127) ((fmtOf sf).read (s.readByte (poolAddr cid sa)).toNat)
      reads { e with got := [(fmtOf df).write rm sat 0 v] }) ∧
    (∀ o : Nat, ks = 0 → kd = 0 → sf = 0x0D ∨ sf = 0x0E ∨ sf = 0x0F → df = 0x12 ∨ df = 0x13 →
      o = r[8].toNat + e.idx / 32 → lo ≤ o → o < hi →
      let da := at_ r[1] r[6] r[7] 1
      let v := fun j => (fmtOf sf).read (e.raw.getD j 0)
      let live := fun (j : Nat) (x : Int) => ∃ sg man y, v j = .fin sg man y ∧ man ≠ 0 ∧ (Nat.log2 man : Int) + y = x
      let top : Int := if df = 0x12 then 8 else 0
      (e.got = [] → e.raw.length = 32 → ∃ t b, exec i s = .next t ∧ writes t o 1 (fun _ => b) ∧
        (t.eng cid g).raw = [] ∧ (t.eng cid g).idx = e.idx ∧
        ((∃ j < 32, v j = .nan) → b = 0xFF ∧ (t.eng cid g).got = List.replicate 32 0) ∧
        ((∀ j < 32, v j ≠ .nan) → ∃ x : Int, b = BitVec.ofInt 8 (x + 127) ∧
          ((∃ j < 32, v j = .inf true ∨ v j = .inf false) → x = 127) ∧
          ((∀ j < 32, v j ≠ .inf true ∧ v j ≠ .inf false) →
            ((∀ j < 32, ∀ y, ¬ live j y) → x = -127) ∧
            (∀ y, (∃ j < 32, live j y) → (∀ j < 32, ∀ y', live j y' → y' ≤ y) → x = max (-127) (min 127 (y - top)))) ∧
          (t.eng cid g).got = (List.range 32).map fun j => (fmtOf df).write rm sat 0 (ExNum.scale (-x) (v j)))) ∧
      (∀ x l, e.got = x :: l → e.raw = [] → lo ≤ da → da < hi → ∃ t, exec i s = .next t ∧ writes t da 1 (fun _ => BitVec.ofNat 8 x) ∧
        (t.eng cid g).got = l ∧ stepped t 1)) ∧
    (e.raw = [] → ks = 0 → kd = 0 → sf = 0x18 → df = 0x18 →
      let sa := ((r[0].toNat + lin r[4] r[5] 0 + e.sOff) % 2 ^ 64).toNat
      let da := ((r[1].toNat + lin r[6] r[7] 0 + e.dOff) % 2 ^ 64).toNat
      let k := (s.readByte (poolAddr cid sa)).toNat
      let n := if k ≤ 30 then 3 + k else 3
      (e.got = [] → lo ≤ sa → sa + n ≤ hi → sa % 64 + n ≤ 64 → reads { e with
        got := if k ≤ 30 then (s.readBytes (poolAddr cid sa) n).map BitVec.toNat else [0x01, 0xFF, 0x7F, 0x80]
        sOff := e.sOff + n }) ∧
      (e.got ≠ [] → lo ≤ da → da + e.got.length ≤ hi → da % 64 + e.got.length ≤ 64 → ∃ t, exec i s = .next t ∧
        writes t da e.got.length (fun j => BitVec.ofNat 8 (e.got.getD j 0)) ∧ (t.eng cid g).got = [] ∧ stepped t 1 ∧
        (i0 + 1 < ext 0 → (t.eng cid g).sOff = e.sOff ∧ (t.eng cid g).dOff = e.dOff + e.got.length) ∧
        (i0 + 1 = ext 0 → (t.eng cid g).sOff = 0 ∧ (t.eng cid g).dOff = 0)))

/-- A part of `Obligations.EngineEvents` (R215, R216): elements narrower than a byte, in the scratchpad. -/
def Sys2Proof.Machine.State.ElementsInBytes (s : State) (cid : Nat) (g : BitVec 2) : Prop :=
  let e := s.eng cid g
  let r := e.record
  let lo := (s.core cid).scratchLo
  let hi := (s.core cid).scratchHi
  let writes := fun (t : State) (at_ k : Nat) (f : Nat → Byte) =>
    (∀ i < k, t.readByte (poolAddr cid (at_ + i)) = f i) ∧
    (∀ a, (∀ i < k, s.place a ≠ poolAddr cid (at_ + i)) → t.readByte a = s.readByte a) ∧ t.chans = s.chans
  let rest := fun at_ k : Nat => if k = 0 then [] else [(poolAddr cid at_, k)]
  let reads := fun e' : Engine => ∃ t, exec (.engineElement cid g.toNat) s = .next t ∧ t.eng cid g = { e' with st := .running } ∧
    t.mem = s.mem ∧ t.chans = s.chans
  ∀ (f : BitVec 5) (b k z : Nat) (ps pd : Int), s.EngineGoes cid g → e.boundary = false → e.cmd = .stream → e.raw = [] →
    r[2].extractLsb' 0 5 = f → r[2].extractLsb' 5 5 = f → r[2].extractLsb' 16 4 = 0 → r[2].getLsbD 15 = false →
    ((f = 0x00 ∨ f = 0x07) ∧ b = 2 ∧ k = 4 ∧ z = 1 ∨ (f = 0x01 ∨ f = 0x02 ∨ f = 0x08) ∧ b = 4 ∧ k = 2 ∧ z = 1 ∨
      (f = 0x09 ∨ f = 0x0A) ∧ b = 6 ∧ k = 4 ∧ z = 3) →
    let ext := fun j : Nat => if j ≤ (r[2].extractLsb' 28 2).toNat then (r[3].extractLsb' (16 * j) 16).toNat + 1 else 1
    let bit := fun (base p q : Word) => (base.toNat : Int) * 8 + ((e.idx % ext 0 : Nat) * (p.extractLsb' 0 32).toInt +
      (e.idx / ext 0 % ext 1 : Nat) * (p.extractLsb' 32 32).toInt + (e.idx / (ext 0 * ext 1) % ext 2 : Nat) * (q.extractLsb' 0 32).toInt +
      (e.idx / (ext 0 * ext 1 * ext 2) : Nat) * (q.extractLsb' 32 32).toInt) * b
    bit r[0] r[4] r[5] = 8 * ps → bit r[1] r[6] r[7] = 8 * pd →
    let sa := (ps % 2 ^ 64).toNat
    let da := (pd % 2 ^ 64).toNat
    let o := e.part.length
    let image := ((List.range k).map fun j => e.got.getD j 0 % 2 ^ b * 2 ^ (j * b)).foldl (fun x y => x + y) 0
    (e.got = [] → lo ≤ sa → sa + z ≤ hi → (o = 0 ∧ e.runs = [] ∨ 0 < o ∧ o < z ∧ e.runs = rest (sa + o) (z - o)) →
      let part := e.part ++ [(s.readByte (poolAddr cid (sa + o))).toNat]
      (o + 1 < z → reads { e with part := part, runs := rest (sa + o + 1) (z - (o + 1)) }) ∧
      let got := (List.range k).map fun j => leNat (part.map (BitVec.ofNat 8)) / 2 ^ (j * b) % 2 ^ b
      (o + 1 = z → reads { e with part := [], runs := [], got })) ∧
    (e.got.length = k → e.part = [] → lo ≤ da → da + z ≤ hi →
      ∀ o, (o = 0 ∧ e.runs = [] ∨ 0 < o ∧ o < z ∧ e.runs = rest (da + o) (z - o)) →
      ∃ t, exec (.engineElement cid g.toNat) s = .next t ∧ writes t (da + o) 1 (fun _ => BitVec.ofNat 8 (image / 256 ^ o)) ∧
        (o + 1 < z → t.eng cid g = { e with runs := rest (da + o + 1) (z - (o + 1)), st := .running }) ∧
        (o + 1 = z → (t.eng cid g).got = [] ∧ (t.eng cid g).elems = e.elems + k))

/-- R107, R214, R215, R216, R217, R221, R225, R226, R300, R319: events of an engine whose command may go on. A beat of a pool transfer,
up to a multiple of 32 of the source (of the sink for a fill; the model's reading, log entry 97), is read
in 8-byte units where both sides are aligned to them, else in bytes, and is then written in the same units. An element of
whole bytes between two places of the pool is read whole where it is aligned to its size, else byte by byte, converted once,
and written in the same way at the offset its index gives. Other bytes of memory are unchanged; the index goes on with the
write, and the last one ends the command or the round. A round begins at index 0
where its range lies inside the scratchpad, else ends with KIND 5. An end fills s[d] and s[d+1] and opens the engine.
An aligned element of the core's column or of a virtual address is read and written at its place; an address that is out of range,
refused or not translated ends the command or waits for the hub. An element of a port is a word token's payload or the next valid lane
of a vector token, and goes to a port as a word token, widened, or a lane, with the control code of EODM; an empty queue or counter
makes the engine wait (state 3), and a marker ends the round. Elements narrower than a byte move with those that share their bytes;
an element of an MX block is scaled by the block's scale, and 32 elements are gathered, scaled by the scale that R107 chooses and
written as an MX block; an EFM value, here one that lies in one aligned span of 64 bytes, moves as its bytes, a malformed one as NaN.
Those of the last three sentences are stated in the three definitions before this one. That reads and writes are events of their own, and the places that an access in pieces has still to reach, are the model's
choice and reading (log entries 35 and 97). -/
def Obligations.EngineEvents : Prop :=
  ∀ (s : State) (cid : Nat) (g : BitVec 2), cid < 2 ^ 21 → Memory.wf s.mem = true →
    let e := s.eng cid g
    let r := e.record
    let lo := (s.core cid).scratchLo
    let hi := (s.core cid).scratchHi
    let src := e.desc[0].toNat
    let dst := e.desc[1].toNat
    let len := (e.desc[2].extractLsb' 0 40).toNat
    let n := min (32 - ((if e.cmd = .fill then dst else src) + e.idx) % 32) (len - e.idx)
    let piece := fun a b m : Nat => if (e.cmd = .fill ∨ a % 8 = 0) ∧ b % 8 = 0 ∧ 8 ≤ m then 8 else min 1 m
    let writes := fun (t : State) (at_ k : Nat) (f : Nat → Byte) =>
      (∀ i < k, t.readByte (poolAddr cid (at_ + i)) = f i) ∧
      (∀ a, (∀ i < k, s.place a ≠ poolAddr cid (at_ + i)) → t.readByte a = s.readByte a) ∧ t.chans = s.chans
    let rest := fun at_ k : Nat => if k = 0 then [] else [(poolAddr cid at_, k)]
    let reads := fun e' : Engine => ∃ t, exec (.engineElement cid g.toNat) s = .next t ∧ t.eng cid g = { e' with st := .running } ∧
      t.mem = s.mem ∧ t.chans = s.chans
    (s.EngineGoes cid g → e.boundary = false → e.desc[3].extractLsb' 0 2 = 0 → e.desc[3].extractLsb' 2 2 = 0 → e.idx < len →
      (e.cmd = .fill → e.got = [] →
        reads { e with got := (List.range n).map fun i => (e.desc[0].extractLsb' (8 * ((e.idx + i) % 8)) 8).toNat }) ∧
      (e.cmd = .copy → e.got = [] → e.raw.length < n →
        let at_ := e.idx + e.raw.length
        let k := piece (src + at_) (dst + at_) (n - e.raw.length)
        lo ≤ src + at_ → src + e.idx + n ≤ hi →
        (e.raw = [] ∧ e.runs = [] ∨ e.raw ≠ [] ∧ e.runs = rest (src + at_) (n - e.raw.length)) →
        let raw := e.raw ++ (List.range k).map fun i => (s.readByte (poolAddr cid (src + at_ + i))).toNat
        reads (if raw.length < n then { e with raw := raw, runs := rest (src + at_ + k) (n - raw.length) }
          else { e with raw := [], runs := [], got := raw })) ∧
      ((e.cmd = .fill ∨ e.cmd = .copy) → e.got ≠ [] →
        let k := piece (src + e.idx) (dst + e.idx) e.got.length
        lo ≤ dst + e.idx → dst + e.idx + e.got.length ≤ hi → (e.runs = [] ∨ e.runs = rest (dst + e.idx) e.got.length) →
        ∃ t, exec (.engineElement cid g.toNat) s = .next t ∧ (t.eng cid g).got = e.got.drop k ∧ (t.eng cid g).idx = e.idx + k ∧
          (t.eng cid g).runs = rest (dst + e.idx + k) (e.got.length - k) ∧
          (t.eng cid g).elems = e.elems + k ∧ (t.eng cid g).st = .running ∧
          ((t.eng cid g).ending = if len ≤ e.idx + k then some (0, 0) else none) ∧
          writes t (dst + e.idx) k fun i => BitVec.ofNat 8 (e.got.getD i 0))) ∧
    (∀ (sf df : BitVec 5) (i0 i1 i2 i3 : Nat), s.EngineGoes cid g → e.boundary = false → e.cmd = .stream → e.lanes = [] →
      e.raw = [] → r[2].extractLsb' 0 5 = sf → r[2].extractLsb' 5 5 = df → r[2].extractLsb' 16 4 = 0 → r[2].getLsbD 15 = false →
      (sf = 0x03 ∨ sf = 0x04 ∨ sf = 0x0D ∨ sf = 0x0E ∨ sf = 0x0F ∨ sf = 0x14 ∨ sf = 0x15) →
      (df = 0x03 ∨ df = 0x04 ∨ df = 0x0D ∨ df = 0x0E ∨ df = 0x0F ∨ df = 0x14 ∨ df = 0x15) →
      let ext := fun j : Nat => if j ≤ (r[2].extractLsb' 28 2).toNat then (r[3].extractLsb' (16 * j) 16).toNat + 1 else 1
      i0 < ext 0 → i1 < ext 1 → i2 < ext 2 → i3 < ext 3 → e.idx = i0 + ext 0 * (i1 + ext 1 * (i2 + ext 2 * i3)) →
      let at_ := fun (base p q : Word) (z : Nat) => ((base.toNat + ((i0 : Int) * (p.extractLsb' 0 32).toInt +
        (i1 : Int) * (p.extractLsb' 32 32).toInt + (i2 : Int) * (q.extractLsb' 0 32).toInt +
        (i3 : Int) * (q.extractLsb' 32 32).toInt) * z) % 2 ^ 64).toNat
      let sz := (fmtOf sf).bits / 8
      let dz := (fmtOf df).bits / 8
      let sa := at_ r[0] r[4] r[5] sz
      let da := at_ r[1] r[6] r[7] dz
      (let o := e.part.length
       let k := if sa % sz = 0 then sz else 1
       e.got = [] → lo ≤ sa → sa + sz ≤ hi →
       (o = 0 ∧ e.runs = [] ∨ 0 < o ∧ o < sz ∧ sa % sz ≠ 0 ∧ e.runs = rest (sa + o) (sz - o)) →
       let part := e.part ++ (s.readBytes (poolAddr cid (sa + o)) k).map BitVec.toNat
       let code := leNat (part.map (BitVec.ofNat 8))
       let out := if sf = df then code
         else (fmtOf df).write (r[2].extractLsb' 10 3) (r[2].extractLsb' 13 2) 0 ((fmtOf sf).read code)
       (o + k < sz → reads { e with part := part, runs := rest (sa + o + k) (sz - (o + k)) }) ∧
       (o + k = sz → reads { e with part := [], runs := [], got := [out] })) ∧
      ∀ x o, e.got = [x] → lo ≤ da → da + dz ≤ hi →
       (o = 0 ∧ e.runs = [] ∨ 0 < o ∧ o < dz ∧ da % dz ≠ 0 ∧ e.runs = rest (da + o) (dz - o)) →
       let k := if da % dz = 0 then dz else 1
       ∃ t, exec (.engineElement cid g.toNat) s = .next t ∧ writes t (da + o) k (fun i => BitVec.ofNat 8 (x / 256 ^ (o + i))) ∧
       (o + k < dz → t.eng cid g = { e with runs := rest (da + o + k) (dz - (o + k)), st := .running }) ∧
       (o + k = dz → (t.eng cid g).elems = e.elems + 1 ∧ (t.eng cid g).got = [] ∧ (t.eng cid g).runs = [] ∧
        (e.idx + 1 < ext 0 * ext 1 * ext 2 * ext 3 → (t.eng cid g).idx = e.idx + 1 ∧ (t.eng cid g).st = .running ∧
          (t.eng cid g).ending = none) ∧
        (e.idx + 1 = ext 0 * ext 1 * ext 2 * ext 3 → (t.eng cid g).roundsRun = e.roundsRun + 1 ∧
          ((r[2].extractLsb' 56 8).toNat = e.roundsRun + 1 → (t.eng cid g).ending = some (0, 0)) ∧
          ((r[2].extractLsb' 56 8).toNat = 0 → (t.eng cid g).ending = none ∧ (t.eng cid g).boundary = true)))) ∧
    s.ElementsElsewhere cid g ∧ s.ElementsInBlocks cid g ∧ s.ElementsInBytes cid g ∧
    (s.EngineGoes cid g → e.boundary = true → e.roundsRun = 0 → e.cmd = .fill → e.desc[3].extractLsb' 2 2 = 0 →
      ∃ t, exec (.engineRoundBoundary cid g.toNat) s = .next t ∧ t.mem = s.mem ∧ t.chans = s.chans ∧
        (lo ≤ dst → dst + len ≤ hi → (t.eng cid g) = { e with boundary := false, st := .running, idx := 0, sOff := 0, dOff := 0 }) ∧
        (dst < lo → (t.eng cid g).ending = some ((5 : BitVec 4), e.desc[1]))) ∧
    (∀ (kind : BitVec 4) (addr : Word), (e.st = .running ∨ e.st = .waitPort ∨ e.st = .waitXlate) → e.ending = some (kind, addr) →
      e.lanes = [] → e.inside = false → e.cmd ≠ .splice →
      (∃ x, s.graph? (s.ctxAt cid (e.holder.getD 0)).graph = some x ∧ x.st = .running) →
      (e.cmd = .stream → r[2].getLsbD 41 = false ∧ (r[2].getLsbD 37 = true → e.writes = [])) →
      (e.cmd ≠ .stream → e.desc[3].getLsbD 9 = false ∧ (e.desc[3].getLsbD 5 = true → e.writes = [])) →
      ∃ (t : State) (v : Word), exec (.engineCommandEnd cid g.toNat) s = .next t ∧ (t.eng cid g).st = .opened ∧
        (t.eng cid g).ending = none ∧ t.mem = s.mem ∧ t.chans = s.chans ∧
        t.ctxAt cid (e.holder.getD 0) = (if e.dreg = 0 then s.ctxAt cid (e.holder.getD 0)
          else ((s.ctxAt cid (e.holder.getD 0)).writeS (e.dreg + 1) addr).writeS e.dreg v) ∧
        v.extractLsb' 24 40 = BitVec.ofNat 40 e.elems ∧ v.extractLsb' 16 8 = BitVec.ofNat 8 e.roundsRun ∧
        v.extractLsb' 12 3 = 1 ∧ v.extractLsb' 8 4 = kind ∧ v.extractLsb' 4 4 = e.holder.getD 0 ∧ v.extractLsb' 0 4 = g.setWidth 4)

/-! ## Elastic precision -/

/-- R114, R359, R360, R362, R363: elastic arithmetic. One rounding to P bits of the exact result (a quotient or root known to a
sticky bit), range and flags as R359 says, NV where the result is a NaN of operands none of which is one; `eadd`, `esub`
and `efma` give -0 for every zero sum under RDN (log entry 66) and raise precision exhausted where PXE is set and at least
P - PMIN bits cancel. `eneg`, `eabs` and `emov` copy
bits; `ecmp` gives 0, 1, 2 or 3. -/
def Obligations.ElasticArithmetic : Prop :=
  (∀ (p : Nat) (mode : BitVec 3) (draw : BitVec 16) (sg : Bool) (man : Nat) (exp : Int), 2 ≤ p → p ≤ 241 → man ≠ 0 →
    let q := (man.log2 : Int) + exp - (p - 1)
    let n := roundAt mode draw sg man exp q
    let x := (n.log2 : Int) + q
    let r := efRound p mode draw (.fin sg man exp)
    (-16382 ≤ x → x ≤ 16383 → r.1.read ≠ .nan ∧ ExNum.cmp r.1.read (.fin sg n q) = 0 ∧
      r.2 = if exactAt man exp q = true then 0 else 1) ∧
    (x < -16382 → r.1 = (if sg then 0x8000000000000000 else 0) ∧ r.2 = 3) ∧
    (16383 < x → r.2 = 5 ∧ (outward mode sg = true → r.1.read = .inf sg) ∧
      (outward mode sg = false → ExNum.cmp r.1.read (.fin sg (2 ^ p - 1) (16384 - p)) = 0))) ∧
  (∀ (sa sb : Bool) (ma mb : Nat) (ea eb : Int), ma ≠ 0 → mb ≠ 0 →
    (∃ m e, ∃ j : Nat, ExNum.div (.fin sa ma ea) (.fin sb mb eb) = .fin (sa ^^ sb) m e ∧ ea - eb - e = j ∧ 2 ^ 260 ≤ m ∧
      (m * mb = ma * 2 ^ j ∨ m % 2 = 1 ∧ (m - 1) * mb < ma * 2 ^ j ∧ ma * 2 ^ j < (m + 1) * mb)) ∧
    (∃ m e, ∃ j : Nat, ExNum.sqrt (.fin false ma ea) = .fin false m e ∧ ea - 2 * e = j ∧ 2 ^ 260 ≤ m ∧
      (m * m = ma * 2 ^ j ∨ m % 2 = 1 ∧ (m - 1) * (m - 1) < ma * 2 ^ j ∧ ma * 2 ^ j < (m + 1) * (m + 1)))) ∧
  ∀ (s : State) (d a b c : Reg),
    let x := (s.ctx.readE a).read
    let y := (s.ctx.readE b).read
    let z := (s.ctx.readE c).read
    let p := (s.ctx.prec.extractLsb' 0 8).toNat
    let pmin := (s.ctx.prec.extractLsb' 8 8).toNat
    let m : BitVec 3 := s.ctx.prec.extractLsb' 17 3
    let draw := (s.ctx.drawFor m 0).1
    let rdn := m == 3
    let writes := fun (i : Instr) (r : ExNum) (ops : List ExNum) => s.Does i fun k =>
      (((k.drawFor m 0).2.writeE d (efRound p m draw r).1).orFlags
        ((efRound p m draw r).2 ||| if r = .nan ∧ .nan ∉ ops then 8 else 0))
    let plus := fun u v => match ExNum.add rdn u v with
      | .fin neg 0 e => .fin (neg || rdn) 0 e
      | r => r
    let ex := fun (mm : Nat) (e : Int) => (mm.log2 : Int) + e
    let lost := fun (u v r : ExNum) => match u, v, r with
      | .fin _ mu eu, .fin _ mv ev, .fin sr mr er =>
        if mu = 0 ∧ mv = 0 then none
        else
          let top := if mu = 0 then ex mv ev else if mv = 0 then ex mu eu else max (ex mu eu) (ex mv ev)
          let q := ex mr er - ((p : Int) - 1)
          some (if mr = 0 then (p : Int) else top - ex (roundAt m draw sr mr er q) q)
      | _, _, _ => none
    let sums := fun (i : Instr) (u v r : ExNum) (ops : List ExNum) =>
      (∀ l, s.ctx.prec.getLsbD 16 = true → lost u v r = some l → (p : Int) - pmin ≤ l →
        s.Traps i 0x0B (d.setWidth 8) 0 (BitVec.ofInt 64 l)) ∧
      ((s.ctx.prec.getLsbD 16 = false ∨ lost u v r = none ∨ ∃ l, lost u v r = some l ∧ l < (p : Int) - pmin) →
        writes i r ops)
    sums (.eadd d a b) x y (plus x y) [x, y] ∧
    sums (.esub d a b) x y (plus x (ExNum.neg y)) [x, y] ∧
    sums (.efma d a b c) (ExNum.mul x y) z (plus (ExNum.mul x y) z) [x, y, z] ∧
    writes (.emul d a b) (ExNum.mul x y) [x, y] ∧ writes (.ediv d a b) (ExNum.div x y) [x, y] ∧
    writes (.esqrt d a) (ExNum.sqrt x) [x] ∧
    (∃ u v : Ereg, s.Does (.eneg d a) (fun k => k.writeE d u) ∧ s.Does (.eabs d a) (fun k => k.writeE d v) ∧
      s.Does (.emov d a) (fun k => k.writeE d (s.ctx.readE a)) ∧
      ∀ j < 256, u.getLsbD j = ((s.ctx.readE a).getLsbD j ^^ decide (j = 63)) ∧
        v.getLsbD j = ((s.ctx.readE a).getLsbD j && decide (j ≠ 63))) ∧
    s.WritesS (.ecmp d a b) d (if x = .nan ∨ y = .nan then 3 else if ExNum.cmp x y = 0 then 0
      else if ExNum.cmp x y = -1 then 1 else 2)

/-- R364 to R368: `ernd`, `elen`, `eprec` and the conversions. `eprec` sets P within its limits, gives the old PREC to s[d], and
rounds the registers where P falls; a conversion rounds once, an integer destination clamps with NV alone outside its
range, a floating one sets NX exactly where a finite value changed, OF with NX where the rounded value exceeds the greatest
finite one, UF with NX where it lies below the least normal before that format's exponent binds, and NV for a NaN, with NX where
SAT 2 writes +0. Where P falls the flags of every rounding are ORed into PREC, and no other register changes. -/
def Obligations.ElasticConversions : Prop :=
  ∀ (s : State) (d a : Reg) (l : BitVec 10) (i : BitVec 8) (w : Bool), s.Full [a] →
    let x := (s.ctx.readE a).read
    let p := (s.ctx.prec.extractLsb' 0 8).toNat
    let m : BitVec 3 := s.ctx.prec.extractLsb' 17 3
    let draw := (s.ctx.drawFor m 0).1
    let writes := fun (i : Instr) (r : Ereg × BitVec 4) =>
      s.Does i fun k => ((k.drawFor m 0).2.writeE d r.1).orFlags r.2
    let m' := match s.ctx.chain.rnd with
      | some q => q.extractLsb' 22 3
      | none => m
    let sat := match s.ctx.chain.rnd with
      | some q => q.extractLsb' 20 2
      | none => 0
    let draw' := (s.ctx.drawFor m' 0).1
    let toInt := fun (i : Instr) (lo hi : Int) => ∃ (v : Int) (fl : BitVec 4),
      s.Does i (fun k => ((k.drawFor m' 0).2.writeS d (BitVec.ofInt 64 v)).orFlags fl) ∧
      (x = .nan → v = 0 ∧ fl = 8) ∧ (∀ sg, x = .inf sg → v = (if sg then lo else hi) ∧ fl = 8) ∧
      (∀ sg mm e, x = .fin sg mm e →
        let n : Int := if sg then -(roundAt m' draw' sg mm e 0 : Int) else roundAt m' draw' sg mm e 0
        (n < lo → v = lo ∧ fl = 8) ∧ (hi < n → v = hi ∧ fl = 8) ∧
        (lo ≤ n → n ≤ hi → v = n ∧ fl = if exactAt mm e 0 = true then 0 else 1))
    let toFloat := fun (i : Instr) (f : FloatFmt) (put : Nat → Context → Context) => ∃ fl : BitVec 4,
      let code := (f.write m' sat draw' x).code
      s.Does i (fun k => (put code (k.drawFor m' 0).2).orFlags fl) ∧ (x = .nan → fl = if sat = 2 then 9 else 8) ∧
      (∀ sg, x = .inf sg → fl = if sat = 0 then 0 else 1) ∧
      (∀ sg mm e, x = .fin sg mm e →
        let q := ExNum.expOf mm e - f.fbits
        let n := roundAt m' draw' sg mm e q
        let least : ExNum := .fin false 1 (1 - f.bias)
        fl.getLsbD 3 = false ∧ (fl.getLsbD 0 = true ↔ ExNum.cmp (f.read code) x ≠ 0) ∧
        (fl.getLsbD 2 = true ↔ ExNum.cmp (.fin false n q) (f.read f.maxCode) = 1) ∧
        (fl.getLsbD 2 = true → fl.getLsbD 0 = true) ∧
        (fl.getLsbD 1 = true ↔ n ≠ 0 ∧ ExNum.cmp (.fin false n q) least = -1 ∧ fl.getLsbD 0 = true))
    let new := ((s.ctx.readS a).extractLsb' 0 8 + i).toNat
    let words := (new + 78) / 64
    let prec' := s.ctx.prec.extractLsb' 8 56 ++ BitVec.ofNat 8 new
    let legal := 2 ≤ new ∧ new ≤ 241 ∧ (s.ctx.prec.extractLsb' 8 8).toNat < new
    let win := (s.runHeader.extractLsb' 23 3).toNat
    (1 ≤ l.toNat → l.toNat ≤ 241 → writes (.ernd d a l) (efRoundTo p (min l.toNat p) m draw x)) ∧
    (l.toNat = 0 ∨ 241 < l.toNat → s.Traps (.ernd d a l) 0x01 0 0x03 0) ∧
    (∃ v : Word, s.WritesS (.elen d a) d v ∧ v.toNat < 2 ^ 13 ∧
      (x = .nan → v = 0x102) ∧ (∀ sg, x = .inf sg → v = 0) ∧
      (∀ sg mm e, x = .fin sg mm e → (mm = 0 → v = 0) ∧
        (mm ≠ 0 → let len := (v.extractLsb' 0 8).toNat
          1 ≤ len ∧ len ≤ 241 ∧ mm % 2 ^ (241 - len) = 0 ∧ (1 < len → mm % 2 ^ (242 - len) ≠ 0) ∧
          (v.extractLsb' 8 5).toNat = (len + 6) / 8))) ∧
    (¬ legal → s.Traps (.eprec w d a i) 0x0E 0 0x03 0) ∧
    (legal → win < words → s.Traps (.eprec w d a i) 0x0C (BitVec.ofNat 8 words) 0x01 (BitVec.ofNat 64 new)) ∧
    (legal → words ≤ win → p ≤ new →
      s.Does (.eprec w d a i) fun k => ({ k with prec := prec' } : Context).writeS d s.ctx.prec) ∧
    (legal → words ≤ win → new < p →
      let short := fun r : Reg => match (s.ctx.readE r).read with
        | .fin sg mm e => if mm = 0 then (s.ctx.readE r, (0 : BitVec 4)) else efRound new (if m = 5 then 0 else m) 0 (.fin sg mm e)
        | _ => (s.ctx.readE r, 0)
      ∃ (v : Word) (y : Vector Ereg 32),
        s.Does (.eprec w d a i) (fun k => ({ k with prec := v, e := y } : Context).writeS d s.ctx.prec) ∧
        v.extractLsb' 0 20 = prec'.extractLsb' 0 20 ∧ v.extractLsb' 24 40 = prec'.extractLsb' 24 40 ∧
        (∀ r : Reg, getV y r = (short r).1) ∧
        ∀ j < 4, (v.getLsbD (20 + j) = true ↔ s.ctx.prec.getLsbD (20 + j) = true ∨ ∃ r, (short r).2.getLsbD j = true)) ∧
    writes (.ecvtEI d a false w) (efRound p m draw (ExNum.ofInt (s.ctx.readS a).toInt)) ∧
    writes (.ecvtEI d a true w) (efRound p m draw (ExNum.ofInt (s.ctx.readS a).toNat)) ∧
    writes (.ecvtEF d a) (efRound p m draw (f32 (s.ctx.readF a))) ∧
    writes (.ecvtED d a w) (efRound p m draw (fmtFP64.read (s.ctx.readS a).toNat)) ∧
    toInt (.ecvtIE d a false) (-2 ^ 63) (2 ^ 63 - 1) ∧ toInt (.ecvtIE d a true) 0 (2 ^ 64 - 1) ∧
    toFloat (.ecvtFE d a) fmtFP32 (fun code k => k.writeF d (BitVec.ofNat 32 code)) ∧
    toFloat (.ecvtDE d a) fmtFP64 (fun code k => k.writeS d (BitVec.ofNat 64 code))

/-- R111 to R113, R369: EFM loads and stores in the scratchpad. A load of a well-formed value rounds sign, exponent and
fraction to P; a malformed one gives the canonical NaN with NV and takes 3 bytes; a store writes byte 0, the halfword
and the fraction, and no other byte; a value that crosses the top of the scratchpad raises pool bounds with FADDR the top,
loaded or stored; the shortest form keeps the value; an `.inc` form moves s[a] past the value. -/
def Obligations.ElasticMemory : Prop :=
  (∀ x : Ereg, ∃ l, (efmStore 31 0 0 x).1 = l ∧ l.length = 3 + x.shortest ∧ (efmRead l).2 = false ∧
    (x.read = .nan → (efmRead l).1 = .nan) ∧ (∀ sg, x.read = .inf sg → (efmRead l).1 = .inf sg) ∧
    (∀ sg m e, x.read = .fin sg m e → (efmStore 31 0 0 x).2 = 0 ∧ ∃ m' e', (efmRead l).1 = .fin sg m' e' ∧
      ExNum.cmp (efmRead l).1 x.read = 0)) ∧
  ∀ (s : State) (d a n : Reg) (o : BitVec 8) (w : Bool), s.Full [a] → Memory.wf s.mem = true → s.focus < 2 ^ 21 →
    let at_ := (((s.ctx.readS a).toInt + o.toInt) % 2 ^ 64).toNat
    let lo := s.cur.scratchLo
    let hi := s.cur.scratchHi
    let byte := fun i => (s.readByte (poolAddr s.focus (at_ + i))).toNat
    let k := byte 0
    let size := if k ≤ 30 then 3 + k else 3
    let half : Nat := byte 1 + 256 * byte 2
    let neg := decide (2 ^ 15 ≤ half)
    let e : Nat := half % 2 ^ 15
    let frac : Nat := ((List.range k).map fun i => byte (3 + i)).foldl (fun v b => v * 256 + b) 0
    let p := (s.ctx.prec.extractLsb' 0 8).toNat
    let m : BitVec 3 := s.ctx.prec.extractLsb' 17 3
    let draw := (s.ctx.drawFor m 0).1
    let val : ExNum := if 30 < k then .nan else if e = 0 then .fin neg 0 0
      else if e = 2 ^ 15 - 1 then (if frac = 0 then .inf neg else .nan)
      else .fin neg (2 ^ (8 * k) + frac) ((e : Int) - 16383 - 8 * k)
    let loaded := fun c : Context => (((c.drawFor m 0).2.writeE d (efRound p m draw val).1).orFlags
      ((efRound p m draw val).2 ||| if 30 < k then 8 else 0))
    let out := efmStore n.toNat m draw (s.ctx.readE d)
    let stored := fun c : Context => ((c.drawFor m 0).2.orFlags out.2)
    let moves := fun (size : Nat) (c : Context) => c.writeS a (BitVec.ofNat 64 (at_ + size))
    (lo ≤ at_ → at_ + size ≤ hi →
      s.Does (.eld w d a o) loaded ∧ s.Does (.eldInc w d a o) fun c => moves size (loaded c)) ∧
    (∀ i f, (i = .est w d a n o ∧ f = stored ∨ i = .estInc w d a n o ∧ f = fun c => moves out.1.length (stored c)) →
      lo ≤ at_ → at_ + out.1.length ≤ hi → ∃ t, exec i s = .next t ∧
        (∀ j (h : j < out.1.length), t.readByte (poolAddr s.focus (at_ + j)) = out.1[j]) ∧
        (∀ y, (∀ j < out.1.length, s.place y ≠ poolAddr s.focus (at_ + j)) → t.readByte y = s.readByte y) ∧
        t.ctx = { f s.ctx with chain := .empty, word := s.ctx.word + 1 } ∧ t.chans = s.chans ∧ t.net = s.net) ∧
    (at_ < lo ∨ hi ≤ at_ → ∀ i, (i = .eld w d a o ∨ i = .eldInc w d a o ∨ i = .est w d a n o ∨ i = .estInc w d a n o) →
      s.Traps i 0x04 (a.setWidth 8) 0 (BitVec.ofNat 64 at_)) ∧
    (lo ≤ at_ → at_ < hi → hi < at_ + size → ∀ i, (i = .eld w d a o ∨ i = .eldInc w d a o) →
      s.Traps i 0x04 (a.setWidth 8) 0 (BitVec.ofNat 64 hi)) ∧
    (lo ≤ at_ → at_ < hi → hi < at_ + out.1.length → ∀ i, (i = .est w d a n o ∨ i = .estInc w d a n o) →
      s.Traps i 0x04 (a.setWidth 8) 0 (BitVec.ofNat 64 hi))

/-! ## Prefixes -/

/-- R31, R32: a prefix is latched for the next word with the word index of the first prefix of its chain, its own word is
passed, and nothing else in the machine changes; its fields are then in force. R34: an encoding fault of a chain is the
illegal-instruction trap with its DETAIL, its operand and the index of the faulty word. That a prefix is a step of its own is the
model's choice (log entry 17). -/
def Obligations.Prefixes : Prop :=
  ∀ (s : State) (h : BitVec 25) (d a b f : BitVec 5) (e m : BitVec 3) (o : BitVec 10) (g t : BitVec 2) (z : Bool)
    (detail operand : BitVec 8) (word : BitVec 6),
    let old := s.ctx.chain
    let first : BitVec 6 := match old.start with
      | some w => w
      | none => s.ctx.word.setWidth 6
    let latches := fun (i : Instr) (c : Chain) =>
      exec i s = .next (s.setCtx { s.ctx with chain := { c with start := some first }, word := s.ctx.word + 1 })
    latches (.ext h) { old with ext := some h } ∧
    (∃ x : BitVec 25, latches (.fmt d a b e) { old with fmt := some x } ∧
      ({ old with fmt := some x } : Chain).dfmt = (if e.getLsbD 2 = true then some d else none) ∧
      ({ old with fmt := some x } : Chain).afmt = (if e.getLsbD 1 = true then some a else none) ∧
      ({ old with fmt := some x } : Chain).bfmt = (if e.getLsbD 0 = true then some b else none)) ∧
    (∃ x : BitVec 25, latches (.scl b o g f z) { old with scl := some x } ∧ x.extractLsb' 20 5 = b ∧
      x.extractLsb' 10 10 = o ∧ x.extractLsb' 8 2 = g ∧ x.extractLsb' 3 5 = f ∧ x.getLsbD 2 = z) ∧
    (∃ x : BitVec 25, latches (.rnd m t) { old with rnd := some x } ∧
      (∀ dflt, ({ old with rnd := some x } : Chain).mode dflt = m) ∧ ({ old with rnd := some x } : Chain).sat = t) ∧
    s.Traps (.undefinedEncoding detail operand word) 0x01 operand detail (BitVec.ofNat 64 word.toNat)

/-! ## Tokens, tasks and barriers -/

/-- R158, R193 to R196, R262, R312: the events of one channel. The oldest held token leaves once its writes are visible in the
channel's scope and takes the last place of its lane; the oldest in flight, where it is the oldest of its lane (its virtual
channel from core to cluster, or its circuit) and its way is in use, or it is past the link that failed (log entry 10), enters the queue of a bound channel unless the
field's limiter is full, and is dropped, counted and reported at an entry that is not bound; else nothing happens. Credits
leave, at most 255 in a packet (one on a circuit), and raise the free-space counter. Nothing else of any channel changes. An event
that is not due leaves the state as it is (log entry 16). -/
def Obligations.TokenEvents : Prop :=
  ∀ (s : State) (n : Nat) (c : Channel), s.chans[n]? = some c →
    let f := c.goal / 1024
    let limits := c.isStatic = true ∧ c.dst.core?.isSome = true ∧ (s.field f).frate.getLsbD 28 = true
    let full := limits ∧ ((s.field f).frate.extractLsb' 0 16).toNat ≤ (s.field f).admitted
    let packet := min c.owed (if c.vec then 1 else 255)
    (∀ x rest, c.held = x :: rest →
      let pushed := ∀ y, x.after = some y → y.2 ≤ ((s.core c.home).cycle - y.1).toNat
      ((∀ i ∈ x.pend, s.invisible c.scope c.home i = false) → pushed → ∃ t, exec (.tokenInjection n) s = .next t ∧
        s.ChanBecomes t n { c with held := rest, flight := c.flight ++ [x.tok] } ∧ t.cores = s.cores ∧
        t.beats = s.beats ++ [(n, false)]) ∧
      ((∃ i ∈ x.pend, s.invisible c.scope c.home i = true) ∨ ¬ pushed → exec (.tokenInjection n) s = .next s)) ∧
    let goes := fun (past : Nat) (credit : Bool) => 0 < past ∨ s.wayOpen c credit = true
    let wakes := fun (t : State) (e : ChanEnd) (g : Option Nat) =>
      (e.core? = none ∨ g = none → t.cores = s.cores) ∧
      ∀ k j, e.core? = some k → g = some j →
        ((s.eng k j).waits ≠ some n → t.eng k j = s.eng k j) ∧
        ((s.eng k j).waits = some n → (s.eng k j).st = .waitPort →
          t.eng k j = { s.eng k j with st := .running, waits := none }) ∧
        (∀ i, i ≠ j → t.eng k i = s.eng k i) ∧ (∀ m, t.ctxAt k m = s.ctxAt k m) ∧ ∀ i, i ≠ k → t.core i = s.core i
    let lost := fun (i : Instr) (dst : Nat) (c' : Channel) => ∃ t, exec i s = .next t ∧ s.ChanBecomes t n c' ∧
      (t.core dst).counters = (s.core dst).counters.map fun k => k.bump 0x090 1 none
    (c.flight ≠ [] → goes c.past false → s.firstOfLane n c false = false → exec (.tokenArrival n) s = .next s) ∧
    (∀ x rest, c.flight = x :: rest → ¬ goes c.past false → lost (.tokenArrival n) c.goal { c with flight := rest }) ∧
    (∀ k rest, c.credits = k :: rest → ¬ goes c.creditsPast true → lost (.creditArrival n) c.home { c with credits := rest }) ∧
    ((∀ b ∈ s.beats, b = (n, true) ∨ ∀ d, s.chans[b.1]? = some d → sameLane c d true b.2 = true →
        b.2 = false ∧ d.limited = true) → s.firstOfLane n c true = true) ∧
    (∀ x rest, c.flight = x :: rest → goes c.past false → s.firstOfLane n c false = true →
      (c.bound = true → ¬ full → ∃ t, exec (.tokenArrival n) s = .next t ∧
        s.ChanBecomes t n { c with flight := rest, past := c.past - 1, limited := false, queue := c.queue ++ [x] } ∧
        wakes t c.dst c.deng ∧
        t.field f = if c.isStatic = true ∧ c.dst.core?.isSome = true ∧ (s.field f).frate.getLsbD 28 = true
          then { s.field f with admitted := (s.field f).admitted + 1 } else s.field f) ∧
      (c.bound = true → full → ∃ t, exec (.tokenArrival n) s = .next t ∧ s.ChanBecomes t n { c with limited := true } ∧
        t.cores = s.cores ∧ (t.field f).admitted = (s.field f).admitted) ∧
      (c.bound = false → ∃ t r, exec (.tokenArrival n) s = .next t ∧ s.ChanBecomes t n { c with flight := rest, past := c.past - 1 } ∧
        t.module.log.getLast? = some r ∧ r.cls = 2 ∧ r.kind = 0x01 ∧ r.detail = BitVec.ofNat 8 c.dent ∧
        r.core = BitVec.ofNat 16 c.goal ∧
        (t.core c.goal).counters = (s.core c.goal).counters.map fun k => k.bump 0x090 1 none)) ∧
    (0 < c.owed → c.counted = true → ∃ t, exec (.creditReturn n) s = .next t ∧
      s.ChanBecomes t n { c with owed := c.owed - packet, credits := c.credits ++ [packet] } ∧ t.cores = s.cores) ∧
    (∀ k rest, c.credits = k :: rest → goes c.creditsPast true → c.bound = true →
      (c.vec = false → s.firstOfLane n c true = true) →
      ∃ t, exec (.creditArrival n) s = .next t ∧ s.ChanBecomes t n { c with
        credits := rest, creditsPast := c.creditsPast - 1, free := c.free + k } ∧
        wakes t c.src c.seng) ∧
    (∀ g, ∃ t, exec (.limiterWindow g) s = .next t ∧ t.field g = { s.field g with admitted := 0 } ∧
      (∀ h, h ≠ g → t.field h = s.field h) ∧ t.chans = s.chans ∧ t.cores = s.cores ∧ t.mem = s.mem)

/-- R160, R162, R165: selection. When the core's turn is over (or stops at this instruction boundary), the pipe takes the
ready context of the highest ready level that comes first from the level's counter C[L], and C[L] becomes the number
after it. A task that has begun goes on where it stood; otherwise a firing is granted: the counts of its ports are
taken, space on each output that is no engine end is taken, and word 0 of handler 0 (of the end block for an end firing) is next.
A block whose header fails its checks on this entry (R25, R386) raises its trap there, once the firing is granted.
R162, R164: the end-of-invocation step of an actor without an end block: where markers head every static input and every
output has space, each output gains one marker behind what the context has sent, each marker is taken with its credit,
and the actor's invocation has ended. Where an invocation is unbalanced, the data ahead of the marker of that input is
discarded with its credits first, and the error is reported with the actor's number. The actor's number in ADDR, an end firing
that reserves nothing on an engine end, and engine ends that count as static inputs here are the model's readings (log entries
24, 26 and 72); an event that is not due leaves the state as it is (log entry 16). -/
def Obligations.Scheduling : Prop :=
  (∀ (s : State) (cid l : Nat) (n start : BitVec 4) (g : Graph),
     let k := s.core cid
     let c := s.ctxAt cid n
     (k.turn = true → (s.ctxAt cid k.current).chain.start = none → s.turnStops (s.ctxAt cid k.current) = true →
       exec (.selection cid) s = exec (.selection cid) (s.setCore cid { k with turn := false })) ∧
     (k.turn = false → (∀ m, s.readyAt cid m = none) → exec (.selection cid) s = .next s) ∧
     (k.turn = false → l < 48 → k.prioCtr[l]? = some start → s.readyAt cid n = some l →
       (∀ m l', s.readyAt cid m = some l' → l' ≤ l) →
       (∀ j : BitVec 4, j.toNat < (n - start).toNat → s.readyAt cid (start + j) ≠ some l) →
       s.graph? c.graph = some g →
       ∃ t, exec (.selection cid) s = .next t ∧ (t.core cid).current = n ∧ (t.core cid).prioCtr[l]? = some (n + 1) ∧
         (∀ m, m ≠ l → (t.core cid).prioCtr[m]? = k.prioCtr[m]?) ∧ t.mem = s.mem ∧ t.focus = s.focus ∧
         (∀ m, m ≠ n → t.ctxAt cid m = s.ctxAt cid m) ∧ (∀ j, j ≠ cid → ∀ m, t.ctxAt j m = s.ctxAt j m) ∧
         (c.firing = true → t.ctxAt cid n = { c with park := .none } ∧ (t.core cid).turn = true ∧ t.chans = s.chans) ∧
         (∀ (h : BitVec 16) (ends : Bool) (hd : IWord), c.firing = false → s.header cid c h = some hd →
           headerFault c hd h 0 = none →
           (ends = true ∧ s.endDue c g = true ∧ s.endBlock cid c = some h ∨
             ends = false ∧ h = 0 ∧ (s.endDue c g = false ∨ s.endBlock cid c = none)) →
           let u := t.ctxAt cid n
           (t.core cid).turn = true ∧ u.firing = true ∧ u.endFiring = ends ∧ u.handler = h ∧ u.word = 0 ∧ u.chain = .empty ∧
           u.s = c.s ∧ u.full = c.full ∧ u.v = c.v ∧ u.e = c.e ∧ u.prec = c.prec ∧ u.cause = c.cause ∧ u.epc = c.epc ∧
           u.status = putBits c.status 8 (BitVec.ofNat 6 l) ∧
           (∀ p, getV u.consRem p = match s.inChan c p with
             | some (_, ch) => if ends = true ∨ ch.deng.isSome = true then 0 else BitVec.ofNat 8 ch.cons
             | none => 0) ∧
           (∀ p, getV u.prodRem p = match s.outChan c p with
             | some (_, ch) => if ends = true ∨ ch.seng.isSome = true then 0 else BitVec.ofNat 8 ch.prod
             | none => 0) ∧
           (∀ q m ch, s.outChan c q = some (m, ch) → s.Alone c m → t.chans[m]? = some { ch with
             free := ch.free - if ch.seng.isSome = true then 0 else if ends = true then 1 else ch.prod }) ∧
           ∀ m, (∀ q ch, s.outChan c q ≠ some (m, ch)) → t.chans[m]? = s.chans[m]?) ∧
         (∀ (h tv : BitVec 16) (ends : Bool) (hd hv : IWord), c.firing = false → s.header cid c h = some hd →
           (ends = true ∧ s.endDue c g = true ∧ s.endBlock cid c = some h ∨
             ends = false ∧ h = 0 ∧ (s.endDue c g = false ∨ s.endBlock cid c = none)) →
           c.status.getLsbD 0 = false → c.tvec.getLsbD 16 = true → tv = c.tvec.extractLsb' 0 16 → s.header cid c tv = some hv →
           hv.getLsbD 16 = true → headerFault c hv tv 0 = none →
           let u := t.ctxAt cid n
           let win := (hd.extractLsb' 23 3).toNat
           let p := (c.prec.extractLsb' 0 8).toNat
           let words := (p + 78) / 64
           let bad := 5 ≤ win ∨ hd.extractLsb' 0 16 ≠ h
           let taken := u.firing = true ∧ u.handler = tv ∧ u.word = 0 ∧ u.status.getLsbD 0 = true ∧ u.epc.extractLsb' 16 16 = h ∧
             u.epc.extractLsb' 0 16 = 0
           (bad → taken ∧ u.cause = 0x0A01 ∧ u.faddr = 0) ∧
           (¬ bad → 1 ≤ win → win < words → taken ∧ u.cause = BitVec.ofNat 64 (words * 65536 + 0x020C) ∧
             u.faddr = BitVec.ofNat 64 p)))) ∧
  (∀ (s : State) (cid : Nat) (n : BitVec 4) (g : Graph),
     let c := s.ctxAt cid n
     s.graph? c.graph = some g → c.bound = true → c.stopped = false → c.saved = false → c.firing = false →
     (g.st = .running ∨ g.st = .quiescing) →
     (s.unbalanced c = false → s.endDue c g = true → s.endBlock cid c = none →
       ∃ t, exec (.endOfInvocationStep cid n.toNat) s = .next t ∧
         t.ctxAt cid n = { c with invocations := c.invocations + 1, sourceFired := false } ∧
         (∀ m, m ≠ n → t.ctxAt cid m = s.ctxAt cid m) ∧ t.mem = s.mem ∧ t.net = s.net ∧ t.module = s.module ∧
         (∀ q m ch, s.outChan c q = some (m, ch) → s.Alone c m → t.chans[m]? = some { ch with
           free := ch.free - 1, held := ch.held ++ [⟨⟨0, 0, 5⟩, s.writesOf cid n, none⟩] }) ∧
         (∀ p m ch, s.inChan c p = some (m, ch) → ch.isStatic = true → s.Alone c m →
           t.chans[m]? = some { ch with queue := ch.queue.drop 1, owed := ch.owed + 1 }) ∧
         ∀ m, (∀ q ch, s.outChan c q ≠ some (m, ch)) → (∀ p ch, s.inChan c p ≠ some (m, ch)) → t.chans[m]? = s.chans[m]?) ∧
     (s.unbalanced c = true → ∃ t r, exec (.endOfInvocationStep cid n.toNat) s = .next t ∧
       t.module.log.getLast? = some r ∧ r.cls = 2 ∧ r.kind = 0x03 ∧ r.core = BitVec.ofNat 16 cid ∧ r.graph = c.graph ∧
       r.addr = (c.ctxid.extractLsb' 32 16).setWidth 64 ∧ t.mem = s.mem ∧
       ∀ p m ch, s.inChan c p = some (m, ch) → ch.isStatic = true → s.Alone c m → (∃ x ∈ ch.queue, x.code = 5) →
         0 < ch.tokens → ∃ ch', t.chans[m]? = some ch' ∧
           (ch'.queue = ch.queue.drop ch.tokens ∧ ch'.owed = ch.owed + ch.tokens ∨
             ch'.queue = ch.queue.drop (ch.tokens + 1) ∧ ch'.owed = ch.owed + ch.tokens + 1)))

/-- R193, R195, R198, R200, R203, R204: barriers and multicast. Where the arrivals satisfy a bound barrier of a running region, every completion
channel has space and the release before it has reached every core, the episode number rises and the release goes to
every member and done port; otherwise nothing happens. Where it reaches a core, the member's flag clears, and its done
ports receive the episode number. A copy that is the oldest of its sender and group at its place is handled, any other waits; a router
without a valid entry drops and counts a packet, and a member core without the group's binding drops, counts and reports
its copy. A copy that would cross a link or router that has failed is dropped and counted there (R207, log entry 10). The clauses on
packets are of one under which no entry of its group has changed. That an episode waits for the release
before it is the model's reading (log entry 30); an event that is not due leaves the state as it is (log entry 16). -/
def Obligations.BarriersAndMulticast : Prop :=
  ∀ (s : State) (n cid : Nat) (b : Barrier), s.barriers[n]? = some b →
    let runs := ∃ x, s.graph? (BitVec.ofNat 16 b.graph) = some x ∧ x.st = .running
    let here := fun m => getV (s.core m).arrive b.ident = true
    let met := if b.all = true then ∀ m ∈ b.members, here m else ∃ m ∈ b.members, here m
    let room := ∀ i ∈ b.done, ∀ ch, s.chan? i = some ch → 1 ≤ ch.free
    let port := fun k => ∃ i ∈ b.done, ∃ ch, s.chan? i = some ch ∧ ch.dst.core? = some k
    (b.bound = true ∧ runs ∧ met ∧ room ∧ b.releasing = [] → ∃ t u, exec (.barrierEpisodeComplete n) s = .next t ∧
      t.barriers[n]? = some u ∧ u.episode = b.episode + 1 ∧ (∀ k, k ∈ u.releasing ↔ k ∈ b.members ∨ port k) ∧
      u.members = b.members ∧ (∀ m, m ≠ n → t.barriers[m]? = s.barriers[m]?) ∧ t.cores = s.cores ∧ t.mem = s.mem ∧
      (∀ i ∈ b.done, b.done.count i = 1 → ∀ ch, s.chan? i = some ch → t.chans[i]? = some { ch with free := ch.free - 1 }) ∧
      ∀ i, i ∉ b.done → t.chans[i]? = s.chans[i]?) ∧
    (¬ (b.bound = true ∧ runs ∧ met ∧ room ∧ b.releasing = []) → exec (.barrierEpisodeComplete n) s = .next s) ∧
    (cid ∈ b.releasing → ∃ t u, exec (.barrierRelease n cid) s = .next t ∧ t.barriers[n]? = some u ∧
      u.episode = b.episode ∧ (∀ k, k ∈ u.releasing ↔ k ∈ b.releasing ∧ k ≠ cid) ∧ t.mem = s.mem ∧
      (cid ∈ b.members → getV (t.core cid).arrive b.ident = false) ∧
      (∀ j, j ≠ b.ident → getV (t.core cid).arrive j = getV (s.core cid).arrive j) ∧
      (∀ k, k ≠ cid → t.core k = s.core k) ∧
      (∀ i ∈ b.done, b.done.count i = 1 → ∀ ch, s.chan? i = some ch → ch.dst.core? = some cid →
        t.chans[i]? = some { ch with queue := ch.queue ++ [⟨b.episode.setWidth 512, 0, 0⟩] }) ∧
      ∀ i, i ∉ b.done → t.chans[i]? = s.chans[i]?) ∧
    ∀ p ∈ s.packets, (s.packets.countP fun q => q.id == p.id) = 1 → (∀ r ∈ s.mcasts, r.origin = p.origin → r.changed = false) →
      (s.mcastTurn p = false → exec (.multicastReplication p.id) s = .next s) ∧
      (s.mcastTurn p = true → p.member = none →
        let h := s.routerKey (p.sender / 65536) p.x p.y
        let e := (assocGet (s.hub h).mcast p.group).getD 0
        ∃ t, exec (.multicastReplication p.id) s = .next t ∧ p ∉ t.packets ∧ t.chans = s.chans ∧ t.mem = s.mem ∧
          (e.getLsbD 21 = false → t.packets = s.packets.filter (fun q => q.id != p.id) ∧
            (t.hub h).counters = (s.hub h).counters.map fun k => k.bump 0x094 1 none) ∧
          (e.getLsbD 21 = true → e.getLsbD 16 = true → ∀ i < 16, e.getLsbD i = true →
            ∃ q ∈ t.packets, q.member = some (h * 16 + i) ∧ q.payload = p.payload ∧ q.group = p.group) ∧
          (e.getLsbD 21 = true → s.failedLinks = [] → s.failedRouters = [] → 1 < p.hops → ∀ d x y, e.getLsbD (dirBit d) = true →
            p.from_ ≠ some d → neighbour p.x p.y d = some (x, y) →
            ∃ q ∈ t.packets, q.member = none ∧ q.x = x ∧ q.y = y ∧ q.from_ = some (dirOpposite d) ∧ q.hops = p.hops - 1 ∧
              q.payload = p.payload ∧ q.group = p.group) ∧
          (e.getLsbD 21 = true → ∀ d x y, e.getLsbD (dirBit d) = true → p.from_ ≠ some d → neighbour p.x p.y d = some (x, y) →
            (⟨p.x, p.y, d, .word⟩ ∈ s.failedLinks ∨ y * 64 + x ∈ s.failedRouters) →
            (∀ q ∈ t.packets, q ∈ s.packets ∨ q.member ≠ none ∨ q.x ≠ x ∨ q.y ≠ y) ∧
            (mcastDirs e p.from_ = [d] →
              (t.hub h).counters = (s.hub h).counters.map fun k => k.bump 0x094 1 none))) ∧
      (∀ k, s.mcastTurn p = true → p.member = some k → s.serviceChan (.mcast k p.group) = none →
        ∃ t r, exec (.multicastReplication p.id) s = .next t ∧ t.packets = s.packets.filter (fun q => q.id != p.id) ∧
          t.chans = s.chans ∧ (t.hub (k / 16)).counters = (s.hub (k / 16)).counters.map (fun x => x.bump 0x094 1 none) ∧
          t.module.log.getLast? = some r ∧ r.cls = 2 ∧ r.kind = 0x04) ∧
      ∀ k i ch, s.mcastTurn p = true → p.member = some k → s.serviceChan (.mcast k p.group) = some (i, ch) →
        (ch.queue.length < ch.depth → ∃ t, exec (.multicastReplication p.id) s = .next t ∧
          s.ChanBecomes t i { ch with queue := ch.queue ++ [⟨p.payload.setWidth 512, 0, 0⟩] } ∧
          t.packets = s.packets.filter (fun q => q.id != p.id) ∧ t.cores = s.cores) ∧
        (ch.depth ≤ ch.queue.length → exec (.multicastReplication p.id) s = .next s)

/-! ## Translation -/

/-- R282, R290, R292 to R299: misses and walks. The oldest miss of its core that reaches the hub hits in the hub's TLB and goes on,
joins a walk on its page, joins a fault-buffer entry of its page and parks on it, takes a free walker, or queues; it
stays where the queue is full. A walk reads one entry at its port: a valid non-leaf entry descends, a valid leaf that
permits the access has A (and D on a write) set and fills the TLBs, one that does not makes the access trap when it issues
again (protection 0x02), as a malformed entry (0x09) and a node or a next node in an absent core (0x08) do, and an entry with
V = 0 ends the walk, which takes its fault-buffer entry once every walk begun before it has ended. The moment at which a walk's last read and the fill happen is the model's choice (log entry 32). -/
def Obligations.Translation : Prop :=
  (∀ (s : State) (i : Instr) (m : Miss) (cid : Nat) (n : BitVec 4), (i = .hubMiss m.id ∨ i = .hubQueueRetry m.id) →
    m.waiter = .context cid n.toNat → s.missParked m.id cid n = true → m ∈ s.misses →
    s.misses.find? (fun x => x.id == m.id) = some m →
    s.misses.find? (fun x => s.waiterCore x.waiter == cid) = some m →
    let k := s.hub m.hub
    let c := s.ctxAt cid n
    let hit := k.tlb.find? fun e => e.covers m.asn m.va && e.allows m.read m.write
    let onPage := fun (a : BitVec 16) (va : Nat) => a = m.asn ∧ va / 2 ^ 18 = m.va / 2 ^ 18
    let walks := ∃ w ∈ k.walks, onPage w.asn w.va
    let entry := ∃ e ∈ k.faults, onPage e.asn e.fva
    let free := (k.walks.countP fun w => !w.ended) < 4
    let room := queuePages k.queue < 64 ∨ ∃ x ∈ k.queue, onPage x.asn x.va
    let takes := fun (p : State → Prop) => ∃ t, exec i s = .next t ∧ t.misses = s.misses.filter (fun x => x.id != m.id) ∧
      t.mem = s.mem ∧ t.chans = s.chans ∧ p t
    (∀ e, hit = some e → takes fun t => e ∈ (t.core cid).tlb ∧ t.ctxAt cid n = { c with park := .none }) ∧
    (hit = none → walks → takes fun t => t.ctxAt cid n = c ∧ (t.hub m.hub).walks.length = k.walks.length ∧
      ∃ w ∈ (t.hub m.hub).walks, onPage w.asn w.va ∧ m ∈ w.waiters) ∧
    (hit = none → ¬ walks → entry → takes fun t => (t.ctxAt cid n).park = .fault ∧
      (c.status.getLsbD 0 = false → (t.ctxAt cid n).cause = BitVec.ofNat 64 (m.operand.toNat * 65536 + 0x09) ∧
        (t.ctxAt cid n).faddr = BitVec.ofNat 64 m.va)) ∧
    (hit = none → ¬ walks → ¬ entry → free → k.queue = [] → takes fun t => t.ctxAt cid n = c ∧
      ∃ w, (t.hub m.hub).walks = k.walks ++ [w] ∧ w.asn = m.asn ∧ w.va = m.va ∧ w.level = 0 ∧ w.waiters = [m] ∧ w.ended = false ∧
        ∀ g r, s.graph? m.asn = some g → g.root = some r → w.node = r) ∧
    (hit = none → ¬ walks → ¬ entry → (¬ free ∨ k.queue ≠ []) →
      (room → takes fun t => t.ctxAt cid n = c ∧ (t.hub m.hub).queue = k.queue ++ [m]) ∧
      (¬ room → exec i s = .next s))) ∧
  ∀ (s : State) (h i cid : Nat) (n : BitVec 4) (w : Walk) (m : Miss) (g : Graph) (r : Nat), (s.hub h).walks[i]? = some w →
    w.waiters = [m] → m.waiter = .context cid n.toNat → s.missParked m.id cid n = true → s.graph? w.asn = some g → g.root = some r →
    (s.hub h).queue = [] → w.level ≤ 3 → Memory.wf s.mem = true → w.ended = false →
    (∀ j v, j ≠ i → (s.hub h).walks[j]? = some v → v.ended = false) →
    let entry := w.node + 8 * (w.va / 2 ^ (45 - 9 * w.level) % 512)
    let at_ := s.servedAt entry
    let ends := fun (detail : BitVec 8) => ∃ t, exec (.walkLevelRead h i) s = .next t ∧
      (t.hub h).walks = (s.hub h).walks.eraseIdx i ∧ t.mem = s.mem ∧ (t.hub h).faults = (s.hub h).faults ∧
      (t.ctxAt cid n) = { s.ctxAt cid n with park := .none, walked := some (m.va, detail) }
    (s.present (addrCore w.node) = false → ends 0x08) ∧
    (s.present (addrCore w.node) = true → s.reachable (16 * h) entry 8 = .wait → exec (.walkLevelRead h i) s = .next s) ∧
    (s.present (addrCore w.node) = true → s.reachable (16 * h) entry 8 = .open_ →
    let e : Word := BitVec.ofNat 64 (s.readLE at_ 8)
    let next := (e.extractLsb' 12 36).toNat * 4096
    (e.getLsbD 0 = true → malformed e w.level = false → e.getLsbD 1 = false → s.present (addrCore next) = true →
      ∃ t, exec (.walkLevelRead h i) s = .next t ∧ (t.hub h).walks[i]? = some { w with level := w.level + 1, node := next } ∧
        t.mem = s.mem ∧ t.cores = s.cores) ∧
    (e.getLsbD 0 = true → malformed e w.level = false → e.getLsbD 1 = true → (w.read = true → e.getLsbD 2 = true) →
      (w.write = true → e.getLsbD 3 = true) → s.spliceAt at_ = none →
      ∃ t x, exec (.walkLevelRead h i) s = .next t ∧ (t.hub h).walks = (s.hub h).walks.eraseIdx i ∧
        (t.ctxAt cid n) = { s.ctxAt cid n with park := .none } ∧ x ∈ (t.core cid).tlb ∧ x ∈ (t.hub h).tlb ∧
        x.asn = w.asn ∧ x.level = w.level ∧ x.addr = next ∧ x.rd = e.getLsbD 2 ∧ x.w = e.getLsbD 3 ∧
        x.d = (e.getLsbD 5 || w.write) ∧ x.page = w.va / 2 ^ (45 - 9 * w.level) ∧
        (∀ a, (∀ j < 8, s.place a ≠ s.place (at_ + j)) → t.readByte a = s.readByte a) ∧
        ((∀ j < 8, ∀ l < 8, s.place (at_ + j) = s.place (at_ + l) → j = l) →
          t.readLE at_ 8 = (e ||| (if w.write = true then 0x30 else 0x10)).toNat)) ∧
    (e.getLsbD 0 = true → malformed e w.level = false → e.getLsbD 1 = true → w.read = m.read → w.write = m.write →
      (m.read = true ∧ e.getLsbD 2 = false ∨ m.write = true ∧ e.getLsbD 3 = false) → ends 0x02) ∧
    (e.getLsbD 0 = true → malformed e w.level = true → ends 0x09) ∧
    (e.getLsbD 0 = true → malformed e w.level = false → e.getLsbD 1 = false → s.present (addrCore next) = false → ends 0x08) ∧
    (e.getLsbD 0 = false → i = 0 → (s.hub h).faults.length < 8 →
      ∃ t f, exec (.walkLevelRead h i) s = .next t ∧ (t.hub h).faults = (s.hub h).faults ++ [f] ∧ f.fva = m.va ∧ f.asn = m.asn ∧
        f.level = w.level ∧ f.acc = (BitVec.ofBool m.write ++ BitVec.ofBool m.read : BitVec 2) ∧ f.src = 0 ∧ f.ctxs = [(cid, n.toNat)] ∧
        f.cores = BitVec.ofNat 16 (2 ^ (cid % 16)) ∧ f.eng = 0 ∧ (t.hub h).drop = (s.hub h).drop ∧
        (t.ctxAt cid n).park = .fault ∧ t.mem = s.mem) ∧
    (e.getLsbD 0 = false → i = 0 → 8 ≤ (s.hub h).faults.length →
      ∃ t, exec (.walkLevelRead h i) s = .next t ∧ (t.hub h).faults = (s.hub h).faults ∧ (t.hub h).drop = true ∧
        (t.ctxAt cid n).park = .fault ∧ t.mem = s.mem) ∧
    (e.getLsbD 0 = false → i ≠ 0 → ∃ t, exec (.walkLevelRead h i) s = .next t ∧
      (t.hub h).walks = (s.hub h).walks.set i { w with ended := true } ∧ (t.hub h).faults = (s.hub h).faults ∧
      t.cores = s.cores ∧ t.mem = s.mem))

/-- R283, R301: what the host writes to REPLAY and TLBINV of a running module. REPLAY removes the ACK oldest entries, clears
DROP, and resumes every context in fault park and every engine in state 4 of the cluster, but saved contexts. TLBINV
starts an invalidation, is refused with 0x0C, or is discarded with LOST while one runs; once no access of the space is on
its way, every matching TLB entry of the wafer is gone, BUSY clears, DONE counts and STATUS is 0x00. With RET the splices of
the whole frame at TLBOLD end, in every column, or STATUS is 0x0B where there is none (R305).
That a larger ACK removes all entries, that those that stay name no waiter any more, the frame of SIZE 3, and the moment at
which an invalidation is complete are the model's readings and choices (log entries 32, 50, 77 and 78). -/
def Obligations.ReplayAndInvalidation : Prop :=
  ∀ (s : State) (v : Word), s.module.mst = .running →
    let h := s.module.wafer.toNat * 4096 + (v.extractLsb' 0 12).toNat
    let inv := s.module.invstat
    let ok := v.extractLsb' 52 9 = 0 ∧ match (v.extractLsb' 62 2).toNat with
      | 0 => True
      | 1 => v.extractLsb' 0 9 = 0
      | 2 => v.extractLsb' 0 18 = 0
      | _ => v.extractLsb' 0 36 = 0
    (v.toNat < 2 ^ 20 → v.extractLsb' 12 4 = 0 → s.present (h * 16) = true → ∃ t, exec (.replay v) s = .next t ∧
      (t.hub h).faults = ((s.hub h).faults.drop (v.extractLsb' 16 4).toNat).map (fun e =>
        { e with acc := 0, ctxs := [], cores := 0, eng := 0 }) ∧ (t.hub h).drop = false ∧
      (∀ j, j ≠ h → t.hub j = s.hub j) ∧ t.mem = s.mem ∧ t.chans = s.chans ∧
      ∀ cid, if cid / 16 = h then
          (∀ n, t.ctxAt cid n = if (s.ctxAt cid n).park = .fault ∧ (s.ctxAt cid n).saved = false
            then { s.ctxAt cid n with park := .none } else s.ctxAt cid n) ∧
          ∀ g, t.eng cid g = if (s.eng cid g).st = .waitXlate then { s.eng cid g with st := .running, waitMiss := none } else s.eng cid g
        else t.core cid = s.core cid) ∧
    (2 ^ 20 ≤ v.toNat ∨ v.extractLsb' 12 4 ≠ 0 ∨ s.present (h * 16) = false → exec (.replay v) s = .next s) ∧
    (∀ ret : Bool, ∀ i, i = (if ret then Instr.tlbInvalidateRetire v else .tlbInvalidate v) →
      (inv.getLsbD 7 = true → exec i s = .next { s with module := { s.module with invstat := inv ||| 0x10000 } }) ∧
      (inv.getLsbD 7 = false → ok → exec i s = .next { s with module := { s.module with
        inval := some ⟨v.extractLsb' 36 16, v.extractLsb' 62 2, v.extractLsb' 0 36, ret⟩, invstat := inv ||| 0x80 } }) ∧
      (inv.getLsbD 7 = false → ¬ ok → ∃ x : Word, exec i s = .next { s with module := { s.module with invstat := x } } ∧
        x.extractLsb' 0 7 = 0x0C ∧ x.extractLsb' 7 57 = inv.extractLsb' 7 57)) ∧
    ∀ x : Inval, s.module.inval = some x →
      let out := (∃ m ∈ s.net, s.translated x m = true) ∨ s.engineInside x = true
      (x.ret = true → ¬ out →
        let bytes := if x.size = 1 then 2 ^ 27 else if x.size = 2 then 2 ^ 36 else 2 ^ 18
        let lo := s.module.tlbold.toNat / bytes * bytes
        let hi := lo + bytes
        ∃ t, exec .invalidationComplete s = .next t ∧ t.module.inval = none ∧ t.module.invstat.getLsbD 7 = false ∧ t.mem = s.mem ∧
          (∀ a, lo ≤ a → a < hi → t.spliceAt a = none) ∧
          (∀ k, ∀ p ∈ (s.core k).splices, p.old + p.len ≤ lo ∨ hi ≤ p.old → p ∈ (t.core k).splices) ∧
          ((∃ k, ∃ p ∈ (s.core k).splices, p.old < hi ∧ lo < p.old + p.len) → t.module.invstat.extractLsb' 0 7 = 0) ∧
          ((∀ y ∈ s.cores, ∀ p ∈ y.2.splices, p.old + p.len ≤ lo ∨ hi ≤ p.old) → t.module.invstat.extractLsb' 0 7 = 0x0B)) ∧
      (x.ret = false → ¬ out →
        ∃ t, exec .invalidationComplete s = .next t ∧ t.module.inval = none ∧ t.module.invstat.extractLsb' 0 8 = 0 ∧
          t.module.invstat.extractLsb' 8 8 = inv.extractLsb' 8 8 + 1 ∧ t.module.invstat.extractLsb' 16 48 = inv.extractLsb' 16 48 ∧
          t.mem = s.mem ∧ t.net = s.net ∧
          (∀ k e, k / 65536 = s.module.wafer.toNat → (e ∈ (t.core k).tlb ↔ e ∈ (s.core k).tlb ∧ x.takes e = false)) ∧
          (∀ k e, k / 4096 = s.module.wafer.toNat → (e ∈ (t.hub k).tlb ↔ e ∈ (s.hub k).tlb ∧ x.takes e = false)) ∧
          ∀ e : TlbEntry, x.takes e = true ↔ e.asn = x.asn ∧ (x.size = 3 ∨ ∃ va,
            va / 2 ^ pageBits e.level = e.page ∧ x.vpn.toNat * 2 ^ 18 ≤ va ∧ va < x.vpn.toNat * 2 ^ 18 + 2 ^ (18 + 9 * x.size.toNat))) ∧
      (out → exec .invalidationComplete s = .next s) ∧
      ∀ m ∈ s.net, ∀ a, m.via = none → (∃ n, m.body.span? = some (a, n)) → (∀ y n z, m.body ≠ .forward y n z) → m.graph = x.asn →
        (s.translated x m = true ↔ m.src / 65536 = s.module.wafer.toNat ∧
          let has := (s.core m.src).tlb.filter fun e => e.asn == x.asn && e.addr ≤ a && a < e.addr + 2 ^ pageBits e.level
          (has = [] ∨ ∃ e ∈ has, x.takes e = true))

/-! ## Regions -/

/-- R172, R264: the host's requests to a running module. A request while one runs is discarded with LOST; a reserved OP ends
with 0x0C; the operations on a graph answer with the statuses of R172's table, and act as R169 to R180 and R199 say: a
load configures the region, a launch adds its invocations, an edit waits for quiescence or begins at once in a saved region,
a pre-emption closes the region, a resume opens it again, once the ports to its frames let it, and puts its held press commands
back as entries are free, an unload frees everything.
Which requests stay BUSY, when an edit is judged, and the statuses for which R172's table gives none are the model's
readings (log entries 13, 40, 42, 43, 73 and 74), and so is that the sequence numbers of a context outlive its region (log entry
80).
R169, R172, R173, R177 to R179, R230, R248, R252, R389: what ends the passing states of a region, once the column ports its
frames or data lie behind are open. A configured or edited region's DRAM data is written and it is loaded, or runs where launches
wait; an edit that is refused at quiescence leaves the launches behind it open; a resume that waited for a port is refused where a
core has moved meanwhile; a quiescing one
that is quiescent, its opened invocations ended, is saved; a halting one is saved once everything of it has drained, its
turns over and its engines in state 5. A save writes the window's words, e0 first, into the frame, and a failed bus halts
the region.
Where the bank, the firing state and the queue entries lie in a frame is the model's reading (log entry 7). -/
def Obligations.Regions : Prop :=
  (∀ (s : State) (g : BitVec 16) (n : BitVec 40), s.module.mst = .running →
     let all : List Instr := [.loadImage g n, .launch g n, .edit g n, .preemptCooperative g n, .preemptForced g n, .resume g n,
       .unload g n, .tableReconfigure g n, .multicastEntryWrite g n]
     let runs := fun (t : State) (op : BitVec 8) =>
       t.module.reqstat.extractLsb' 0 8 = 0x80 ∧ t.module.reqstat.extractLsb' 8 8 = op
     (s.module.reqstat.getLsbD 7 = true → ∀ i ∈ all,
       exec i s = .next { s with module := { s.module with reqstat := s.module.reqstat ||| 0x10000 } }) ∧
     (s.module.reqstat.getLsbD 7 = false →
       (∀ op : BitVec 8, op = 0 ∨ 9 < op.toNat → s.Refuses (.reqReservedOperation op g n) op 0x0C) ∧
       (s.graph? g = none →
         (1 ≤ n.toNat → n.toNat < 2 ^ 32 → s.Refuses (.launch g n) 0x02 0x02) ∧
         (n.toNat < 2 ^ 32 → s.Refuses (.edit g n) 0x03 0x02) ∧ s.Refuses (.preemptCooperative g 0) 0x04 0x02 ∧
         s.Refuses (.preemptForced g 0) 0x05 0x02 ∧ s.Refuses (.resume g 0) 0x06 0x02 ∧ s.Refuses (.unload g 0) 0x07 0x02) ∧
       (n.extractLsb' 32 7 = 0 →
         let len := n.toNat % 2 ^ 32
         (∀ x, s.graph? g = some x → s.Refuses (.loadImage g n) 0x01 0x01) ∧
         (s.graph? g = none → len ≤ 0x4000000 →
           (∀ e, s.judge g.toNat (s.staged len) = .error e → s.Refuses (.loadImage g n) 0x01 e) ∧
           ∀ ims pl, s.judge g.toNat (s.staged len) = .ok (ims, pl) → ∃ t x, exec (.loadImage g n) s = .next t ∧ s.Ended t 0x01 0 ∧
             t.graph? g = some x ∧ x.st = .configuring ∧ x.pager = n.getLsbD 39 ∧ x.cores = pl.plan.cores ∧ x.launched = 0 ∧
             x.ended = 0 ∧ x.root = pl.plan.root ∧ x.actors.length = pl.plan.actors.length ∧
             ∀ a ∈ pl.frames, (t.ctxAt a.1.cid (BitVec.ofNat 4 a.1.ctx)).bound = true)) ∧
       (n.toNat ≤ 0x4000000 →
         (s.module.reconfigure = none → ∃ t, exec (.tableReconfigure g n) s = .next t ∧ runs t 0x08 ∧
           t.module.reconfigure = some ⟨true, s.staged n.toNat⟩ ∧ t.mem = s.mem ∧ t.graphs = s.graphs ∧ t.tables = s.tables) ∧
         (s.module.reconfigure ≠ none → s.Refuses (.tableReconfigure g n) 0x08 0x0B)) ∧
       (g.toNat < 4096 → n.extractLsb' 22 10 = 0 →
         (((s.tablesOf s.module.wafer.toNat).fields[g.toNat / 64]?).join).isSome = true →
         let r := s.routerOf ((s.module.wafer.toNat * 4096 + g.toNat) * 16)
         let key := s.routerKey s.module.wafer.toNat r.1 r.2
         ∃ t, exec (.multicastEntryWrite g n) s = .next t ∧ s.Ended t 0x09 0 ∧ t.mem = s.mem ∧ t.cores = s.cores ∧
           (assocGet (t.hub key).mcast (n.toNat / 2 ^ 32)).getD 0 = n.setWidth 32 ∧
           ∀ k, k ≠ n.toNat / 2 ^ 32 → assocGet (t.hub key).mcast k = assocGet (s.hub key).mcast k) ∧
       ∀ x, s.graph? g = some x →
         let opens := x.st = .running ∨ x.st = .saved
         (1 ≤ n.toNat → n.toNat < 2 ^ 32 →
           (x.st = .halted → s.Refuses (.launch g n) 0x02 0x0E) ∧
           (x.st = .loaded → x.moved = true → s.Refuses (.launch g n) 0x02 0x06) ∧
           (x.st = .loaded → x.moved = false → s.Leaves (.launch g n) 0x02 g fun t y => y.launched = x.launched + n.toNat ∧
             (y.st = .running ∨ y.st = .loaded ∧ y.ended = y.launched) ∧ t.mem = s.mem ∧ t.cores = s.cores ∧ t.chans = s.chans) ∧
           (x.st ≠ .unloaded → x.st ≠ .halted → x.st ≠ .loaded → s.Leaves (.launch g n) 0x02 g fun t y =>
             y = { x with launched := x.launched + n.toNat } ∧ t.mem = s.mem ∧ t.cores = s.cores ∧ t.chans = s.chans)) ∧
         (n.toNat ≤ 0x4000000 →
           (x.st = .configuring → s.Refuses (.edit g n) 0x03 0x03) ∧ (x.st = .editing → s.Refuses (.edit g n) 0x03 0x05) ∧
           (x.st = .halted → s.Refuses (.edit g n) 0x03 0x0E) ∧
           (opens → x.edit ≠ none → s.Refuses (.edit g n) 0x03 0x05) ∧
           (∀ e, opens → x.edit = none → (s.freeRegion x).judge g.toNat (s.staged n.toNat) = .error e →
             s.Refuses (.edit g n) 0x03 e) ∧
           ((x.st = .loaded ∨ x.st = .quiescing ∨ x.st = .halting) → ∃ e, s.Refuses (.edit g n) 0x03 e) ∧
           (∀ p, x.st = .running → x.edit = none → (s.freeRegion x).judge g.toNat (s.staged n.toNat) = .ok p →
             s.Leaves (.edit g n) 0x03 g fun t y => y = { x with edit := some (s.staged n.toNat), cap := some x.launched } ∧
               t.mem = s.mem ∧ t.cores = s.cores) ∧
           (∀ ims pl, x.st = .saved → x.edit = none → (s.freeRegion x).judge g.toNat (s.staged n.toNat) = .ok (ims, pl) →
             s.editPort x pl.plan = .open_ → s.Leaves (.edit g n) 0x03 g fun _ y => y.st = .editing ∧ y.edit = none ∧
               y.cores = pl.plan.cores ∧ y.ended = x.ended ∧ y.launched = x.launched)) ∧
         (x.st = .running → s.Leaves (.preemptCooperative g 0) 0x04 g fun t y =>
           y = { x with st := .quiescing, cap := some (s.openedCount x) } ∧ t.mem = s.mem ∧ t.cores = s.cores) ∧
         ((x.st = .running ∨ x.st = .quiescing) → s.Leaves (.preemptForced g 0) 0x05 g fun t y =>
           y = { x with st := .halting, cap := some (s.openedCount x) } ∧ t.mem = s.mem ∧ t.chans = s.chans ∧
           ∀ k ∈ x.cores, (∀ p ∈ (t.core k).pressQ, p.graph = g → p.phase = .committing) ∧
             ∀ p ∈ (t.core k).held, p.graph = g → p.back = false) ∧
         (∀ i op, (i = .preemptCooperative g 0 ∧ op = 0x04 ∨ i = .preemptForced g 0 ∧ op = 0x05) →
           (x.st = .configuring → s.Refuses i op 0x03) ∧ (x.st = .halted → s.Refuses i op 0x0E) ∧
           ((x.st = .loaded ∨ x.st = .saved ∨ x.st = .editing) → s.Refuses i op 0x04) ∧
           (x.st = .halting ∨ x.st = .quiescing ∧ op = 0x04 → ∃ e, s.Refuses i op e)) ∧
         (x.st = .halted → s.Refuses (.resume g 0) 0x06 0x0E) ∧
         (x.st = .saved → x.moved = true → s.Refuses (.resume g 0) 0x06 0x06) ∧
         (x.st = .saved → x.moved = false → s.framesPort x = .down → ∃ t y, exec (.resume g 0) s = .next t ∧ s.Ended t 0x06 0x0E ∧
           t.graph? g = some y ∧ y.st = .halted) ∧
         (x.st = .saved → x.moved = false → s.framesPort x = .wait → ∃ t, exec (.resume g 0) s = .next t ∧ runs t 0x06 ∧
           t.graph? g = some { x with resuming := true } ∧ t.mem = s.mem ∧ t.cores = s.cores) ∧
         (x.st = .saved → x.moved = false → s.framesPort x = .open_ → s.Leaves (.resume g 0) 0x06 g fun t y =>
           (y.st = .running ∨ y.st = .loaded ∧ y.ended = y.launched) ∧ y.cap = none ∧ t.mem = s.mem ∧
           (∀ a ∈ x.actors, (t.ctxAt a.cid a.ctx).saved = false) ∧
           (∀ k ∈ x.cores, ∀ p ∈ (s.core k).held, p.graph = g →
             { p with rst := true, back := false } ∈ (t.core k).pressQ ∨
               { p with back := true } ∈ (t.core k).held ∧ 4 ≤ (t.core k).pressQ.length) ∧
           ∀ (a : ActorPlace) (hd : IWord), x.actors = [a] → (s.ctxAt a.cid a.ctx).firing = true →
             s.header a.cid (s.ctxAt a.cid a.ctx) (s.ctxAt a.cid a.ctx).handler = some hd → hd.extractLsb' 23 3 ≠ 0 →
             (∀ b, addrCore b = a.cid → s.spliceAt b = none) →
             let w := (((s.ctxAt a.cid a.ctx).prec.extractLsb' 0 8).toNat + 78) / 64
             (s.ctxAt a.cid a.ctx).saveBase + s.savedBytes a.cid a.ctx ≤ 2 ^ 24 → a.cid < 2 ^ 21 → ∀ i : Fin 32,
             (t.ctxAt a.cid a.ctx).e[i] = BitVec.ofNat 256 (s.readLE (a.cid * 2 ^ 26 + 3 * 2 ^ 24 +
               (s.ctxAt a.cid a.ctx).saveBase + 2624 + 8 * w * i.val) (8 * w))) ∧
         ((x.st = .loaded ∨ x.st = .saved ∨ x.st = .halted) → ∃ t, exec (.unload g 0) s = .next t ∧ s.Ended t 0x07 0 ∧
           t.graph? g = none ∧ (∀ ch ∈ t.chans, ch.graph = g.toNat → ch.bound = false) ∧
           (x.st ≠ .saved ∨ s.framesPort x = .down ∨ (∀ k ∈ x.cores, ∀ e, (s.eng k e).cmd ≠ .splice) → t.mem = s.mem) ∧
           ∀ a ∈ x.actors, a.cid ∈ x.cores → t.ctxAt a.cid a.ctx = { Context.reset a.ctx with
             seq := (s.ctxAt a.cid a.ctx).seq, cseq := (s.ctxAt a.cid a.ctx).cseq }))) ∧
  (∀ (s : State) (g : BitVec 16) (x : Graph), s.graph? g = some x →
     let saves := fun (t : State) => (∃ y, t.graph? g = some y ∧ y = { x with st := .saved }) ∧ t.chans = s.chans ∧
       t.module = s.module ∧ ∀ a ∈ x.actors, ∃ v q, t.ctxAt a.cid a.ctx = { s.ctxAt a.cid a.ctx with
         saved := true, framed := v, frameSeed := q }
     let ended := ∀ n, x.cap = some n → n ≤ x.ended
     let halts := fun (i : Instr) => ∃ t y, exec i s = .next t ∧ t.graph? g = some y ∧ y.st = .halted ∧ t.mem = s.mem
     ((x.st = .configuring ∨ x.st = .editing) →
       (s.dataPort x = .open_ → ∃ t y, exec (.regionConfigured g) s = .next t ∧ t.graph? g = some y ∧ y.launched = x.launched ∧
         (x.launched ≤ x.ended → y.st = .loaded) ∧ (y.st = .running ∨ y.st = .loaded) ∧ y.writes = [] ∧ t.cores = s.cores ∧
         t.module = s.module ∧ (x.writes = [] → t.mem = s.mem) ∧
         ∀ a l, x.writes = [(a, l)] → (∀ b, s.place b = b) → (∀ b, s.spliceAt b = none) → Memory.wf s.mem = true →
           ∀ b, t.readByte b = if a ≤ b ∧ b < a + l.length then l.getD (b - a) 0 else s.readByte b) ∧
       (s.dataPort x = .wait → exec (.regionConfigured g) s = .next s) ∧
       (s.dataPort x = .down → halts (.regionConfigured g))) ∧
     (s.quiescent x = true → x.st = .quiescing → ended →
       (x.edit = none → s.framesPort x = .open_ → ∃ t, exec (.regionQuiescent g) s = .next t ∧ saves t) ∧
       (s.framesPort x = .wait → exec (.regionQuiescent g) s = .next s) ∧
       (s.framesPort x = .down → halts (.regionQuiescent g))) ∧
     (x.st = .quiescing → (s.quiescent x = false ∨ ¬ ended) → exec (.regionQuiescent g) s = .next s) ∧
     (∀ l e, x.st = .running → s.quiescent x = true → x.edit = some l → (s.freeRegion x).judge g.toNat l = .error e →
       ∃ t y, exec (.regionQuiescent g) s = .next t ∧ t.graph? g = some y ∧ y.edit = none ∧ y.cap = none ∧ t.mem = s.mem ∧
         t.cores = s.cores) ∧
     (x.st = .saved → x.resuming = true → x.moved = true → ∃ t y, exec (.regionQuiescent g) s = .next t ∧ s.Ended t 0x06 0x06 ∧
       t.graph? g = some y ∧ y = { x with resuming := false } ∧ t.mem = s.mem ∧ t.cores = s.cores) ∧
     (x.st = .halting → s.drained x = true → s.framesPort x = .down → halts (.regionSaved g)) ∧
     (∀ (a : ActorPlace) (hd : IWord), x.st = .halting → s.drained x = true → x.edit = none → s.framesPort x = .open_ →
       x.actors = [a] → (s.ctxAt a.cid a.ctx).firing = true →
       s.header a.cid (s.ctxAt a.cid a.ctx) (s.ctxAt a.cid a.ctx).handler = some hd → hd.extractLsb' 23 3 ≠ 0 →
       (s.core a.cid).splices = [] → (∀ b, addrCore b = a.cid → s.place b = b) → a.cid < 2 ^ 21 → Memory.wf s.mem = true →
       (s.ctxAt a.cid a.ctx).saveBase + s.savedBytes a.cid a.ctx ≤ 2 ^ 24 →
       let w := (((s.ctxAt a.cid a.ctx).prec.extractLsb' 0 8).toNat + 78) / 64
       ∃ t, exec (.regionSaved g) s = .next t ∧ ∀ i : Fin 32, t.readLE (a.cid * 2 ^ 26 + 3 * 2 ^ 24 +
         (s.ctxAt a.cid a.ctx).saveBase + 2624 + 8 * w * i.val) (8 * w) = (s.ctxAt a.cid a.ctx).e[i].toNat % 2 ^ (64 * w)) ∧
     (x.st = .halting → s.drained x = true → x.edit = none → s.framesPort x = .open_ →
       ∃ t, exec (.regionSaved g) s = .next t ∧ saves t ∧ ∀ cid ∈ x.cores,
         ((s.ctxAt cid (s.core cid).current).bound = true → (s.ctxAt cid (s.core cid).current).graph = g →
           (t.core cid).turn = false) ∧
         ∀ e n, (s.eng cid e).holder = some n → (s.ctxAt cid n).bound = true → (s.ctxAt cid n).graph = g →
           (s.eng cid e).st.busy = true → (s.eng cid e).st ≠ .halted →
           t.eng cid e = { s.eng cid e with before := (s.eng cid e).st, st := .halted, waitMiss := none }) ∧
     (x.st ≠ .halting ∨ s.drained x = false → exec (.regionSaved g) s = .next s))

/-! ## The host -/

/-- R120, R263, R266, R267, R269: host accesses to a running module. A push puts one token, of the payload bytes and TAG (0 in the
lanes that are not valid), behind those of the window's channels, or is refused with OVR; a pop takes the head token of the
channel whose invocation is earliest and answers its code and mask, or answers 0 with OVR; a raw token is never queued
and always counted and reported; a counter select that is taken clears its count; the plain
registers take what their table says, and a write to what is read-only is discarded.
That a marker of a sink window is delivered at the host's pop, that a counter select with an FVAL above 15 is discarded, and what
a window with several channels does, are the model's readings (log entries 55, 57 and 81). -/
def Obligations.HostAccess : Prop :=
  ∀ (s : State) (g : BitVec 16) (n core entry : Nat) (v : Word), s.module.mst = .running → n < 64 →
    let key := g.toNat * 64 + n
    let code : BitVec 3 := v.extractLsb' 16 3
    let refused := fun (i : Instr) => ∃ t, exec i s = .next t ∧ t.chans = s.chans ∧ t.graphs = s.graphs ∧ t.mem = s.mem ∧
      (t.pane key).ovr = true
    (∀ x l, s.graph? g = some x → s.windowsOf g n false = l → l ≠ [] →
      let opens := match x.cap with
        | some k => min k x.launched
        | none => x.launched
      let may := ∀ y ∈ l, 0 < y.2.free ∧ (x.st = .running ∨ x.st = .quiescing ∧ y.1.markers < opens) ∧
        (code = 5 → y.1.markers < opens)
      (may → ∃ t z, exec (.windowPush g n v) s = .next t ∧ t.mem = s.mem ∧ t.cores = s.cores ∧
        (t.pane key).tag = v &&& 0x7FFFF ∧ (t.pane key).ovr = (s.pane key).ovr ∧
        (∀ y ∈ l, (l.countP fun u => u.1.chan == y.1.chan) = 1 → ∃ tok : Token, t.chans[y.1.chan]? = some { y.2 with
            free := y.2.free - 1, held := y.2.held ++ [⟨tok, [], none⟩] } ∧ tok.code = code ∧
          (y.2.vec = false → tok.payload = (s.pane key).payload &&& 0xFFFFFFFFFFFFFFFF) ∧
          (y.2.vec = true → tok.valid = v.setWidth 16 ∧ ∀ i < 16, tok.payload.extractLsb' (32 * i) 32 =
            if v.getLsbD i = true then (s.pane key).payload.extractLsb' (32 * i) 32 else 0)) ∧
        (∀ m, (∀ y ∈ l, y.1.chan ≠ m) → t.chans[m]? = s.chans[m]?) ∧ t.graph? g = some z ∧ z.st = x.st ∧
        ∀ y ∈ l, { y.1 with
          markers := if code = 5 then y.1.markers + 1 else y.1.markers, begun := decide (code ≠ 5) } ∈ z.windows) ∧
      (¬ may → refused (.windowPush g n v))) ∧
    (s.windowsOf g n false = [] → refused (.windowPush g n v)) ∧
    (s.windowsOf g n true = [] → refused (.windowPop g n)) ∧
    (∀ w ch, nextSink (s.windowsOf g n true) = some (w, ch) → (∀ y ∈ s.windowsOf g n true, w.markers ≤ y.1.markers) ∧
      (∀ k rest, ch.queue = k :: rest → ∃ t, exec (.windowPop g n) s = .next t ∧ t.mem = s.mem ∧ t.cores = s.cores ∧
        t.chans[w.chan]? = some { ch with queue := rest, owed := ch.owed + 1 } ∧
        (∀ m, m ≠ w.chan → t.chans[m]? = s.chans[m]?) ∧ (t.pane key).payload = k.payload ∧
        t.module.reply = leBytes 8 (k.code.toNat * 65536 + k.valid.toNat) ∧
        ∃ y, t.graph? g = some y ∧ { w with markers := if k.code = 5 then w.markers + 1 else w.markers } ∈ y.windows) ∧
      (ch.queue = [] → refused (.windowPop g n) ∧ ∃ t, exec (.windowPop g n) s = .next t ∧ t.module.reply = leBytes 8 0)) ∧
    (let cid := s.module.wafer.toNat * 65536 + core % 65536
     s.present cid = true → ∃ t r, exec (.rawTokenWrite core entry v) s = .next t ∧ t.chans = s.chans ∧ t.mem = s.mem ∧
      t.graphs = s.graphs ∧ (∀ m, t.ctxAt cid m = s.ctxAt cid m) ∧
      (t.core cid).counters = (s.core cid).counters.map (fun x => x.bump 0x090 1 none) ∧ t.module.log.getLast? = some r ∧ r.cls = 2 ∧
      r.detail = BitVec.ofNat 8 entry ∧ r.core = BitVec.ofNat 16 cid ∧
      r.kind = if ∃ ch ∈ s.chans, ch.bound = true ∧ ch.dst.onCore cid = true ∧ ch.dent = entry then 0x06 else 0x01) ∧
    (∀ (k : Nat) (j : Fin 4), k < 65536 →
      ∃ t, exec (.counterSelectWrite (64 * k + 16 * j + 8) v) s = .next t ∧ t.mem = s.mem ∧ t.chans = s.chans ∧
        (let a := (s.core (s.module.wafer.toNat * 65536 + k)).counters
         let b := (t.core (s.module.wafer.toNat * 65536 + k)).counters
         (∀ i : Fin 4, i ≠ j → b[i] = a[i]) ∧
         (selectOk .core v = true → b[j].count = 0 ∧ ∀ x < 64, b[j].sel.getLsbD x = (v.getLsbD x && (x < 10 || 14 ≤ x && x < 33))) ∧
         (selectOk .core v = false → b[j] = a[j]))) ∧
    (∀ off, let w := Instr.hostRegisterWrite off v
      (off = 0x110 → exec w s = exec (.replay v) s) ∧
      (off = 0x118 → exec w s = .next { s with module := { s.module with tlbold := v.extractLsb' 0 48 } }) ∧
      (off = 0x130 → exec w s = .next { s with module := { s.module with gsel := v.extractLsb' 0 16 } }) ∧
      (off = 0x108 → v.getLsbD 16 = true → ∃ x : Word, exec w s = .next { s with module := { s.module with reqstat := x } } ∧
        ∀ j < 64, x.getLsbD j = (s.module.reqstat.getLsbD j && decide (j ≠ 16))) ∧
      (off = 0x100 → (v.extractLsb' 56 8 = 2 → exec w s = exec (.launch (v.extractLsb' 40 16) (v.extractLsb' 0 40)) s) ∧
        (v.extractLsb' 56 8 = 1 → exec w s = exec (.loadImage (v.extractLsb' 40 16) (v.extractLsb' 0 40)) s) ∧
        (v.extractLsb' 56 8 = 7 → exec w s = exec (.unload (v.extractLsb' 40 16) (v.extractLsb' 0 40)) s)) ∧
      (0x1000000 ≤ off → off + 8 ≤ 0x5000000 → ∃ l, exec w s = .next { s with module := { s.module with staging := l } } ∧
        ∀ j, j < 0x4000000 → l.getD j 0 = if off - 0x1000000 ≤ j ∧ j < off - 0x1000000 + 8
          then v.extractLsb' (8 * (j - (off - 0x1000000))) 8 else s.module.staging.getD j 0) ∧
      (off = 0x100000000 + g.toNat * 0x2000 + n * 0x80 + 0x40 → exec w s = exec (.windowPush g n v) s) ∧
      ((off = 0 ∨ off = 0x138 ∨ 0xF00 ≤ off ∧ off < 0x10000 ∨ 0x200000000 ≤ off ∧ off < 0x300200000) → exec w s = .next s))

/-! ## The management port -/

/-- R271 to R278: command records. A record that is malformed is answered with 0x0C and one that is not signed by an enrolled key
with a new SEQ with 0x08, and neither does anything else; any other takes its SEQ and does what the table says of it: the
rails, which stay off in service hold, starts, service hold, the step, FRATE, table reconfigures, the image policy, keys,
the wafer number and counter selects. A start sets the measurements to 0. Starts, the policy and keys are taken while the rails are on; else they are refused.
That a SEQ is taken whatever the status, that power on in service hold answers 0x00, that leaving service hold changes the state
alone, and that the status of a refusal with the rails off is open, are the model's readings and choices (log entries 13, 51
and 53). -/
def Obligations.ManagementCommands : Prop :=
  ∀ (s : State) (r : CommandRecord),
    let num := fun (o n : Nat) => numAt r.payload o n
    let m := s.module
    let signed := s.signedRecord r = true
    let ok := fun (cmd : BitVec 8) (size : Nat) => recordMalformed r cmd [size] = false ∧ signed
    (∀ (i : Instr) (cmd : BitVec 8) (size : Nat),
      (i = .powerOn r ∧ cmd = 1 ∧ size = 0 ∨ i = .powerOff r ∧ cmd = 2 ∧ size = 0 ∨ i = .coldStart r ∧ cmd = 3 ∧ size = 0 ∨
        i = .warmStart r ∧ cmd = 4 ∧ size = 0 ∨ i = .clearServiceHold r ∧ cmd = 5 ∧ size = 0 ∨
        i = .setStep r ∧ cmd = 6 ∧ size = 1 ∨ i = .writeFrate r ∧ cmd = 7 ∧ size = 10 ∨
        i = .mgmtTableReconfigure r ∧ cmd = 8 ∧ size = r.payload.length ∨ i = .setImagePolicy r ∧ cmd = 9 ∧ size = 1 ∨
        i = .setSystemWaferNumber r ∧ cmd = 0x0B ∧ size = 1 ∨ i = .mgmtWriteCounterSelect r ∧ cmd = 0x0C ∧ size = 12) →
      (recordMalformed r cmd [size] = true → s.Answers i r 0x0C []) ∧
      (recordMalformed r cmd [size] = false → ¬ signed → s.Answers i r 0x08 [])) ∧
    (ok 1 0 → (m.mst ≠ .hold → s.Sets (.powerOn r) r 0x00 fun x => { x with powered := true }) ∧
      (m.mst = .hold → s.Sets (.powerOn r) r 0x00 id)) ∧
    (ok 2 0 → s.Commands (.powerOff r) r 0x00 fun t => t.AllHalted ∧ t.module.powered = false ∧ t.module.railMv = 0 ∧
      t.module.mst = (if m.mst = .hold then .hold else .off) ∧ t.mem = s.mem ∧ t.tables = s.tables) ∧
    (∀ i warm cmd, (i = .coldStart r ∧ warm = false ∧ cmd = 3 ∨ i = .warmStart r ∧ warm = true ∧ cmd = 4) → ok cmd 0 →
      ((m.mst = .running ∨ m.mst = .off) → m.powered = true →
        s.Sets i r 0x00 fun x => { x with mst := .starting, warm := warm, m0 := 0, m1 := 0, m2 := 0 }) ∧
      ((m.mst = .running ∨ m.mst = .off) → m.powered = false → ∃ e, s.Sets i r e id) ∧
      (m.mst = .starting → s.Sets i r 0x09 id) ∧ (m.mst = .hold → s.Sets i r 0x0D id)) ∧
    (ok 5 0 → (m.mst = .hold → s.Sets (.clearServiceHold r) r 0x00 fun x => { x with mst := .off }) ∧
      (m.mst ≠ .hold → s.Sets (.clearServiceHold r) r 0x0C id)) ∧
    (ok 6 1 →
      let b := num 0 1
      let step : BitVec 3 := BitVec.ofNat 3 b
      (8 ≤ b → s.Sets (.setStep r) r 0x0C id) ∧
      (b < 8 → m.mst ≠ .running → s.Sets (.setStep r) r 0x09 id) ∧
      (b < 8 → m.mst = .running → (∃ c, m.change = some c ∧ c.settling = false) → s.Sets (.setStep r) r 0x0A id) ∧
      (b < 8 → m.mst = .running → m.change = none →
        (m.step.toNat < b → s.Sets (.setStep r) r 0x00 fun x => { x with
          setStep := step, change := some ⟨step, none, [], false⟩, railMv := railOf step }) ∧
        (b ≤ m.step.toNat → s.Sets (.setStep r) r 0x00 fun x => { x with
          setStep := step, change := some ⟨step, some (m.wave + 4096), [], false⟩ }))) ∧
    (ok 7 10 →
      let f := num 0 2
      let v : Word := BitVec.ofNat 64 (num 2 8)
      let good := f < 64 ∧ (((s.tablesOf m.wafer.toNat).fields[f]?).join).isSome = true ∧ (v.extractLsb' 24 4).toNat < 13 ∧
        ¬ (v.getLsbD 28 = true ∧ v.extractLsb' 0 16 = 0)
      (m.mst ≠ .running → s.Sets (.writeFrate r) r 0x09 id) ∧
      (m.mst = .running → ¬ good → s.Sets (.writeFrate r) r 0x0C id) ∧
      (m.mst = .running → good → s.Commands (.writeFrate r) r 0x00 fun t => t.mem = s.mem ∧ t.cores = s.cores ∧
        (∀ k, k ≠ m.wafer.toNat * 64 + f → t.field k = s.field k) ∧
        (t.field (m.wafer.toNat * 64 + f)).frate = v &&& 0x1F00FFFF)) ∧
    (ok 8 r.payload.length →
      (m.mst = .running → m.reconfigure = none →
        s.Sets (.mgmtTableReconfigure r) r 0x00 fun x => { x with reconfigure := some ⟨false, r.payload⟩ }) ∧
      (m.mst ≠ .running ∨ m.reconfigure ≠ none → s.Sets (.mgmtTableReconfigure r) r 0x0B id)) ∧
    (ok 9 1 →
      (m.powered = true → num 0 1 < 2 → s.Sets (.setImagePolicy r) r 0x00 fun x => { x with reqsig := decide (num 0 1 = 1) }) ∧
      (m.powered = true → 2 ≤ num 0 1 → s.Sets (.setImagePolicy r) r 0x0C id) ∧
      (m.powered = false → ∃ e, s.Sets (.setImagePolicy r) r e id)) ∧
    (∀ k ∈ [1, 1953], recordMalformed r 0x0A [1, 1953] = false → r.payload.length = k →
      let j := num 0 1
      let key := r.payload.drop 1
      (m.keys = [] → r.key = 0xFF →
        (m.powered = true → j = 0 → k = 1953 → r.overI3c = true → ∃ t, exec (.enrolOperatorKey r) s = .next t ∧
          t.module.reply = replyRecord r 0x00 [] ∧ t.module.keys = [(0, key)] ∧ assocGet t.module.seqs 0 = some 0) ∧
        (j ≠ 0 ∨ k = 1 ∨ r.overI3c = false → s.Answers (.enrolOperatorKey r) r 0x08 [])) ∧
      (¬ (m.keys = [] ∧ r.key = 0xFF) →
        (¬ signed → s.Answers (.enrolOperatorKey r) r 0x08 []) ∧
        (signed → m.powered = false → ∃ e, s.Sets (.enrolOperatorKey r) r e id) ∧
        (signed → m.powered = true → (8 ≤ j → s.Sets (.enrolOperatorKey r) r 0x0C id) ∧
          (j < 8 → k = 1953 → ∃ t, exec (.enrolOperatorKey r) s = .next t ∧ t.module.reply = replyRecord r 0x00 [] ∧
            assocGet t.module.keys j = some key ∧ assocGet t.module.seqs j = some 0 ∧
            ∀ q, q ≠ j → assocGet t.module.keys q = assocGet m.keys q) ∧
          (j < 8 → k = 1 → (∃ q ∈ m.keys, q.1 ≠ j) →
            s.Sets (.enrolOperatorKey r) r 0x00 fun x => { x with keys := x.keys.filter fun q => q.1 != j }) ∧
          (j < 8 → k = 1 → (∀ q ∈ m.keys, q.1 = j) → s.Sets (.enrolOperatorKey r) r 0x0C id)))) ∧
    (ok 0x0B 1 →
      (num 0 1 < 32 → s.Sets (.setSystemWaferNumber r) r 0x00 fun x => { x with nextWafer := BitVec.ofNat 5 (num 0 1) }) ∧
      (32 ≤ num 0 1 → s.Sets (.setSystemWaferNumber r) r 0x0C id)) ∧
    (ok 0x0C 12 → m.mst = .running → s.Commands (.mgmtWriteCounterSelect r) r 0x00 fun t => t.mem = s.mem ∧ t.chans = s.chans ∧
      ∃ u, exec (.counterSelectWrite (num 0 4) (BitVec.ofNat 64 (num 4 8))) s = .next u ∧ t.cores = u.cores ∧ t.hubs = u.hubs ∧
        t.fields = u.fields)

/-- R268, R269, R273, R277: the reads of the management port change nothing but the answer given: MSTATE with the failed starts and
the step last set (in the free layout of log entry 15), log records, counters, remap views, and the report for a nonce
with its signature (both free values, log entries 5 and 15). All but the first are answered while the rails are on, and else
refused with a status that is open (log entry 13). A record that is malformed or names no command is refused
with 0x0C. The 65,487 bytes that a reply holds, and the regions that a report names, are the model's readings (log entries 53
and 84). -/
def Obligations.ManagementReads : Prop :=
  ∀ (s : State) (r : CommandRecord),
    let m := s.module
    let num := fun (o n : Nat) => numAt r.payload o n
    let fine := fun (cmd : BitVec 8) (size : Nat) => recordMalformed r cmd [size] = false
    (fine 0x10 0 → s.Answers (.readStatus r) r 0x00 (Config.statusAnswer s.mstate m.failedStarts m.setStep.toNat)) ∧
    (m.powered = true → fine 0x11 6 → ∃ l, s.Answers (.readLog r) r 0x00 l ∧ l.length ≤ 64 * num 4 2 ∧ l.length ≤ 65487 ∧
      (m.log.length ≤ 960 → ∀ i j x, j < num 4 2 → 64 * j + 64 ≤ 65487 → j ≤ i → m.log[i]? = some x →
        (num 0 4 + j) % 2 ^ 32 = ((m.head + 2 ^ 32 - m.log.length) % 2 ^ 32 + i) % 2 ^ 32 →
        (l.drop (64 * j)).take 64 = [x.cls, x.kind, x.wafer, x.detail] ++ leBytes 2 x.core.toNat ++ leBytes 2 x.graph.toNat ++
          leBytes 8 x.addr.toNat ++ leBytes 8 x.cause.toNat ++ leBytes 8 x.faddr.toNat ++ leBytes 8 x.epc.toNat ++
          List.replicate 24 0)) ∧
    (m.powered = true → fine 0x12 8 → ∃ l, s.Answers (.readCounters r) r 0x00 l ∧ l.length = 8 * (min (num 4 4) 65487 / 8) ∧
      ∀ (k : Nat) (j : Fin 4), k < 65536 → num 0 4 = 64 * k + 16 * j → 16 ≤ num 4 4 →
        let x := (s.core (m.wafer.toNat * 65536 + k)).counters[j]
        l.take 16 = leBytes 8 x.count.toNat ++ leBytes 8 x.sel.toNat) ∧
    (m.powered = true → fine 0x13 8 → ∃ l, s.Answers (.readRemapViews r) r 0x00 l ∧ l.length = 8 * (min (num 4 4) 65487 / 8) ∧
      ∀ k < 64, num 0 4 = 0x800 + 8 * k → 8 ≤ num 4 4 → l.take 8 = leBytes 8 ((s.tablesOf m.wafer.toNat).fmap k).toNat) ∧
    (m.powered = true → fine 0x14 32 →
      let report := Config.reportBytes r.payload [m.m0, m.m1, m.m2] m.step.toNat m.starts
        ((s.graphs.filter fun g => g.st != .configuring && g.st != .unloaded).map fun g => (g.num.toNat, g.digest))
      s.Answers (.attestation r) r 0x00 (report ++ Config.deviceSign report)) ∧
    (∀ (i : Instr) (cmd : BitVec 8) (size : Nat),
      (i = .readStatus r ∧ cmd = 0x10 ∧ size = 0 ∨ i = .readLog r ∧ cmd = 0x11 ∧ size = 6 ∨
        i = .readCounters r ∧ cmd = 0x12 ∧ size = 8 ∨ i = .readRemapViews r ∧ cmd = 0x13 ∧ size = 8 ∨
        i = .attestation r ∧ cmd = 0x14 ∧ size = 32) → (¬ fine cmd size → s.Answers i r 0x0C []) ∧
      (fine cmd size → cmd ≠ 0x10 → m.powered = false → ∃ e, s.Answers i r e [])) ∧
    ((r.magic ≠ 0x434D4B49 ∨ r.ver ≠ 1 ∨ r.cmd = 0 ∨ 0x0C < r.cmd.toNat ∧ r.cmd.toNat < 0x10 ∨ 0x14 < r.cmd.toNat ∨
      r.reservedZero = false ∨ r.sized = false ∨ r.serialOk = false ∨ 61440 < r.payload.length) →
      s.Answers (.mgmtRecordRefused r) r 0x0C [])

/-! ## Clocks, power and failures -/

/-- R237, R253, R254, R255, R258, R274, R275: steps and starts. A settled rail lets the wave go out; each field takes the new step at K and
acknowledges; when all have, the step is in force and a fall lowers the rail. Throttling lowers the step by one, recovery
raises it by one; a trip or a power fault halts every region and cuts the rails. A period is stretched only where the
last three were not. A warm start that fails becomes a cold one; a cold start that fails before it writes DRAM leaves every
region unloaded, every pool 0 and DRAM as it was; the third failed cold start in a row leads to service hold.
That 100 µs have passed since an acknowledgement is a free value, and what a failed start leaves, and throttling and recovery without
their intervals, are the model's choices (log entries 14, 51 and 54); an event that is not due leaves the state as it is (log
entry 16). -/
def Obligations.ClockEvents : Prop :=
  ∀ (s : State),
    let m := s.module
    let sets := fun (i : Instr) (f : Module → Module) => exec i s = .next { s with module := f m }
    let k0 := m.wave + 4096
    let on := m.mst = .running ∨ m.mst = .starting
    (∀ c, m.change = some c → c.settling = false →
      (c.at_ = none → sets .coreRailSettled fun x => { x with change := some ⟨c.new, some k0, [], false⟩ }) ∧
      (∀ k n, c.at_ = some k → n < 64 → n ∉ c.acked → ∃ t, exec (.waveCountReached n) s = .next t ∧
        (t.field (m.wafer.toNat * 64 + n)).step = c.new ∧ (∀ j, j ≠ m.wafer.toNat * 64 + n → t.field j = s.field j) ∧
        t.module = { m with wave := max m.wave k, change := some { c with acked := c.acked ++ [n] } } ∧ t.mem = s.mem ∧
        t.cores = s.cores) ∧
      (c.at_ ≠ none → (∀ n < 64, n ∈ c.acked) → sets .stepChangeAcknowledged fun x => { x with
        step := c.new, railMv := if c.new < m.step then railOf c.new else x.railMv, change := some { c with settling := true } }) ∧
      (c.at_ = none ∨ (∃ n < 64, n ∉ c.acked) → exec .stepChangeAcknowledged s = .next s)) ∧
    (∀ a b w : Nat,
      let past := 95 ≤ a ∨ 85 ≤ b ∨ 30000 < w
      let cool := a ≤ 90 ∧ b ≤ 80 ∧ w < 28000
      (m.mst = .running → m.change = none → m.step ≠ 0 → past →
        sets (.throttling a b w) fun x => { x with change := some ⟨m.step - 1, some k0, [], false⟩ }) ∧
      (m.mst ≠ .running ∨ m.step = 0 ∨ ¬ past → exec (.throttling a b w) s = .next s) ∧
      (m.mst = .running → m.change = none → m.step.toNat < m.setStep.toNat → cool → sets (.recovery a b w) fun x => { x with
        change := some ⟨m.step + 1, none, [], false⟩, railMv := railOf (m.step + 1) }) ∧
      (m.mst ≠ .running ∨ m.setStep.toNat ≤ m.step.toNat ∨ ¬ cool → exec (.recovery a b w) s = .next s) ∧
      (∀ i kind, (i = .thermalTrip a b ∧ kind = 0x0A ∧ (110 ≤ a ∨ 95 ≤ b) ∨
          i = .powerFault w ∧ kind = (0x0B : BitVec 8) ∧ (w < 500 ∨ 760 < w)) → on →
        ∃ t r, exec i s = .next t ∧ t.AllHalted ∧ t.module.mst = .off ∧ t.module.railMv = 0 ∧ t.mem = s.mem ∧
          t.module.log.getLast? = some r ∧ r.cls = 1 ∧ r.kind = kind) ∧
      (¬ on → exec (.thermalTrip a b) s = .next s ∧ exec (.powerFault w) s = .next s) ∧
      (a < 110 → b < 95 → exec (.thermalTrip a b) s = .next s) ∧ (500 ≤ w → w ≤ 760 → exec (.powerFault w) s = .next s)) ∧
    (∀ n < 64,
      let at_ := m.wafer.toNat * 64 + n
      ((s.field at_).unstretched = 0 → ∃ t, exec (.clockStretches n) s = .next t ∧ (t.field at_).unstretched = 3 ∧
        (t.field at_).step = (s.field at_).step ∧ (∀ j, j ≠ at_ → t.field j = s.field j) ∧ t.cores = s.cores ∧ t.mem = s.mem) ∧
      ((s.field at_).unstretched ≠ 0 → exec (.clockStretches n) s = .next s)) ∧
    (m.mst ≠ .starting → exec .failedStart s = .next s) ∧
    (m.mst = .starting →
      (m.warm = true → sets .failedStart fun x => { x with warm := false }) ∧
      (m.warm = false → Memory.wf s.mem = true → ∃ t, exec .failedStart s = .next t ∧ t.graphs = [] ∧ t.chans = [] ∧ t.net = [] ∧
        (∀ y < 2 ^ 48, t.readByte y = if addrPool y = true then 0 else s.readByte y) ∧
        t.module = (if m.failedStarts < 2 then { m with failedStarts := m.failedStarts + 1, mst := .off, railMv := 0 }
          else { m with failedStarts := m.failedStarts + 1, mst := .hold, powered := false, railMv := 0 })))

/-- R206, R207, R247, R252, R259 to R261: what fails, and what is corrected. The eighth retry in a row, or four cycles of
disagreement, fails a link, both its directions: it is reported, of what is on its ways some is lost, some is past it and goes on, and every region
with a channel over it halts, by its tokens' way or its credits'; a failed router likewise. The retries count for one flit or beat.
A message that comes to what has failed is discarded and counted. An access that finds an error is counted where it was corrected, else
it ends, is reported, its bytes are marked until they are written, and the region that made it halts. A column defers
retraining while its port holds accesses, and pauses otherwise; a retraining that failed is reported. Refresh and
scrubbing change no state a program sees; scrubbing reports a word it cannot correct and one found bad before, and stands still in
a pause and behind a failed bus. What is marked in a register, queue or table, at an address of its own, is reported likewise.
Which packets a failed link discards, that a retraining waits, that errors come as inputs, and that an event which is not due
leaves the state as it is, are the model's choices (log entries 1, 10, 16, 54 and 96). -/
def Obligations.FailureEvents : Prop :=
  ∀ (s : State) (l : Link) (n cid a : Nat),
    let said := fun (t : State) (kind : BitVec 8) => ∃ r, t.module.log.getLast? = some r ∧ r.cls = 1 ∧ r.kind = kind
    let both := fun (l x : Link) => x = l ∨ x = (reverseLink l)
    let quiet := fun (t : State) => t.mem = s.mem ∧ t.chans = s.chans ∧ t.graphs = s.graphs ∧ t.net = s.net ∧
      ∀ k j, t.ctxAt k j = s.ctxAt k j
    let fails := fun (i : Instr) (l : Link) => ∃ t, exec i s = .next t ∧
      (∀ x, x ∈ t.failedLinks ↔ x ∈ s.failedLinks ∨ both l x) ∧ said t 0x03 ∧ t.mem = s.mem ∧
      (∀ x, x ∈ t.badLinks → ¬ both l x.1) ∧
      (∀ ch ∈ s.chans, ch.bound = true → (∃ x ∈ s.chanLinks ch false ++ s.chanLinks ch true, both l x) →
        ∀ x ∈ t.graphs, x.num = BitVec.ofNat 16 ch.graph → x.st = .halted ∨ x.st = .unloaded) ∧
      (∀ m ∈ t.net, ∃ x ∈ s.net, m = x ∨ m = { x with past := true }) ∧
      (∀ (j : Nat) (ch : Channel), s.chans[j]? = some ch → ∃ c : Channel, t.chans[j]? = some c ∧ c.queue = ch.queue ∧
        ((∀ x ∈ s.chanLinks ch false, ¬ both l x) → c.flight = ch.flight) ∧ c.flight.Sublist ch.flight ∧
        ((∃ x ∈ s.chanLinks ch false, both l x) → ch.flight ≠ [] → c.past ≤ c.flight.length)) ∧
      ∀ g, g ∉ s.graphsOn (fun x => x == l || x == (reverseLink l)) (fun x => s.treeUses l x || s.treeUses (reverseLink l) x) →
        t.graph? g = s.graph? g
    let run := match s.badLinks.find? fun x => x.1 == l with
      | some x => if x.2.1 = n then x.2.2 else 0
      | none => 0
    (run + 1 < 8 → ∃ t, exec (.linkRetries ⟨l, n⟩) s = .next t ∧ quiet t ∧ t.failedLinks = s.failedLinks ∧
      (l, n, run + 1) ∈ t.badLinks) ∧
    (7 ≤ run → fails (.linkRetries ⟨l, n⟩) l) ∧
    (∀ m x, s.msg? m.id = some m → m.body.span? = some x → m.entry = false → m.past = false →
      s.linked .word m.from_ m.dst = false → ∃ t, exec (.ownerPortAccess m.id) s = .next t ∧ (∀ y ∈ t.net, y.id ≠ m.id) ∧
        t.mem = s.mem ∧ t.chans = s.chans ∧ t.graphs = s.graphs ∧
        (t.core m.dst).counters = (s.core m.dst).counters.map fun k => k.bump 0x090 1 none) ∧
    (n < 4 → exec (.controlLineDisagreement l n) s = .next s) ∧
    (4 ≤ n → fails (.controlLineDisagreement l n) { l with plane := .control }) ∧
    (∃ t, exec (.routerFailed n) s = .next t ∧ n ∈ t.failedRouters ∧ said t 0x04 ∧ t.mem = s.mem ∧
      ∀ ch ∈ s.chans, ch.bound = true → (∃ y ∈ s.chanLinks ch false ++ s.chanLinks ch true, touches n y = true) →
        ∀ x ∈ t.graphs, x.num = BitVec.ofNat 16 ch.graph → x.st = .halted ∨ x.st = .unloaded) ∧
    (let k := s.core cid
     let busy := ∃ x ∈ s.net, x.dst = cid ∧ x.entry = false
     (k.retrain ≠ .pausing → ¬ busy → ∃ t, exec (.retrainingDue cid) s = .next t ∧ (t.core cid).retrain = .pausing ∧ quiet t) ∧
     (k.retrain ≠ .pausing → busy → ∃ t, exec (.retrainingDue cid) s = .next t ∧ (t.core cid).retrain = .due ∧ quiet t) ∧
     (k.retrain = .due → ∃ t, exec (.retrainingDeferralLimit cid) s = .next t ∧ (t.core cid).retrain = .pausing ∧ quiet t) ∧
     (k.retrain ≠ .due → exec (.retrainingDeferralLimit cid) s = .next s) ∧
     (k.retrain = .pausing → ∀ bad, ∃ t, exec (.retrainingEnd cid bad) s = .next t ∧ (t.core cid).retrain = .idle ∧ quiet t ∧
       (t.core cid).busFailed = (k.busFailed || bad) ∧ (bad = true → said t 0x09) ∧ (bad = false → t.module = s.module))) ∧
    (∃ t, exec (.refresh cid) s = .next t ∧ quiet t) ∧
    let word := fun (n : Nat) (t : State) => ∀ i < n, (s.place (a / n * n + i), a) ∈ t.flaws
    let unit := if addrPool a = true then 8 else 32
    let idle := s.portBusy a = false ∧ s.busDown a = false
    let marked := ∃ i < unit, ∃ x ∈ s.flaws, x.1 = s.place (a / unit * unit + i)
    (¬ idle → ∀ f, exec (.patrolScrub cid a f) s = .next s) ∧
    (idle → ¬ marked → exec (.patrolScrub cid a .clean) s = .next s ∧
      ∃ t, exec (.patrolScrub cid a .corrected) s = .next t ∧ quiet t ∧ t.module = s.module ∧
        (t.core cid).counters = (s.core cid).counters.map fun k => k.bump (if addrPool a = true then 0x071 else 0x072) 1 none) ∧
    (idle → marked → ∃ t, exec (.patrolScrub cid a .clean) s = .next t ∧ quiet t ∧ t.flaws = s.flaws ∧
      said t (if addrPool a = true then 0x05 else 0x06)) ∧
    (idle → ∃ t, exec (.patrolScrub cid a .uncorrectable) s = .next t ∧ quiet t ∧ said t (if addrPool a = true then 0x05 else 0x06) ∧
      word (if addrPool a = true then 8 else 32) t) ∧
    (∀ who x addr rest at_ graph ended, s.inputs = .spotError who x addr :: rest → s.midChain = false →
      ({ s with inputs := rest } : State).accessEnds who = some (at_, graph, ended) →
      ∃ t, step s = .next t ∧ (x, addr) ∈ t.spots ∧ said t (match x with
          | .reg .. => 0x05
          | .entry .. => 0x05
          | _ => 0x07) ∧
        ∀ y ∈ t.graphs, y.num = graph → y.st = .halted ∨ y.st = .unloaded) ∧
    ∀ who store bad rest at_ graph ended, s.inputs = .memoryError who store a bad :: rest → s.midChain = false →
      ({ s with inputs := rest } : State).accessEnds who = some (at_, graph, ended) →
      ∃ t, step s = .next t ∧
        (store ≠ .table → bad = false → t = ({ s with inputs := rest } : State).count (addrCore a)
          (if store = .pool then 0x071 else 0x072)) ∧
        ((store = .table ∨ bad = true) → said t (if store = .table then 0x07 else if store = .pool then 0x05 else 0x06) ∧
          (∀ x ∈ t.graphs, x.num = graph → x.st = .halted ∨ x.st = .unloaded) ∧
          (store = .pool → word 8 t) ∧ (store = .dram → word 32 t))

/-! ## Encodings, steps, reset, the invariant -/

/-- Words of the spec's own listings and examples, one or more of each family, decode to the instruction that the listing
shows beside them; the all-zero word and a nonzero reserved field are refused by name. -/
def Obligations.DecodeWords : Prop :=
  decodeWord 0x00308800 = .ok (.add 3 1 2 false) ∧
  decodeWord 0x00018C13 = .ok (.or 0 3 3 true) ∧
  decodeWord 0x24B00000 = .ok (.li 11 0) ∧
  decodeWord 0x2825000F = .ok (.fmvFS 2 10 false) ∧
  decodeWord 0x41089380 = .ok (.bCond 16 17 1 14 false false) ∧
  decodeWord 0x42200080 = .ok (.loop 2 2 false false) ∧
  decodeWord 0x4D400004 = .ok (.csrr 20 0x004) ∧
  decodeWord 0x6041E000 = .ok (.ld false 4 3 6 0) ∧
  decodeWord 0x68018011 = .ok (.pout 0 3 true) ∧
  decodeWord 0x80AA6000 = .ok (.sndCurd 10 20 24 false) ∧
  decodeWord 0x8A358810 = .ok (.amoAdd 3 11 2 true) ∧
  decodeWord 0x9290000B = .ok (.fenceVis 9 3) ∧
  decodeWord 0xA2408983 = .ok (.vfma 4 1 2 3 false) ∧
  decodeWord 0xAD7A1C00 = .ok (.vld 23 20 7 0 false false) ∧
  decodeWord 0xC0020000 = .ok (.tshp 0 4 false) ∧
  decodeWord 0xC6C19040 = .ok (.pmm 12 3 4 2 false) ∧
  decodeWord 0xD0908001 = .ok (.sgo 9 1) ∧
  decodeWord 0xE0308801 = .ok (.esub 3 1 2) ∧
  decodeWord 0xE8313F00 = .ok (.est false 3 2 31 0) ∧
  decodeWord 0xF47000B8 = .ok (.scl 7 0 0 0x17 false) ∧
  decodeWord 0 = .error .allZero ∧
  decodeWord 0x4A100001 = .error .reservedField

/-- R27, R28, R97: decoding and encoding agree. The four bytes of every well-formed instruction decode to it, whatever follows
them, with every operand at every value the encoding admits; and a word that decodes is the word of the well-formed
instruction it decodes to, so that each word has one meaning and no bit of it is dropped. -/
def Obligations.EncodeDecode : Prop :=
  (∀ (i : Instr) (rest : List Byte), i.wellFormed = true → decode (encodeBytes i ++ rest) = some (.ok i, rest)) ∧
  ∀ (w : IWord) (i : Instr), decodeWord w = .ok i → i.wellFormed = true ∧ encode i = w

/-- R24, R26, R31 to R34, R72, R166: what a step does. With no input waiting, in a running module and a turn that issues, the
bytes at the running word that decode to an instruction without an encoding fault are run by `exec`, once the results that the
instruction reads are available; a prefix is so where its whole chain has no fault; a word that does not decode, or a fault of
the running block, is the illegal-instruction trap. Where no turn issues, the step is a selection; an input that waits goes
first unless a chain is open. A prefix that its chain does not admit is the illegal-prefix trap at that prefix: not taken by
the instruction, a second of its kind, out of order, at the end of the block, or with a value out of range (R33). Time alone
changes no register, memory byte, channel, message or region, and no core whose turn runs but the one that issues; the next
instruction issues a cycle later, 2 after a branch taken, 4 after a block entry, a trap or the end of a turn, and later where
what it reads is due later.
The order in which inputs come, the steps that prefixes make, the cycles that pass for other agents, the operand of an encoding
fault, what the tables of latencies leave open, and how marked memory is found again and accesses come between pieces are the
model's choice or reading (log entries 1, 2, 17, 20, 94, 96 and 98). -/
def Obligations.StepRunsDecoded : Prop :=
  ∀ (s : State),
    let runs := fun (u : State) (i : Instr) => match exec i u with
      | .next t => Host.Outcome.next (u.keepSpots (u.timed t i) i)
      | .fault f => .fault f
      | .refused r => .refused r
    let clean := fun (u : State) => u.flaws = [] ∧ u.spots = []
    (∀ (t : State) (i : Instr), let u := s.keepSpots t i
      u = { t with spots := u.spots } ∧ (s.spots = [] → u = t) ∧ ∀ x ∈ u.spots, ∃ y ∈ t.spots, y.2 = x.2) ∧
    (∀ n : Nat, let u := s.elapse n
      u.mem = s.mem ∧ u.chans = s.chans ∧ u.net = s.net ∧ u.graphs = s.graphs ∧ u.flaws = s.flaws ∧
      u.focus = s.focus ∧ u.inputs = s.inputs ∧ u.cur.turn = s.cur.turn ∧ (∀ k m, u.ctxAt k m = s.ctxAt k m) ∧
      u.cur.cycle = s.cur.cycle + BitVec.ofNat 64 n ∧ (∀ k, k ≠ s.focus → (s.core k).turn = true → u.core k = s.core k) ∧
      ∃ w : Nat, u.module = { s.module with wave := s.module.wave + w }) ∧
    (∀ (t : State) (i : Instr), let u := s.timed t i
      u = { t with cores := u.cores } ∧ (∀ k, u.core k = { t.core k with gap := (u.core k).gap, due := (u.core k).due }) ∧
      (i.isPrefix = true → u = t) ∧ (i.coded = false → (∀ k, i ≠ .selection k) → u = t) ∧
      (i.coded = true → i.isPrefix = false →
        (∀ k, k ≠ t.focus → u.core k = t.core k) ∧
        (t.cur.turn = false ∨ s.ctx.inTrap = false ∧ t.ctx.inTrap = true ∨ entersBlock i = true → u.cur.gap = 4) ∧
        (t.cur.turn = true → t.ctx.inTrap = s.ctx.inTrap → entersBlock i = false →
          u.cur.gap = (if s.branches i = true then 2 else 1) ∧
          ∀ x n, (x, n) ∈ s.results t i → 1 < n → x ≠ .s 0 → x ≠ .k 0 → ⟨s.who, x, n⟩ ∈ u.cur.due))) ∧
    (∀ i, (i.isPrefix = true → s.waitOf i = 0) ∧
      (i.isPrefix = false → s.cur.gap ≤ s.waitOf i ∧
        (∀ d ∈ s.cur.due, d.ctx = s.who → d.place ∈ s.uses i → d.left ≤ s.waitOf i) ∧
        (s.waitOf i = s.cur.gap ∨ ∃ d ∈ s.cur.due, d.ctx = s.who ∧ d.place ∈ s.uses i ∧ d.left = s.waitOf i))) ∧
    (s.inputs = [] → s.module.mst = .off ∨ s.module.mst = .hold → step s = .next s) ∧
    (∀ (e : Instr) rest, s.inputs = .event e :: rest → s.midChain = false → e.coded = false →
      (clean s → step s = runs { s with inputs := rest } e)) ∧
    (∀ cid rest, s.inputs = .focus cid :: rest → s.midChain = false → step s = .next { s with inputs := rest, focus := cid }) ∧
    (∀ cuts rest i, s.inputs = .within cuts :: rest → s.module.mst = .running → ({ s with inputs := rest } : State).turnIssues = true →
      clean s → ({ s with inputs := rest } : State).issueNext = .run i →
      let u := ({ s with inputs := rest } : State).elapse (s.waitOf i)
      (u.pieces i).isSome = true → step s = u.performPieces exec i cuts) ∧
    (s.module.mst = .running → (s.inputs = [] ∨ s.midChain = true ∧ ∀ cuts rest, s.inputs ≠ .within cuts :: rest) →
      (s.turnIssues = false → s.module.reconfigure = none →
        let u := s.elapse s.selectTime
        (clean s → step s = runs u (.selection s.focus)) ∧
        (s.selectTime = 0 ↔ s.cur.turn = true ∨ s.topLevel s.focus ≠ none)) ∧
      (s.turnIssues = true → ∀ a, s.fetchMeets = some a → step s = .next (s.faulted fun t => t.endAccess (.pipe t.focus) .pool a)) ∧
      (s.turnIssues = true → s.fetchMeets = none → ∀ i, s.issueNext = .run i →
        let u := s.elapse (s.waitOf i)
        (u.meets exec i = none → step s = runs u i) ∧
        ∀ a, u.meets exec i = some a → step s = .next (u.timed (u.endAccess (.pipe u.focus) a.1 a.2) i)) ∧
      (clean s → s.fetchMeets = none ∧ ∀ u i, clean u → State.meets u exec i = none) ∧
      (s.turnIssues = true → clean s → ∀ (off : Nat), s.ctx.blockAt s.ctx.handler = some off →
        let hd := s.poolWord s.focus off
        let at_ := s.ctx.word.toNat
        let bytes := s.readBytes (poolAddr s.focus (off + 4 + 4 * at_)) 4
        let w : IWord := BitVec.ofNat 32 (leNat bytes)
        let traps := fun (code o d : BitVec 8) => step s = .next (s.faulted fun t => t.trap code o d (BitVec.ofNat 64 at_))
        at_ < wordCount hd →
        (∀ i, decode bytes = some (.ok i, []) → blockFault hd at_ w i = none → i.isPrefix = false →
          step s = runs (s.elapse (s.waitOf i)) i) ∧
        (∀ e, decode bytes = some (.error e, []) → e ≠ .longLatencyS0 → ∃ o, (e ≠ .outOfRange → o = 0) ∧ traps 0x01 o e.detail) ∧
        (∀ i d, decode bytes = some (.ok i, []) → blockFault hd at_ w i = some d → traps 0x01 0 d) ∧
        (∀ i x, decode bytes = some (.error .longLatencyS0, []) → decodeRaw w = .ok (i, x) → blockFault hd at_ w i = none →
          traps 0x01 0 0x0B) ∧
        ∀ p, decode bytes = some (.ok p, []) → p.isPrefix = true → blockFault hd at_ w p = none →
          let bad := fun d => traps 0x02 0 d
          let next := fun (n : Nat) (q : Instr) => at_ + n < wordCount hd ∧
            decodeWord (s.poolWord s.focus (off + 4 + 4 * (at_ + n))) = .ok q ∧
            blockFault hd (at_ + n) (s.poolWord s.focus (off + 4 + 4 * (at_ + n))) q = none
          (at_ + 1 = wordCount hd → bad 0x04) ∧
          (∀ q, next 1 q → q.isPrefix = false →
            (prefixVerdict p q = none → bad 0x01) ∧ (prefixVerdict p q = some false → bad 0x05)) ∧
          (∀ q i, next 1 q → next 2 i → q.isPrefix = true → i.isPrefix = false →
            (prefixVerdict p i = none → bad 0x01) ∧
            (prefixVerdict p i ≠ none → prefixRank q = prefixRank p → bad 0x02) ∧
            (prefixVerdict p i ≠ none → prefixRank q < prefixRank p → bad 0x03))))

/-- R8, R13, R274: what reset leaves. Every context of every core has the values of R8 and R13, each core the limits of R13
and no partition; memory reads 0 everywhere; no region is loaded and nothing is in flight; and the invariant holds. That
wafer 0, step 6 and tables without a defect stand after reset is the model's choice (log entries 3 and 4). -/
def Obligations.ResetState : Prop :=
  State.reset.Inv ∧ (∀ a, State.reset.readByte a = 0) ∧ State.reset.graphs = [] ∧ State.reset.chans = [] ∧
  State.reset.net = [] ∧ State.reset.module.mst = .running ∧ State.reset.module.log = [] ∧
  ∀ (k : Nat) (n : BitVec 4),
    let c := State.reset.ctxAt k n
    let q := State.reset.core k
    (∀ r, c.readS r = 0 ∧ c.isFull r = true) ∧ (∀ (r : Reg) (j : BitVec 4), getV (getV c.v r) j = 0) ∧
    (∀ r : BitVec 3, getV c.k r = if r = 0 then 0xFFFF else 0) ∧ (∀ r, c.readF r = 0) ∧ (∀ r, c.readE r = 0) ∧
    (∀ p : BitVec 4, getV c.inPort p = none ∧ getV c.outPort p = none) ∧
    c.status = 0 ∧ c.prec = 0x18 ∧ c.cause = 0 ∧ c.faddr = 0 ∧ c.epc = 0 ∧ c.ctxid = n.setWidth 64 ∧ c.tvec = 0 ∧
    c.rseed = 0 ∧ c.pladder = 0x108 ∧ c.pbudget = 0xFFFFFFFFFFFF ∧ c.bound = false ∧ c.firing = false ∧
    q.partn = 0 ∧ q.sqlim = 0x1010 ∧ q.cycle = 0 ∧ (∀ t, q.shape t = 0) ∧ (∀ a : Fin 4, q.acc[a] = []) ∧
    (∀ g : BitVec 2, (getV q.engines g : Engine).st = .closed) ∧ q.pressQ = []

/-- R268 and the form of memory: every step keeps the invariant, from every state that has it: memory stays in its canonical
form (addresses strictly rising, no byte listed that reads as an unlisted one does), and the log never holds more than
its 960 records. -/
def Obligations.StepKeepsInv : Prop :=
  ∀ s t : State, s.Inv → step s = .next t → t.Inv
end

