-- ==== Sys2Proof/Laws/Memory.lean ====
section
/-!
SUPPORT. Sys2Proof/Laws/Memory.lean: reading after writing, in tables by number and in memory, and that every memory
operation keeps the canonical form.
-/

namespace Sys2Proof.Machine

/-! ## Tables by number -/

theorem assocGet_assocSet_same {α : Type} (l : List (Nat × α)) (n : Nat) (x : α) :
    assocGet (assocSet l n x) n = some x := by
  induction l with
  | nil => simp [assocSet, assocGet]
  | cons p rest ih =>
    obtain ⟨k, y⟩ := p
    simp only [assocSet]
    split
    · simp [assocGet]
    · split
      · simp [assocGet]
      · rename_i h
        simp [assocGet, ih, Ne.symm h]

theorem assocGet_assocSet_other {α : Type} (l : List (Nat × α)) {n m : Nat} (x : α) (h : m ≠ n) :
    assocGet (assocSet l n x) m = assocGet l m := by
  induction l with
  | nil => simp [assocSet, assocGet, Ne.symm h]
  | cons p rest ih =>
    obtain ⟨k, y⟩ := p
    simp only [assocSet]
    split
    · simp [assocGet, Ne.symm h]
    · split
      · rename_i hk
        subst hk
        simp [assocGet, Ne.symm h]
      · simp [assocGet, ih]

@[simp] theorem assocGet_nil {α : Type} (n : Nat) : assocGet ([] : List (Nat × α)) n = none := rfl

/-! ## The canonical form of memory -/

/-- The canonical form, said of the head and the rest. -/
theorem memoryWf_cons (k : Nat) (x : Byte) (rest : List Host.Cell) :
    Memory.wf ((k, x) :: rest) = true ↔ x ≠ 0 ∧ (∀ p ∈ rest.head?, k < p.1) ∧ Memory.wf rest = true := by
  cases rest with
  | nil => simp [Memory.wf]
  | cons p q =>
    obtain ⟨l, y⟩ := p
    simp only [Memory.wf, Bool.and_eq_true, decide_eq_true_eq, bne_iff_ne, List.head?_cons, Option.mem_some_iff,
      forall_eq']
    tauto

/-- In a canonical memory every address after the head's is greater. -/
theorem memoryWf_lt {k : Nat} {x : Byte} {rest : List Host.Cell} (h : Memory.wf ((k, x) :: rest) = true) :
    ∀ p ∈ rest, k < p.1 := by
  induction rest generalizing k x with
  | nil => simp
  | cons q r ih =>
    obtain ⟨l, y⟩ := q
    obtain ⟨-, h1, h2⟩ := (memoryWf_cons _ _ _).1 h
    have hkl : k < l := h1 (l, y) (by simp)
    intro p hp
    rcases List.mem_cons.1 hp with rfl | hp
    · exact hkl
    · exact hkl.trans (ih h2 p hp)

/-- A list whose addresses rise and whose bytes are not 0 is canonical. -/
theorem memoryWf_of {m : List Host.Cell} (h : m.Pairwise fun p q => p.1 < q.1) (h0 : ∀ p ∈ m, p.2 ≠ 0) :
    Memory.wf m = true := by
  induction m with
  | nil => rfl
  | cons p rest ih =>
    obtain ⟨k, x⟩ := p
    rw [List.pairwise_cons] at h
    refine (memoryWf_cons _ _ _).2 ⟨h0 (k, x) (by simp), ?_, ih h.2 fun q hq => h0 q (by simp [hq])⟩
    intro q hq
    exact h.1 q (List.mem_of_mem_head? hq)

/-- A canonical memory's addresses rise and its bytes are not 0. -/
theorem memoryWf_pairwise {m : List Host.Cell} (h : Memory.wf m = true) :
    (m.Pairwise fun p q => p.1 < q.1) ∧ ∀ p ∈ m, p.2 ≠ 0 := by
  induction m with
  | nil => simp
  | cons p rest ih =>
    obtain ⟨k, x⟩ := p
    obtain ⟨h0, -, h2⟩ := (memoryWf_cons _ _ _).1 h
    obtain ⟨i1, i2⟩ := ih h2
    refine ⟨List.pairwise_cons.2 ⟨memoryWf_lt h, i1⟩, ?_⟩
    intro p hp
    rcases List.mem_cons.1 hp with rfl | hp
    · exact h0
    · exact i2 p hp

theorem memSet_head {m : List Host.Cell} {a k : Nat} {v : Byte} (h : ∀ p ∈ m.head?, k < p.1)
    (hm : Memory.wf m = true) (ha : k < a) : ∀ p ∈ (memSet m a v).head?, k < p.1 := by
  cases m with
  | nil =>
    simp only [memSet]
    split <;> simp_all
  | cons q r =>
    obtain ⟨l, y⟩ := q
    have hl : k < l := h (l, y) (by simp)
    simp only [memSet]
    split
    · split <;> simp_all
    · split
      · split
        · intro p hp
          exact hl.trans (memoryWf_lt hm p (List.mem_of_mem_head? hp))
        · simp_all
      · simp_all

/-- A byte written keeps the canonical form. -/
theorem memSet_wf {m : List Host.Cell} (h : Memory.wf m = true) (a : Nat) (v : Byte) :
    Memory.wf (memSet m a v) = true := by
  induction m with
  | nil =>
    simp only [memSet]
    split
    · rfl
    · simpa [Memory.wf]
  | cons p rest ih =>
    obtain ⟨k, y⟩ := p
    obtain ⟨h0, h1, h2⟩ := (memoryWf_cons _ _ _).1 h
    simp only [memSet]
    split
    · split
      · exact h
      · exact (memoryWf_cons _ _ _).2 ⟨‹_›, by simpa, h⟩
    · split
      · split
        · exact h2
        · rename_i ha _
          exact (memoryWf_cons _ _ _).2 ⟨‹_›, by rw [ha]; exact h1, h2⟩
      · exact (memoryWf_cons _ _ _).2 ⟨h0, memSet_head h1 h2 (by omega), ih h2⟩

/-- Dropping listed bytes keeps the canonical form. -/
theorem memFilter_wf {m : List Host.Cell} (h : Memory.wf m = true) (f : Host.Cell → Bool) :
    Memory.wf (m.filter f) = true :=
  memoryWf_of ((memoryWf_pairwise h).1.sublist List.filter_sublist)
    fun p hp => (memoryWf_pairwise h).2 p (List.mem_of_mem_filter hp)

/-- Clearing a range keeps the canonical form. -/
theorem memClear_wf {m : List Host.Cell} (h : Memory.wf m = true) (lo hi : Nat) :
    Memory.wf (memClear m lo hi) = true := memFilter_wf h _

theorem assocGet_none_of_lt {m : List Host.Cell} {a : Nat} (h : ∀ p ∈ m, a < p.1) : assocGet m a = none := by
  induction m with
  | nil => rfl
  | cons p rest ih =>
    obtain ⟨k, y⟩ := p
    have hk : a < k := h (k, y) (by simp)
    simp only [assocGet]
    rw [if_neg (by omega)]
    exact ih fun q hq => h q (by simp [hq])

/-- Reading the byte just written. -/
theorem memGet_memSet_same {m : List Host.Cell} (h : Memory.wf m = true) (a : Nat) (v : Byte) :
    memGet (memSet m a v) a = v := by
  induction m with
  | nil =>
    simp only [memSet]
    split <;> simp_all [memGet, assocGet]
  | cons p rest ih =>
    obtain ⟨k, y⟩ := p
    obtain ⟨-, -, h2⟩ := (memoryWf_cons _ _ _).1 h
    have hl := memoryWf_lt h
    simp only [memSet]
    split
    · split
      · rename_i hak hv
        have : assocGet ((k, y) :: rest) a = none := by
          refine assocGet_none_of_lt fun q hq => ?_
          rcases List.mem_cons.1 hq with rfl | hq
          · exact hak
          · exact hak.trans (hl q hq)
        simp [memGet, this, hv]
      · simp [memGet, assocGet]
    · split
      · split
        · rename_i ha hv
          subst ha
          simp [memGet, assocGet_none_of_lt hl, hv]
        · simp [memGet, assocGet]
      · rename_i hne
        simpa [memGet, assocGet, Ne.symm hne] using ih h2

/-- Reading any other byte. -/
theorem memGet_memSet_other (m : List Host.Cell) {a b : Nat} (v : Byte) (h : b ≠ a) :
    memGet (memSet m a v) b = memGet m b := by
  induction m with
  | nil =>
    simp only [memSet]
    split <;> simp [memGet, assocGet, Ne.symm h]
  | cons p rest ih =>
    obtain ⟨k, y⟩ := p
    simp only [memSet]
    split
    · split
      · rfl
      · simp [memGet, assocGet, Ne.symm h]
    · split
      · rename_i hk
        subst hk
        split <;> simp [memGet, assocGet, Ne.symm h]
      · simp only [memGet, assocGet] at ih ⊢
        split
        · rfl
        · exact ih

/-! ## Bytes at wafer addresses -/

theorem State.writeByte_wf {s : State} (h : Memory.wf s.mem = true) (a : Nat) (v : Byte) :
    Memory.wf (s.writeByte a v).mem = true := memSet_wf h _ _

theorem State.writeBytes_wf {s : State} (h : Memory.wf s.mem = true) (a : Nat) (l : List Byte) :
    Memory.wf (s.writeBytes a l).mem = true := by
  induction l generalizing s a with
  | nil => exact h
  | cons v rest ih => exact ih (s.writeByte_wf h a v) (a + 1)

theorem State.writeLE_wf {s : State} (h : Memory.wf s.mem = true) (a n x : Nat) :
    Memory.wf (s.writeLE a n x).mem = true := s.writeBytes_wf h a _

theorem State.poolWrite_wf {s : State} (h : Memory.wf s.mem = true) (off n x : Nat) :
    Memory.wf (s.poolWrite off n x).mem = true := s.writeLE_wf h _ _ _

@[simp] theorem State.place_writeByte (s : State) (a : Nat) (v : Byte) (b : Nat) :
    (s.writeByte a v).place b = s.place b := rfl

/-- The byte just stored reads back. -/
theorem State.readByte_writeByte_same {s : State} (h : Memory.wf s.mem = true) (a : Nat) (v : Byte) :
    (s.writeByte a v).readByte a = v := memGet_memSet_same h _ _

/-- A byte stored elsewhere leaves a byte as it was. -/
theorem State.readByte_writeByte_other (s : State) {a b : Nat} (v : Byte) (h : s.place b ≠ s.place a) :
    (s.writeByte a v).readByte b = s.readByte b := memGet_memSet_other _ _ h

@[simp] theorem State.place_writeBytes (s : State) (a : Nat) (l : List Byte) (b : Nat) :
    (s.writeBytes a l).place b = s.place b := by
  induction l generalizing s a with
  | nil => rfl
  | cons v rest ih => exact ih (s.writeByte a v) (a + 1)

/-- Bytes stored leave every byte outside their places as it was. -/
theorem State.readByte_writeBytes_other (s : State) (a : Nat) (l : List Byte) {b : Nat}
    (h : ∀ i < l.length, s.place b ≠ s.place (a + i)) : (s.writeBytes a l).readByte b = s.readByte b := by
  induction l generalizing s a with
  | nil => rfl
  | cons v rest ih =>
    simp only [writeBytes]
    rw [ih (s.writeByte a v) (a + 1) fun i hi => ?_]
    · exact s.readByte_writeByte_other v (h 0 (by simp))
    · have := h (i + 1) (by simpa using hi)
      simpa [Nat.add_assoc, Nat.add_comm 1 i] using this

/-- Bytes stored read back, where no two of them share a place. -/
theorem State.readByte_writeBytes_same {s : State} (h : Memory.wf s.mem = true) (a : Nat) (l : List Byte)
    (hd : ∀ i < l.length, ∀ j < l.length, s.place (a + i) = s.place (a + j) → i = j) {i : Nat} (hi : i < l.length) :
    (s.writeBytes a l).readByte (a + i) = l[i] := by
  induction l generalizing s a i with
  | nil => simp at hi
  | cons v rest ih =>
    simp only [writeBytes]
    cases i with
    | zero =>
      rw [(s.writeByte a v).readByte_writeBytes_other (a + 1) rest fun j hj e => ?_]
      · simpa using State.readByte_writeByte_same h a v
      · have := hd 0 (by simp) (j + 1) (by simpa using hj) (by simpa [Nat.add_assoc, Nat.add_comm 1 j] using e)
        omega
    | succ i =>
      have := @ih (s.writeByte a v) (State.writeByte_wf h a v) (a + 1) (fun i hi j hj e => ?_) i (by simpa using hi)
      · simpa [Nat.add_assoc, Nat.add_comm 1 i] using this
      · have := hd (i + 1) (by simpa using hi) (j + 1) (by simpa using hj)
          (by simpa [Nat.add_assoc, Nat.add_comm 1] using e)
        omega

@[simp] theorem leBytes_length (n x : Nat) : (leBytes n x).length = n := by
  induction n generalizing x with
  | zero => rfl
  | succ n ih => simp [leBytes, ih]

/-- A pool address is stored under its own number. -/
theorem State.place_poolAddr (s : State) {cid off : Nat} (hc : cid < 2 ^ 21) (ho : off < 2 ^ 26) :
    s.place (poolAddr cid off) = poolAddr cid off := by
  have : addrPool (poolAddr cid off) = true := by
    simp only [addrPool, poolAddr, beq_iff_eq]
    omega
  simp only [State.place, Tables.place, this, if_true]
  split <;> rfl

/-- A little-endian number of n bytes is below 256 ^ n. -/
theorem leNat_leBytes (n x : Nat) : leNat (leBytes n x) = x % 256 ^ n := by
  induction n generalizing x with
  | zero => simp [leBytes, leNat, Nat.mod_one]
  | succ n ih =>
    simp only [leBytes, leNat, ih, BitVec.toNat_ofNat]
    show x % 256 + _ = x % 256 ^ (n + 1)
    rw [show 256 ^ (n + 1) = 256 * 256 ^ n from by ring, Nat.mod_mul]

end Sys2Proof.Machine
end

