-- ==== Sys2Proof/Laws/State.lean ====
section
/-!
SUPPORT. Sys2Proof/Laws/State.lean: what each update of the state leaves as it was, one lemma for each field and update.
-/

namespace Sys2Proof.Machine

/-! ### `setCore` -/

@[simp] theorem State.setCore_mem (s : State) (n : Nat) (c : Core) : (s.setCore n c).mem = s.mem := rfl
@[simp] theorem State.setCore_hubs (s : State) (n : Nat) (c : Core) : (s.setCore n c).hubs = s.hubs := rfl
@[simp] theorem State.setCore_fields (s : State) (n : Nat) (c : Core) : (s.setCore n c).fields = s.fields := rfl
@[simp] theorem State.setCore_tables (s : State) (n : Nat) (c : Core) : (s.setCore n c).tables = s.tables := rfl
@[simp] theorem State.setCore_chans (s : State) (n : Nat) (c : Core) : (s.setCore n c).chans = s.chans := rfl
@[simp] theorem State.setCore_net (s : State) (n : Nat) (c : Core) : (s.setCore n c).net = s.net := rfl
@[simp] theorem State.setCore_fences (s : State) (n : Nat) (c : Core) : (s.setCore n c).fences = s.fences := rfl
@[simp] theorem State.setCore_packets (s : State) (n : Nat) (c : Core) : (s.setCore n c).packets = s.packets := rfl
@[simp] theorem State.setCore_misses (s : State) (n : Nat) (c : Core) : (s.setCore n c).misses = s.misses := rfl
@[simp] theorem State.setCore_beats (s : State) (n : Nat) (c : Core) : (s.setCore n c).beats = s.beats := rfl
@[simp] theorem State.setCore_mcasts (s : State) (n : Nat) (c : Core) : (s.setCore n c).mcasts = s.mcasts := rfl
@[simp] theorem State.setCore_barriers (s : State) (n : Nat) (c : Core) : (s.setCore n c).barriers = s.barriers := rfl
@[simp] theorem State.setCore_graphs (s : State) (n : Nat) (c : Core) : (s.setCore n c).graphs = s.graphs := rfl
@[simp] theorem State.setCore_badLinks (s : State) (n : Nat) (c : Core) : (s.setCore n c).badLinks = s.badLinks := rfl
@[simp] theorem State.setCore_failedLinks (s : State) (n : Nat) (c : Core) : (s.setCore n c).failedLinks = s.failedLinks := rfl
@[simp] theorem State.setCore_failedRouters (s : State) (n : Nat) (c : Core) : (s.setCore n c).failedRouters = s.failedRouters := rfl
@[simp] theorem State.setCore_flaws (s : State) (n : Nat) (c : Core) : (s.setCore n c).flaws = s.flaws := rfl
@[simp] theorem State.setCore_spots (s : State) (n : Nat) (c : Core) : (s.setCore n c).spots = s.spots := rfl
@[simp] theorem State.setCore_defects (s : State) (n : Nat) (c : Core) : (s.setCore n c).defects = s.defects := rfl
@[simp] theorem State.setCore_module (s : State) (n : Nat) (c : Core) : (s.setCore n c).module = s.module := rfl
@[simp] theorem State.setCore_focus (s : State) (n : Nat) (c : Core) : (s.setCore n c).focus = s.focus := rfl
@[simp] theorem State.setCore_inputs (s : State) (n : Nat) (c : Core) : (s.setCore n c).inputs = s.inputs := rfl
@[simp] theorem State.setCore_tick (s : State) (n : Nat) (c : Core) : (s.setCore n c).tick = s.tick := rfl
@[simp] theorem State.setCore_nextId (s : State) (n : Nat) (c : Core) : (s.setCore n c).nextId = s.nextId := rfl

/-! ### `modCore` -/

@[simp] theorem State.modCore_mem (s : State) (n : Nat) (f : Core → Core) : (s.modCore n f).mem = s.mem := rfl
@[simp] theorem State.modCore_hubs (s : State) (n : Nat) (f : Core → Core) : (s.modCore n f).hubs = s.hubs := rfl
@[simp] theorem State.modCore_fields (s : State) (n : Nat) (f : Core → Core) : (s.modCore n f).fields = s.fields := rfl
@[simp] theorem State.modCore_tables (s : State) (n : Nat) (f : Core → Core) : (s.modCore n f).tables = s.tables := rfl
@[simp] theorem State.modCore_chans (s : State) (n : Nat) (f : Core → Core) : (s.modCore n f).chans = s.chans := rfl
@[simp] theorem State.modCore_net (s : State) (n : Nat) (f : Core → Core) : (s.modCore n f).net = s.net := rfl
@[simp] theorem State.modCore_fences (s : State) (n : Nat) (f : Core → Core) : (s.modCore n f).fences = s.fences := rfl
@[simp] theorem State.modCore_packets (s : State) (n : Nat) (f : Core → Core) : (s.modCore n f).packets = s.packets := rfl
@[simp] theorem State.modCore_misses (s : State) (n : Nat) (f : Core → Core) : (s.modCore n f).misses = s.misses := rfl
@[simp] theorem State.modCore_beats (s : State) (n : Nat) (f : Core → Core) : (s.modCore n f).beats = s.beats := rfl
@[simp] theorem State.modCore_mcasts (s : State) (n : Nat) (f : Core → Core) : (s.modCore n f).mcasts = s.mcasts := rfl
@[simp] theorem State.modCore_barriers (s : State) (n : Nat) (f : Core → Core) : (s.modCore n f).barriers = s.barriers := rfl
@[simp] theorem State.modCore_graphs (s : State) (n : Nat) (f : Core → Core) : (s.modCore n f).graphs = s.graphs := rfl
@[simp] theorem State.modCore_badLinks (s : State) (n : Nat) (f : Core → Core) : (s.modCore n f).badLinks = s.badLinks := rfl
@[simp] theorem State.modCore_failedLinks (s : State) (n : Nat) (f : Core → Core) : (s.modCore n f).failedLinks = s.failedLinks := rfl
@[simp] theorem State.modCore_failedRouters (s : State) (n : Nat) (f : Core → Core) : (s.modCore n f).failedRouters = s.failedRouters := rfl
@[simp] theorem State.modCore_flaws (s : State) (n : Nat) (f : Core → Core) : (s.modCore n f).flaws = s.flaws := rfl
@[simp] theorem State.modCore_spots (s : State) (n : Nat) (f : Core → Core) : (s.modCore n f).spots = s.spots := rfl
@[simp] theorem State.modCore_defects (s : State) (n : Nat) (f : Core → Core) : (s.modCore n f).defects = s.defects := rfl
@[simp] theorem State.modCore_module (s : State) (n : Nat) (f : Core → Core) : (s.modCore n f).module = s.module := rfl
@[simp] theorem State.modCore_focus (s : State) (n : Nat) (f : Core → Core) : (s.modCore n f).focus = s.focus := rfl
@[simp] theorem State.modCore_inputs (s : State) (n : Nat) (f : Core → Core) : (s.modCore n f).inputs = s.inputs := rfl
@[simp] theorem State.modCore_tick (s : State) (n : Nat) (f : Core → Core) : (s.modCore n f).tick = s.tick := rfl
@[simp] theorem State.modCore_nextId (s : State) (n : Nat) (f : Core → Core) : (s.modCore n f).nextId = s.nextId := rfl

/-! ### `modCur` -/

@[simp] theorem State.modCur_mem (s : State) (f : Core → Core) : (s.modCur f).mem = s.mem := rfl
@[simp] theorem State.modCur_hubs (s : State) (f : Core → Core) : (s.modCur f).hubs = s.hubs := rfl
@[simp] theorem State.modCur_fields (s : State) (f : Core → Core) : (s.modCur f).fields = s.fields := rfl
@[simp] theorem State.modCur_tables (s : State) (f : Core → Core) : (s.modCur f).tables = s.tables := rfl
@[simp] theorem State.modCur_chans (s : State) (f : Core → Core) : (s.modCur f).chans = s.chans := rfl
@[simp] theorem State.modCur_net (s : State) (f : Core → Core) : (s.modCur f).net = s.net := rfl
@[simp] theorem State.modCur_fences (s : State) (f : Core → Core) : (s.modCur f).fences = s.fences := rfl
@[simp] theorem State.modCur_packets (s : State) (f : Core → Core) : (s.modCur f).packets = s.packets := rfl
@[simp] theorem State.modCur_misses (s : State) (f : Core → Core) : (s.modCur f).misses = s.misses := rfl
@[simp] theorem State.modCur_beats (s : State) (f : Core → Core) : (s.modCur f).beats = s.beats := rfl
@[simp] theorem State.modCur_mcasts (s : State) (f : Core → Core) : (s.modCur f).mcasts = s.mcasts := rfl
@[simp] theorem State.modCur_barriers (s : State) (f : Core → Core) : (s.modCur f).barriers = s.barriers := rfl
@[simp] theorem State.modCur_graphs (s : State) (f : Core → Core) : (s.modCur f).graphs = s.graphs := rfl
@[simp] theorem State.modCur_badLinks (s : State) (f : Core → Core) : (s.modCur f).badLinks = s.badLinks := rfl
@[simp] theorem State.modCur_failedLinks (s : State) (f : Core → Core) : (s.modCur f).failedLinks = s.failedLinks := rfl
@[simp] theorem State.modCur_failedRouters (s : State) (f : Core → Core) : (s.modCur f).failedRouters = s.failedRouters := rfl
@[simp] theorem State.modCur_flaws (s : State) (f : Core → Core) : (s.modCur f).flaws = s.flaws := rfl
@[simp] theorem State.modCur_spots (s : State) (f : Core → Core) : (s.modCur f).spots = s.spots := rfl
@[simp] theorem State.modCur_defects (s : State) (f : Core → Core) : (s.modCur f).defects = s.defects := rfl
@[simp] theorem State.modCur_module (s : State) (f : Core → Core) : (s.modCur f).module = s.module := rfl
@[simp] theorem State.modCur_focus (s : State) (f : Core → Core) : (s.modCur f).focus = s.focus := rfl
@[simp] theorem State.modCur_inputs (s : State) (f : Core → Core) : (s.modCur f).inputs = s.inputs := rfl
@[simp] theorem State.modCur_tick (s : State) (f : Core → Core) : (s.modCur f).tick = s.tick := rfl
@[simp] theorem State.modCur_nextId (s : State) (f : Core → Core) : (s.modCur f).nextId = s.nextId := rfl

/-! ### `setHub` -/

@[simp] theorem State.setHub_mem (s : State) (n : Nat) (c : Hub) : (s.setHub n c).mem = s.mem := rfl
@[simp] theorem State.setHub_cores (s : State) (n : Nat) (c : Hub) : (s.setHub n c).cores = s.cores := rfl
@[simp] theorem State.setHub_fields (s : State) (n : Nat) (c : Hub) : (s.setHub n c).fields = s.fields := rfl
@[simp] theorem State.setHub_tables (s : State) (n : Nat) (c : Hub) : (s.setHub n c).tables = s.tables := rfl
@[simp] theorem State.setHub_chans (s : State) (n : Nat) (c : Hub) : (s.setHub n c).chans = s.chans := rfl
@[simp] theorem State.setHub_net (s : State) (n : Nat) (c : Hub) : (s.setHub n c).net = s.net := rfl
@[simp] theorem State.setHub_fences (s : State) (n : Nat) (c : Hub) : (s.setHub n c).fences = s.fences := rfl
@[simp] theorem State.setHub_packets (s : State) (n : Nat) (c : Hub) : (s.setHub n c).packets = s.packets := rfl
@[simp] theorem State.setHub_misses (s : State) (n : Nat) (c : Hub) : (s.setHub n c).misses = s.misses := rfl
@[simp] theorem State.setHub_beats (s : State) (n : Nat) (c : Hub) : (s.setHub n c).beats = s.beats := rfl
@[simp] theorem State.setHub_mcasts (s : State) (n : Nat) (c : Hub) : (s.setHub n c).mcasts = s.mcasts := rfl
@[simp] theorem State.setHub_barriers (s : State) (n : Nat) (c : Hub) : (s.setHub n c).barriers = s.barriers := rfl
@[simp] theorem State.setHub_graphs (s : State) (n : Nat) (c : Hub) : (s.setHub n c).graphs = s.graphs := rfl
@[simp] theorem State.setHub_badLinks (s : State) (n : Nat) (c : Hub) : (s.setHub n c).badLinks = s.badLinks := rfl
@[simp] theorem State.setHub_failedLinks (s : State) (n : Nat) (c : Hub) : (s.setHub n c).failedLinks = s.failedLinks := rfl
@[simp] theorem State.setHub_failedRouters (s : State) (n : Nat) (c : Hub) : (s.setHub n c).failedRouters = s.failedRouters := rfl
@[simp] theorem State.setHub_flaws (s : State) (n : Nat) (c : Hub) : (s.setHub n c).flaws = s.flaws := rfl
@[simp] theorem State.setHub_spots (s : State) (n : Nat) (c : Hub) : (s.setHub n c).spots = s.spots := rfl
@[simp] theorem State.setHub_defects (s : State) (n : Nat) (c : Hub) : (s.setHub n c).defects = s.defects := rfl
@[simp] theorem State.setHub_module (s : State) (n : Nat) (c : Hub) : (s.setHub n c).module = s.module := rfl
@[simp] theorem State.setHub_focus (s : State) (n : Nat) (c : Hub) : (s.setHub n c).focus = s.focus := rfl
@[simp] theorem State.setHub_inputs (s : State) (n : Nat) (c : Hub) : (s.setHub n c).inputs = s.inputs := rfl
@[simp] theorem State.setHub_tick (s : State) (n : Nat) (c : Hub) : (s.setHub n c).tick = s.tick := rfl
@[simp] theorem State.setHub_nextId (s : State) (n : Nat) (c : Hub) : (s.setHub n c).nextId = s.nextId := rfl

/-! ### `modHub` -/

@[simp] theorem State.modHub_mem (s : State) (n : Nat) (f : Hub → Hub) : (s.modHub n f).mem = s.mem := rfl
@[simp] theorem State.modHub_cores (s : State) (n : Nat) (f : Hub → Hub) : (s.modHub n f).cores = s.cores := rfl
@[simp] theorem State.modHub_fields (s : State) (n : Nat) (f : Hub → Hub) : (s.modHub n f).fields = s.fields := rfl
@[simp] theorem State.modHub_tables (s : State) (n : Nat) (f : Hub → Hub) : (s.modHub n f).tables = s.tables := rfl
@[simp] theorem State.modHub_chans (s : State) (n : Nat) (f : Hub → Hub) : (s.modHub n f).chans = s.chans := rfl
@[simp] theorem State.modHub_net (s : State) (n : Nat) (f : Hub → Hub) : (s.modHub n f).net = s.net := rfl
@[simp] theorem State.modHub_fences (s : State) (n : Nat) (f : Hub → Hub) : (s.modHub n f).fences = s.fences := rfl
@[simp] theorem State.modHub_packets (s : State) (n : Nat) (f : Hub → Hub) : (s.modHub n f).packets = s.packets := rfl
@[simp] theorem State.modHub_misses (s : State) (n : Nat) (f : Hub → Hub) : (s.modHub n f).misses = s.misses := rfl
@[simp] theorem State.modHub_beats (s : State) (n : Nat) (f : Hub → Hub) : (s.modHub n f).beats = s.beats := rfl
@[simp] theorem State.modHub_mcasts (s : State) (n : Nat) (f : Hub → Hub) : (s.modHub n f).mcasts = s.mcasts := rfl
@[simp] theorem State.modHub_barriers (s : State) (n : Nat) (f : Hub → Hub) : (s.modHub n f).barriers = s.barriers := rfl
@[simp] theorem State.modHub_graphs (s : State) (n : Nat) (f : Hub → Hub) : (s.modHub n f).graphs = s.graphs := rfl
@[simp] theorem State.modHub_badLinks (s : State) (n : Nat) (f : Hub → Hub) : (s.modHub n f).badLinks = s.badLinks := rfl
@[simp] theorem State.modHub_failedLinks (s : State) (n : Nat) (f : Hub → Hub) : (s.modHub n f).failedLinks = s.failedLinks := rfl
@[simp] theorem State.modHub_failedRouters (s : State) (n : Nat) (f : Hub → Hub) : (s.modHub n f).failedRouters = s.failedRouters := rfl
@[simp] theorem State.modHub_flaws (s : State) (n : Nat) (f : Hub → Hub) : (s.modHub n f).flaws = s.flaws := rfl
@[simp] theorem State.modHub_spots (s : State) (n : Nat) (f : Hub → Hub) : (s.modHub n f).spots = s.spots := rfl
@[simp] theorem State.modHub_defects (s : State) (n : Nat) (f : Hub → Hub) : (s.modHub n f).defects = s.defects := rfl
@[simp] theorem State.modHub_module (s : State) (n : Nat) (f : Hub → Hub) : (s.modHub n f).module = s.module := rfl
@[simp] theorem State.modHub_focus (s : State) (n : Nat) (f : Hub → Hub) : (s.modHub n f).focus = s.focus := rfl
@[simp] theorem State.modHub_inputs (s : State) (n : Nat) (f : Hub → Hub) : (s.modHub n f).inputs = s.inputs := rfl
@[simp] theorem State.modHub_tick (s : State) (n : Nat) (f : Hub → Hub) : (s.modHub n f).tick = s.tick := rfl
@[simp] theorem State.modHub_nextId (s : State) (n : Nat) (f : Hub → Hub) : (s.modHub n f).nextId = s.nextId := rfl

/-! ### `setField` -/

@[simp] theorem State.setField_mem (s : State) (n : Nat) (c : Field) : (s.setField n c).mem = s.mem := rfl
@[simp] theorem State.setField_cores (s : State) (n : Nat) (c : Field) : (s.setField n c).cores = s.cores := rfl
@[simp] theorem State.setField_hubs (s : State) (n : Nat) (c : Field) : (s.setField n c).hubs = s.hubs := rfl
@[simp] theorem State.setField_tables (s : State) (n : Nat) (c : Field) : (s.setField n c).tables = s.tables := rfl
@[simp] theorem State.setField_chans (s : State) (n : Nat) (c : Field) : (s.setField n c).chans = s.chans := rfl
@[simp] theorem State.setField_net (s : State) (n : Nat) (c : Field) : (s.setField n c).net = s.net := rfl
@[simp] theorem State.setField_fences (s : State) (n : Nat) (c : Field) : (s.setField n c).fences = s.fences := rfl
@[simp] theorem State.setField_packets (s : State) (n : Nat) (c : Field) : (s.setField n c).packets = s.packets := rfl
@[simp] theorem State.setField_misses (s : State) (n : Nat) (c : Field) : (s.setField n c).misses = s.misses := rfl
@[simp] theorem State.setField_beats (s : State) (n : Nat) (c : Field) : (s.setField n c).beats = s.beats := rfl
@[simp] theorem State.setField_mcasts (s : State) (n : Nat) (c : Field) : (s.setField n c).mcasts = s.mcasts := rfl
@[simp] theorem State.setField_barriers (s : State) (n : Nat) (c : Field) : (s.setField n c).barriers = s.barriers := rfl
@[simp] theorem State.setField_graphs (s : State) (n : Nat) (c : Field) : (s.setField n c).graphs = s.graphs := rfl
@[simp] theorem State.setField_badLinks (s : State) (n : Nat) (c : Field) : (s.setField n c).badLinks = s.badLinks := rfl
@[simp] theorem State.setField_failedLinks (s : State) (n : Nat) (c : Field) : (s.setField n c).failedLinks = s.failedLinks := rfl
@[simp] theorem State.setField_failedRouters (s : State) (n : Nat) (c : Field) : (s.setField n c).failedRouters = s.failedRouters := rfl
@[simp] theorem State.setField_flaws (s : State) (n : Nat) (c : Field) : (s.setField n c).flaws = s.flaws := rfl
@[simp] theorem State.setField_spots (s : State) (n : Nat) (c : Field) : (s.setField n c).spots = s.spots := rfl
@[simp] theorem State.setField_defects (s : State) (n : Nat) (c : Field) : (s.setField n c).defects = s.defects := rfl
@[simp] theorem State.setField_module (s : State) (n : Nat) (c : Field) : (s.setField n c).module = s.module := rfl
@[simp] theorem State.setField_focus (s : State) (n : Nat) (c : Field) : (s.setField n c).focus = s.focus := rfl
@[simp] theorem State.setField_inputs (s : State) (n : Nat) (c : Field) : (s.setField n c).inputs = s.inputs := rfl
@[simp] theorem State.setField_tick (s : State) (n : Nat) (c : Field) : (s.setField n c).tick = s.tick := rfl
@[simp] theorem State.setField_nextId (s : State) (n : Nat) (c : Field) : (s.setField n c).nextId = s.nextId := rfl

/-! ### `modField` -/

@[simp] theorem State.modField_mem (s : State) (n : Nat) (f : Field → Field) : (s.modField n f).mem = s.mem := rfl
@[simp] theorem State.modField_cores (s : State) (n : Nat) (f : Field → Field) : (s.modField n f).cores = s.cores := rfl
@[simp] theorem State.modField_hubs (s : State) (n : Nat) (f : Field → Field) : (s.modField n f).hubs = s.hubs := rfl
@[simp] theorem State.modField_tables (s : State) (n : Nat) (f : Field → Field) : (s.modField n f).tables = s.tables := rfl
@[simp] theorem State.modField_chans (s : State) (n : Nat) (f : Field → Field) : (s.modField n f).chans = s.chans := rfl
@[simp] theorem State.modField_net (s : State) (n : Nat) (f : Field → Field) : (s.modField n f).net = s.net := rfl
@[simp] theorem State.modField_fences (s : State) (n : Nat) (f : Field → Field) : (s.modField n f).fences = s.fences := rfl
@[simp] theorem State.modField_packets (s : State) (n : Nat) (f : Field → Field) : (s.modField n f).packets = s.packets := rfl
@[simp] theorem State.modField_misses (s : State) (n : Nat) (f : Field → Field) : (s.modField n f).misses = s.misses := rfl
@[simp] theorem State.modField_beats (s : State) (n : Nat) (f : Field → Field) : (s.modField n f).beats = s.beats := rfl
@[simp] theorem State.modField_mcasts (s : State) (n : Nat) (f : Field → Field) : (s.modField n f).mcasts = s.mcasts := rfl
@[simp] theorem State.modField_barriers (s : State) (n : Nat) (f : Field → Field) : (s.modField n f).barriers = s.barriers := rfl
@[simp] theorem State.modField_graphs (s : State) (n : Nat) (f : Field → Field) : (s.modField n f).graphs = s.graphs := rfl
@[simp] theorem State.modField_badLinks (s : State) (n : Nat) (f : Field → Field) : (s.modField n f).badLinks = s.badLinks := rfl
@[simp] theorem State.modField_failedLinks (s : State) (n : Nat) (f : Field → Field) : (s.modField n f).failedLinks = s.failedLinks := rfl
@[simp] theorem State.modField_failedRouters (s : State) (n : Nat) (f : Field → Field) : (s.modField n f).failedRouters = s.failedRouters := rfl
@[simp] theorem State.modField_flaws (s : State) (n : Nat) (f : Field → Field) : (s.modField n f).flaws = s.flaws := rfl
@[simp] theorem State.modField_spots (s : State) (n : Nat) (f : Field → Field) : (s.modField n f).spots = s.spots := rfl
@[simp] theorem State.modField_defects (s : State) (n : Nat) (f : Field → Field) : (s.modField n f).defects = s.defects := rfl
@[simp] theorem State.modField_module (s : State) (n : Nat) (f : Field → Field) : (s.modField n f).module = s.module := rfl
@[simp] theorem State.modField_focus (s : State) (n : Nat) (f : Field → Field) : (s.modField n f).focus = s.focus := rfl
@[simp] theorem State.modField_inputs (s : State) (n : Nat) (f : Field → Field) : (s.modField n f).inputs = s.inputs := rfl
@[simp] theorem State.modField_tick (s : State) (n : Nat) (f : Field → Field) : (s.modField n f).tick = s.tick := rfl
@[simp] theorem State.modField_nextId (s : State) (n : Nat) (f : Field → Field) : (s.modField n f).nextId = s.nextId := rfl

/-! ### `setCtxAt` -/

@[simp] theorem State.setCtxAt_mem (s : State) (n : Nat) (i : BitVec 4) (c : Context) : (s.setCtxAt n i c).mem = s.mem := rfl
@[simp] theorem State.setCtxAt_hubs (s : State) (n : Nat) (i : BitVec 4) (c : Context) : (s.setCtxAt n i c).hubs = s.hubs := rfl
@[simp] theorem State.setCtxAt_fields (s : State) (n : Nat) (i : BitVec 4) (c : Context) : (s.setCtxAt n i c).fields = s.fields := rfl
@[simp] theorem State.setCtxAt_tables (s : State) (n : Nat) (i : BitVec 4) (c : Context) : (s.setCtxAt n i c).tables = s.tables := rfl
@[simp] theorem State.setCtxAt_chans (s : State) (n : Nat) (i : BitVec 4) (c : Context) : (s.setCtxAt n i c).chans = s.chans := rfl
@[simp] theorem State.setCtxAt_net (s : State) (n : Nat) (i : BitVec 4) (c : Context) : (s.setCtxAt n i c).net = s.net := rfl
@[simp] theorem State.setCtxAt_fences (s : State) (n : Nat) (i : BitVec 4) (c : Context) : (s.setCtxAt n i c).fences = s.fences := rfl
@[simp] theorem State.setCtxAt_packets (s : State) (n : Nat) (i : BitVec 4) (c : Context) : (s.setCtxAt n i c).packets = s.packets := rfl
@[simp] theorem State.setCtxAt_misses (s : State) (n : Nat) (i : BitVec 4) (c : Context) : (s.setCtxAt n i c).misses = s.misses := rfl
@[simp] theorem State.setCtxAt_beats (s : State) (n : Nat) (i : BitVec 4) (c : Context) : (s.setCtxAt n i c).beats = s.beats := rfl
@[simp] theorem State.setCtxAt_mcasts (s : State) (n : Nat) (i : BitVec 4) (c : Context) : (s.setCtxAt n i c).mcasts = s.mcasts := rfl
@[simp] theorem State.setCtxAt_barriers (s : State) (n : Nat) (i : BitVec 4) (c : Context) : (s.setCtxAt n i c).barriers = s.barriers := rfl
@[simp] theorem State.setCtxAt_graphs (s : State) (n : Nat) (i : BitVec 4) (c : Context) : (s.setCtxAt n i c).graphs = s.graphs := rfl
@[simp] theorem State.setCtxAt_badLinks (s : State) (n : Nat) (i : BitVec 4) (c : Context) : (s.setCtxAt n i c).badLinks = s.badLinks := rfl
@[simp] theorem State.setCtxAt_failedLinks (s : State) (n : Nat) (i : BitVec 4) (c : Context) : (s.setCtxAt n i c).failedLinks = s.failedLinks := rfl
@[simp] theorem State.setCtxAt_failedRouters (s : State) (n : Nat) (i : BitVec 4) (c : Context) : (s.setCtxAt n i c).failedRouters = s.failedRouters := rfl
@[simp] theorem State.setCtxAt_flaws (s : State) (n : Nat) (i : BitVec 4) (c : Context) : (s.setCtxAt n i c).flaws = s.flaws := rfl
@[simp] theorem State.setCtxAt_spots (s : State) (n : Nat) (i : BitVec 4) (c : Context) : (s.setCtxAt n i c).spots = s.spots := rfl
@[simp] theorem State.setCtxAt_defects (s : State) (n : Nat) (i : BitVec 4) (c : Context) : (s.setCtxAt n i c).defects = s.defects := rfl
@[simp] theorem State.setCtxAt_module (s : State) (n : Nat) (i : BitVec 4) (c : Context) : (s.setCtxAt n i c).module = s.module := rfl
@[simp] theorem State.setCtxAt_focus (s : State) (n : Nat) (i : BitVec 4) (c : Context) : (s.setCtxAt n i c).focus = s.focus := rfl
@[simp] theorem State.setCtxAt_inputs (s : State) (n : Nat) (i : BitVec 4) (c : Context) : (s.setCtxAt n i c).inputs = s.inputs := rfl
@[simp] theorem State.setCtxAt_tick (s : State) (n : Nat) (i : BitVec 4) (c : Context) : (s.setCtxAt n i c).tick = s.tick := rfl
@[simp] theorem State.setCtxAt_nextId (s : State) (n : Nat) (i : BitVec 4) (c : Context) : (s.setCtxAt n i c).nextId = s.nextId := rfl

/-! ### `modCtxAt` -/

@[simp] theorem State.modCtxAt_mem (s : State) (n : Nat) (i : BitVec 4) (f : Context → Context) : (s.modCtxAt n i f).mem = s.mem := rfl
@[simp] theorem State.modCtxAt_hubs (s : State) (n : Nat) (i : BitVec 4) (f : Context → Context) : (s.modCtxAt n i f).hubs = s.hubs := rfl
@[simp] theorem State.modCtxAt_fields (s : State) (n : Nat) (i : BitVec 4) (f : Context → Context) : (s.modCtxAt n i f).fields = s.fields := rfl
@[simp] theorem State.modCtxAt_tables (s : State) (n : Nat) (i : BitVec 4) (f : Context → Context) : (s.modCtxAt n i f).tables = s.tables := rfl
@[simp] theorem State.modCtxAt_chans (s : State) (n : Nat) (i : BitVec 4) (f : Context → Context) : (s.modCtxAt n i f).chans = s.chans := rfl
@[simp] theorem State.modCtxAt_net (s : State) (n : Nat) (i : BitVec 4) (f : Context → Context) : (s.modCtxAt n i f).net = s.net := rfl
@[simp] theorem State.modCtxAt_fences (s : State) (n : Nat) (i : BitVec 4) (f : Context → Context) : (s.modCtxAt n i f).fences = s.fences := rfl
@[simp] theorem State.modCtxAt_packets (s : State) (n : Nat) (i : BitVec 4) (f : Context → Context) : (s.modCtxAt n i f).packets = s.packets := rfl
@[simp] theorem State.modCtxAt_misses (s : State) (n : Nat) (i : BitVec 4) (f : Context → Context) : (s.modCtxAt n i f).misses = s.misses := rfl
@[simp] theorem State.modCtxAt_beats (s : State) (n : Nat) (i : BitVec 4) (f : Context → Context) : (s.modCtxAt n i f).beats = s.beats := rfl
@[simp] theorem State.modCtxAt_mcasts (s : State) (n : Nat) (i : BitVec 4) (f : Context → Context) : (s.modCtxAt n i f).mcasts = s.mcasts := rfl
@[simp] theorem State.modCtxAt_barriers (s : State) (n : Nat) (i : BitVec 4) (f : Context → Context) : (s.modCtxAt n i f).barriers = s.barriers := rfl
@[simp] theorem State.modCtxAt_graphs (s : State) (n : Nat) (i : BitVec 4) (f : Context → Context) : (s.modCtxAt n i f).graphs = s.graphs := rfl
@[simp] theorem State.modCtxAt_badLinks (s : State) (n : Nat) (i : BitVec 4) (f : Context → Context) : (s.modCtxAt n i f).badLinks = s.badLinks := rfl
@[simp] theorem State.modCtxAt_failedLinks (s : State) (n : Nat) (i : BitVec 4) (f : Context → Context) : (s.modCtxAt n i f).failedLinks = s.failedLinks := rfl
@[simp] theorem State.modCtxAt_failedRouters (s : State) (n : Nat) (i : BitVec 4) (f : Context → Context) : (s.modCtxAt n i f).failedRouters = s.failedRouters := rfl
@[simp] theorem State.modCtxAt_flaws (s : State) (n : Nat) (i : BitVec 4) (f : Context → Context) : (s.modCtxAt n i f).flaws = s.flaws := rfl
@[simp] theorem State.modCtxAt_spots (s : State) (n : Nat) (i : BitVec 4) (f : Context → Context) : (s.modCtxAt n i f).spots = s.spots := rfl
@[simp] theorem State.modCtxAt_defects (s : State) (n : Nat) (i : BitVec 4) (f : Context → Context) : (s.modCtxAt n i f).defects = s.defects := rfl
@[simp] theorem State.modCtxAt_module (s : State) (n : Nat) (i : BitVec 4) (f : Context → Context) : (s.modCtxAt n i f).module = s.module := rfl
@[simp] theorem State.modCtxAt_focus (s : State) (n : Nat) (i : BitVec 4) (f : Context → Context) : (s.modCtxAt n i f).focus = s.focus := rfl
@[simp] theorem State.modCtxAt_inputs (s : State) (n : Nat) (i : BitVec 4) (f : Context → Context) : (s.modCtxAt n i f).inputs = s.inputs := rfl
@[simp] theorem State.modCtxAt_tick (s : State) (n : Nat) (i : BitVec 4) (f : Context → Context) : (s.modCtxAt n i f).tick = s.tick := rfl
@[simp] theorem State.modCtxAt_nextId (s : State) (n : Nat) (i : BitVec 4) (f : Context → Context) : (s.modCtxAt n i f).nextId = s.nextId := rfl

/-! ### `setCtx` -/

@[simp] theorem State.setCtx_mem (s : State) (c : Context) : (s.setCtx c).mem = s.mem := rfl
@[simp] theorem State.setCtx_hubs (s : State) (c : Context) : (s.setCtx c).hubs = s.hubs := rfl
@[simp] theorem State.setCtx_fields (s : State) (c : Context) : (s.setCtx c).fields = s.fields := rfl
@[simp] theorem State.setCtx_tables (s : State) (c : Context) : (s.setCtx c).tables = s.tables := rfl
@[simp] theorem State.setCtx_chans (s : State) (c : Context) : (s.setCtx c).chans = s.chans := rfl
@[simp] theorem State.setCtx_net (s : State) (c : Context) : (s.setCtx c).net = s.net := rfl
@[simp] theorem State.setCtx_fences (s : State) (c : Context) : (s.setCtx c).fences = s.fences := rfl
@[simp] theorem State.setCtx_packets (s : State) (c : Context) : (s.setCtx c).packets = s.packets := rfl
@[simp] theorem State.setCtx_misses (s : State) (c : Context) : (s.setCtx c).misses = s.misses := rfl
@[simp] theorem State.setCtx_beats (s : State) (c : Context) : (s.setCtx c).beats = s.beats := rfl
@[simp] theorem State.setCtx_mcasts (s : State) (c : Context) : (s.setCtx c).mcasts = s.mcasts := rfl
@[simp] theorem State.setCtx_barriers (s : State) (c : Context) : (s.setCtx c).barriers = s.barriers := rfl
@[simp] theorem State.setCtx_graphs (s : State) (c : Context) : (s.setCtx c).graphs = s.graphs := rfl
@[simp] theorem State.setCtx_badLinks (s : State) (c : Context) : (s.setCtx c).badLinks = s.badLinks := rfl
@[simp] theorem State.setCtx_failedLinks (s : State) (c : Context) : (s.setCtx c).failedLinks = s.failedLinks := rfl
@[simp] theorem State.setCtx_failedRouters (s : State) (c : Context) : (s.setCtx c).failedRouters = s.failedRouters := rfl
@[simp] theorem State.setCtx_flaws (s : State) (c : Context) : (s.setCtx c).flaws = s.flaws := rfl
@[simp] theorem State.setCtx_spots (s : State) (c : Context) : (s.setCtx c).spots = s.spots := rfl
@[simp] theorem State.setCtx_defects (s : State) (c : Context) : (s.setCtx c).defects = s.defects := rfl
@[simp] theorem State.setCtx_module (s : State) (c : Context) : (s.setCtx c).module = s.module := rfl
@[simp] theorem State.setCtx_focus (s : State) (c : Context) : (s.setCtx c).focus = s.focus := rfl
@[simp] theorem State.setCtx_inputs (s : State) (c : Context) : (s.setCtx c).inputs = s.inputs := rfl
@[simp] theorem State.setCtx_tick (s : State) (c : Context) : (s.setCtx c).tick = s.tick := rfl
@[simp] theorem State.setCtx_nextId (s : State) (c : Context) : (s.setCtx c).nextId = s.nextId := rfl

/-! ### `modCtx` -/

@[simp] theorem State.modCtx_mem (s : State) (f : Context → Context) : (s.modCtx f).mem = s.mem := rfl
@[simp] theorem State.modCtx_hubs (s : State) (f : Context → Context) : (s.modCtx f).hubs = s.hubs := rfl
@[simp] theorem State.modCtx_fields (s : State) (f : Context → Context) : (s.modCtx f).fields = s.fields := rfl
@[simp] theorem State.modCtx_tables (s : State) (f : Context → Context) : (s.modCtx f).tables = s.tables := rfl
@[simp] theorem State.modCtx_chans (s : State) (f : Context → Context) : (s.modCtx f).chans = s.chans := rfl
@[simp] theorem State.modCtx_net (s : State) (f : Context → Context) : (s.modCtx f).net = s.net := rfl
@[simp] theorem State.modCtx_fences (s : State) (f : Context → Context) : (s.modCtx f).fences = s.fences := rfl
@[simp] theorem State.modCtx_packets (s : State) (f : Context → Context) : (s.modCtx f).packets = s.packets := rfl
@[simp] theorem State.modCtx_misses (s : State) (f : Context → Context) : (s.modCtx f).misses = s.misses := rfl
@[simp] theorem State.modCtx_beats (s : State) (f : Context → Context) : (s.modCtx f).beats = s.beats := rfl
@[simp] theorem State.modCtx_mcasts (s : State) (f : Context → Context) : (s.modCtx f).mcasts = s.mcasts := rfl
@[simp] theorem State.modCtx_barriers (s : State) (f : Context → Context) : (s.modCtx f).barriers = s.barriers := rfl
@[simp] theorem State.modCtx_graphs (s : State) (f : Context → Context) : (s.modCtx f).graphs = s.graphs := rfl
@[simp] theorem State.modCtx_badLinks (s : State) (f : Context → Context) : (s.modCtx f).badLinks = s.badLinks := rfl
@[simp] theorem State.modCtx_failedLinks (s : State) (f : Context → Context) : (s.modCtx f).failedLinks = s.failedLinks := rfl
@[simp] theorem State.modCtx_failedRouters (s : State) (f : Context → Context) : (s.modCtx f).failedRouters = s.failedRouters := rfl
@[simp] theorem State.modCtx_flaws (s : State) (f : Context → Context) : (s.modCtx f).flaws = s.flaws := rfl
@[simp] theorem State.modCtx_spots (s : State) (f : Context → Context) : (s.modCtx f).spots = s.spots := rfl
@[simp] theorem State.modCtx_defects (s : State) (f : Context → Context) : (s.modCtx f).defects = s.defects := rfl
@[simp] theorem State.modCtx_module (s : State) (f : Context → Context) : (s.modCtx f).module = s.module := rfl
@[simp] theorem State.modCtx_focus (s : State) (f : Context → Context) : (s.modCtx f).focus = s.focus := rfl
@[simp] theorem State.modCtx_inputs (s : State) (f : Context → Context) : (s.modCtx f).inputs = s.inputs := rfl
@[simp] theorem State.modCtx_tick (s : State) (f : Context → Context) : (s.modCtx f).tick = s.tick := rfl
@[simp] theorem State.modCtx_nextId (s : State) (f : Context → Context) : (s.modCtx f).nextId = s.nextId := rfl

/-! ### `retire` -/

@[simp] theorem State.retire_mem (s : State) (f : Context → Context) : (s.retire f).mem = s.mem := rfl
@[simp] theorem State.retire_hubs (s : State) (f : Context → Context) : (s.retire f).hubs = s.hubs := rfl
@[simp] theorem State.retire_fields (s : State) (f : Context → Context) : (s.retire f).fields = s.fields := rfl
@[simp] theorem State.retire_tables (s : State) (f : Context → Context) : (s.retire f).tables = s.tables := rfl
@[simp] theorem State.retire_chans (s : State) (f : Context → Context) : (s.retire f).chans = s.chans := rfl
@[simp] theorem State.retire_net (s : State) (f : Context → Context) : (s.retire f).net = s.net := rfl
@[simp] theorem State.retire_fences (s : State) (f : Context → Context) : (s.retire f).fences = s.fences := rfl
@[simp] theorem State.retire_packets (s : State) (f : Context → Context) : (s.retire f).packets = s.packets := rfl
@[simp] theorem State.retire_misses (s : State) (f : Context → Context) : (s.retire f).misses = s.misses := rfl
@[simp] theorem State.retire_beats (s : State) (f : Context → Context) : (s.retire f).beats = s.beats := rfl
@[simp] theorem State.retire_mcasts (s : State) (f : Context → Context) : (s.retire f).mcasts = s.mcasts := rfl
@[simp] theorem State.retire_barriers (s : State) (f : Context → Context) : (s.retire f).barriers = s.barriers := rfl
@[simp] theorem State.retire_graphs (s : State) (f : Context → Context) : (s.retire f).graphs = s.graphs := rfl
@[simp] theorem State.retire_badLinks (s : State) (f : Context → Context) : (s.retire f).badLinks = s.badLinks := rfl
@[simp] theorem State.retire_failedLinks (s : State) (f : Context → Context) : (s.retire f).failedLinks = s.failedLinks := rfl
@[simp] theorem State.retire_failedRouters (s : State) (f : Context → Context) : (s.retire f).failedRouters = s.failedRouters := rfl
@[simp] theorem State.retire_flaws (s : State) (f : Context → Context) : (s.retire f).flaws = s.flaws := rfl
@[simp] theorem State.retire_spots (s : State) (f : Context → Context) : (s.retire f).spots = s.spots := rfl
@[simp] theorem State.retire_defects (s : State) (f : Context → Context) : (s.retire f).defects = s.defects := rfl
@[simp] theorem State.retire_module (s : State) (f : Context → Context) : (s.retire f).module = s.module := rfl
@[simp] theorem State.retire_focus (s : State) (f : Context → Context) : (s.retire f).focus = s.focus := rfl
@[simp] theorem State.retire_inputs (s : State) (f : Context → Context) : (s.retire f).inputs = s.inputs := rfl
@[simp] theorem State.retire_tick (s : State) (f : Context → Context) : (s.retire f).tick = s.tick := rfl
@[simp] theorem State.retire_nextId (s : State) (f : Context → Context) : (s.retire f).nextId = s.nextId := rfl

/-! ### `endTurn` -/

@[simp] theorem State.endTurn_mem (s : State) : (s.endTurn).mem = s.mem := rfl
@[simp] theorem State.endTurn_hubs (s : State) : (s.endTurn).hubs = s.hubs := rfl
@[simp] theorem State.endTurn_fields (s : State) : (s.endTurn).fields = s.fields := rfl
@[simp] theorem State.endTurn_tables (s : State) : (s.endTurn).tables = s.tables := rfl
@[simp] theorem State.endTurn_chans (s : State) : (s.endTurn).chans = s.chans := rfl
@[simp] theorem State.endTurn_net (s : State) : (s.endTurn).net = s.net := rfl
@[simp] theorem State.endTurn_fences (s : State) : (s.endTurn).fences = s.fences := rfl
@[simp] theorem State.endTurn_packets (s : State) : (s.endTurn).packets = s.packets := rfl
@[simp] theorem State.endTurn_misses (s : State) : (s.endTurn).misses = s.misses := rfl
@[simp] theorem State.endTurn_beats (s : State) : (s.endTurn).beats = s.beats := rfl
@[simp] theorem State.endTurn_mcasts (s : State) : (s.endTurn).mcasts = s.mcasts := rfl
@[simp] theorem State.endTurn_barriers (s : State) : (s.endTurn).barriers = s.barriers := rfl
@[simp] theorem State.endTurn_graphs (s : State) : (s.endTurn).graphs = s.graphs := rfl
@[simp] theorem State.endTurn_badLinks (s : State) : (s.endTurn).badLinks = s.badLinks := rfl
@[simp] theorem State.endTurn_failedLinks (s : State) : (s.endTurn).failedLinks = s.failedLinks := rfl
@[simp] theorem State.endTurn_failedRouters (s : State) : (s.endTurn).failedRouters = s.failedRouters := rfl
@[simp] theorem State.endTurn_flaws (s : State) : (s.endTurn).flaws = s.flaws := rfl
@[simp] theorem State.endTurn_spots (s : State) : (s.endTurn).spots = s.spots := rfl
@[simp] theorem State.endTurn_defects (s : State) : (s.endTurn).defects = s.defects := rfl
@[simp] theorem State.endTurn_module (s : State) : (s.endTurn).module = s.module := rfl
@[simp] theorem State.endTurn_focus (s : State) : (s.endTurn).focus = s.focus := rfl
@[simp] theorem State.endTurn_inputs (s : State) : (s.endTurn).inputs = s.inputs := rfl
@[simp] theorem State.endTurn_tick (s : State) : (s.endTurn).tick = s.tick := rfl
@[simp] theorem State.endTurn_nextId (s : State) : (s.endTurn).nextId = s.nextId := rfl

/-! ### `parkAs` -/

@[simp] theorem State.parkAs_mem (s : State) (p : Park) : (s.parkAs p).mem = s.mem := rfl
@[simp] theorem State.parkAs_hubs (s : State) (p : Park) : (s.parkAs p).hubs = s.hubs := rfl
@[simp] theorem State.parkAs_fields (s : State) (p : Park) : (s.parkAs p).fields = s.fields := rfl
@[simp] theorem State.parkAs_tables (s : State) (p : Park) : (s.parkAs p).tables = s.tables := rfl
@[simp] theorem State.parkAs_chans (s : State) (p : Park) : (s.parkAs p).chans = s.chans := rfl
@[simp] theorem State.parkAs_net (s : State) (p : Park) : (s.parkAs p).net = s.net := rfl
@[simp] theorem State.parkAs_fences (s : State) (p : Park) : (s.parkAs p).fences = s.fences := rfl
@[simp] theorem State.parkAs_packets (s : State) (p : Park) : (s.parkAs p).packets = s.packets := rfl
@[simp] theorem State.parkAs_misses (s : State) (p : Park) : (s.parkAs p).misses = s.misses := rfl
@[simp] theorem State.parkAs_beats (s : State) (p : Park) : (s.parkAs p).beats = s.beats := rfl
@[simp] theorem State.parkAs_mcasts (s : State) (p : Park) : (s.parkAs p).mcasts = s.mcasts := rfl
@[simp] theorem State.parkAs_barriers (s : State) (p : Park) : (s.parkAs p).barriers = s.barriers := rfl
@[simp] theorem State.parkAs_graphs (s : State) (p : Park) : (s.parkAs p).graphs = s.graphs := rfl
@[simp] theorem State.parkAs_badLinks (s : State) (p : Park) : (s.parkAs p).badLinks = s.badLinks := rfl
@[simp] theorem State.parkAs_failedLinks (s : State) (p : Park) : (s.parkAs p).failedLinks = s.failedLinks := rfl
@[simp] theorem State.parkAs_failedRouters (s : State) (p : Park) : (s.parkAs p).failedRouters = s.failedRouters := rfl
@[simp] theorem State.parkAs_flaws (s : State) (p : Park) : (s.parkAs p).flaws = s.flaws := rfl
@[simp] theorem State.parkAs_spots (s : State) (p : Park) : (s.parkAs p).spots = s.spots := rfl
@[simp] theorem State.parkAs_defects (s : State) (p : Park) : (s.parkAs p).defects = s.defects := rfl
@[simp] theorem State.parkAs_module (s : State) (p : Park) : (s.parkAs p).module = s.module := rfl
@[simp] theorem State.parkAs_focus (s : State) (p : Park) : (s.parkAs p).focus = s.focus := rfl
@[simp] theorem State.parkAs_inputs (s : State) (p : Park) : (s.parkAs p).inputs = s.inputs := rfl
@[simp] theorem State.parkAs_tick (s : State) (p : Park) : (s.parkAs p).tick = s.tick := rfl
@[simp] theorem State.parkAs_nextId (s : State) (p : Park) : (s.parkAs p).nextId = s.nextId := rfl

/-! ### `count` -/

@[simp] theorem State.count_mem (s : State) (cid code : Nat) (w : Option (BitVec 4 × BitVec 16)) (n : Nat) : (s.count cid code w n).mem = s.mem := rfl
@[simp] theorem State.count_hubs (s : State) (cid code : Nat) (w : Option (BitVec 4 × BitVec 16)) (n : Nat) : (s.count cid code w n).hubs = s.hubs := rfl
@[simp] theorem State.count_fields (s : State) (cid code : Nat) (w : Option (BitVec 4 × BitVec 16)) (n : Nat) : (s.count cid code w n).fields = s.fields := rfl
@[simp] theorem State.count_tables (s : State) (cid code : Nat) (w : Option (BitVec 4 × BitVec 16)) (n : Nat) : (s.count cid code w n).tables = s.tables := rfl
@[simp] theorem State.count_chans (s : State) (cid code : Nat) (w : Option (BitVec 4 × BitVec 16)) (n : Nat) : (s.count cid code w n).chans = s.chans := rfl
@[simp] theorem State.count_net (s : State) (cid code : Nat) (w : Option (BitVec 4 × BitVec 16)) (n : Nat) : (s.count cid code w n).net = s.net := rfl
@[simp] theorem State.count_fences (s : State) (cid code : Nat) (w : Option (BitVec 4 × BitVec 16)) (n : Nat) : (s.count cid code w n).fences = s.fences := rfl
@[simp] theorem State.count_packets (s : State) (cid code : Nat) (w : Option (BitVec 4 × BitVec 16)) (n : Nat) : (s.count cid code w n).packets = s.packets := rfl
@[simp] theorem State.count_misses (s : State) (cid code : Nat) (w : Option (BitVec 4 × BitVec 16)) (n : Nat) : (s.count cid code w n).misses = s.misses := rfl
@[simp] theorem State.count_beats (s : State) (cid code : Nat) (w : Option (BitVec 4 × BitVec 16)) (n : Nat) : (s.count cid code w n).beats = s.beats := rfl
@[simp] theorem State.count_mcasts (s : State) (cid code : Nat) (w : Option (BitVec 4 × BitVec 16)) (n : Nat) : (s.count cid code w n).mcasts = s.mcasts := rfl
@[simp] theorem State.count_barriers (s : State) (cid code : Nat) (w : Option (BitVec 4 × BitVec 16)) (n : Nat) : (s.count cid code w n).barriers = s.barriers := rfl
@[simp] theorem State.count_graphs (s : State) (cid code : Nat) (w : Option (BitVec 4 × BitVec 16)) (n : Nat) : (s.count cid code w n).graphs = s.graphs := rfl
@[simp] theorem State.count_badLinks (s : State) (cid code : Nat) (w : Option (BitVec 4 × BitVec 16)) (n : Nat) : (s.count cid code w n).badLinks = s.badLinks := rfl
@[simp] theorem State.count_failedLinks (s : State) (cid code : Nat) (w : Option (BitVec 4 × BitVec 16)) (n : Nat) : (s.count cid code w n).failedLinks = s.failedLinks := rfl
@[simp] theorem State.count_failedRouters (s : State) (cid code : Nat) (w : Option (BitVec 4 × BitVec 16)) (n : Nat) : (s.count cid code w n).failedRouters = s.failedRouters := rfl
@[simp] theorem State.count_flaws (s : State) (cid code : Nat) (w : Option (BitVec 4 × BitVec 16)) (n : Nat) : (s.count cid code w n).flaws = s.flaws := rfl
@[simp] theorem State.count_spots (s : State) (cid code : Nat) (w : Option (BitVec 4 × BitVec 16)) (n : Nat) : (s.count cid code w n).spots = s.spots := rfl
@[simp] theorem State.count_defects (s : State) (cid code : Nat) (w : Option (BitVec 4 × BitVec 16)) (n : Nat) : (s.count cid code w n).defects = s.defects := rfl
@[simp] theorem State.count_module (s : State) (cid code : Nat) (w : Option (BitVec 4 × BitVec 16)) (n : Nat) : (s.count cid code w n).module = s.module := rfl
@[simp] theorem State.count_focus (s : State) (cid code : Nat) (w : Option (BitVec 4 × BitVec 16)) (n : Nat) : (s.count cid code w n).focus = s.focus := rfl
@[simp] theorem State.count_inputs (s : State) (cid code : Nat) (w : Option (BitVec 4 × BitVec 16)) (n : Nat) : (s.count cid code w n).inputs = s.inputs := rfl
@[simp] theorem State.count_tick (s : State) (cid code : Nat) (w : Option (BitVec 4 × BitVec 16)) (n : Nat) : (s.count cid code w n).tick = s.tick := rfl
@[simp] theorem State.count_nextId (s : State) (cid code : Nat) (w : Option (BitVec 4 × BitVec 16)) (n : Nat) : (s.count cid code w n).nextId = s.nextId := rfl

/-! ### `countMe` -/

@[simp] theorem State.countMe_mem (s : State) (code n : Nat) : (s.countMe code n).mem = s.mem := rfl
@[simp] theorem State.countMe_hubs (s : State) (code n : Nat) : (s.countMe code n).hubs = s.hubs := rfl
@[simp] theorem State.countMe_fields (s : State) (code n : Nat) : (s.countMe code n).fields = s.fields := rfl
@[simp] theorem State.countMe_tables (s : State) (code n : Nat) : (s.countMe code n).tables = s.tables := rfl
@[simp] theorem State.countMe_chans (s : State) (code n : Nat) : (s.countMe code n).chans = s.chans := rfl
@[simp] theorem State.countMe_net (s : State) (code n : Nat) : (s.countMe code n).net = s.net := rfl
@[simp] theorem State.countMe_fences (s : State) (code n : Nat) : (s.countMe code n).fences = s.fences := rfl
@[simp] theorem State.countMe_packets (s : State) (code n : Nat) : (s.countMe code n).packets = s.packets := rfl
@[simp] theorem State.countMe_misses (s : State) (code n : Nat) : (s.countMe code n).misses = s.misses := rfl
@[simp] theorem State.countMe_beats (s : State) (code n : Nat) : (s.countMe code n).beats = s.beats := rfl
@[simp] theorem State.countMe_mcasts (s : State) (code n : Nat) : (s.countMe code n).mcasts = s.mcasts := rfl
@[simp] theorem State.countMe_barriers (s : State) (code n : Nat) : (s.countMe code n).barriers = s.barriers := rfl
@[simp] theorem State.countMe_graphs (s : State) (code n : Nat) : (s.countMe code n).graphs = s.graphs := rfl
@[simp] theorem State.countMe_badLinks (s : State) (code n : Nat) : (s.countMe code n).badLinks = s.badLinks := rfl
@[simp] theorem State.countMe_failedLinks (s : State) (code n : Nat) : (s.countMe code n).failedLinks = s.failedLinks := rfl
@[simp] theorem State.countMe_failedRouters (s : State) (code n : Nat) : (s.countMe code n).failedRouters = s.failedRouters := rfl
@[simp] theorem State.countMe_flaws (s : State) (code n : Nat) : (s.countMe code n).flaws = s.flaws := rfl
@[simp] theorem State.countMe_spots (s : State) (code n : Nat) : (s.countMe code n).spots = s.spots := rfl
@[simp] theorem State.countMe_defects (s : State) (code n : Nat) : (s.countMe code n).defects = s.defects := rfl
@[simp] theorem State.countMe_module (s : State) (code n : Nat) : (s.countMe code n).module = s.module := rfl
@[simp] theorem State.countMe_focus (s : State) (code n : Nat) : (s.countMe code n).focus = s.focus := rfl
@[simp] theorem State.countMe_inputs (s : State) (code n : Nat) : (s.countMe code n).inputs = s.inputs := rfl
@[simp] theorem State.countMe_tick (s : State) (code n : Nat) : (s.countMe code n).tick = s.tick := rfl
@[simp] theorem State.countMe_nextId (s : State) (code n : Nat) : (s.countMe code n).nextId = s.nextId := rfl

/-! ### `countHub` -/

@[simp] theorem State.countHub_mem (s : State) (h code : Nat) (w : Option (BitVec 4 × BitVec 16)) : (s.countHub h code w).mem = s.mem := rfl
@[simp] theorem State.countHub_cores (s : State) (h code : Nat) (w : Option (BitVec 4 × BitVec 16)) : (s.countHub h code w).cores = s.cores := rfl
@[simp] theorem State.countHub_fields (s : State) (h code : Nat) (w : Option (BitVec 4 × BitVec 16)) : (s.countHub h code w).fields = s.fields := rfl
@[simp] theorem State.countHub_tables (s : State) (h code : Nat) (w : Option (BitVec 4 × BitVec 16)) : (s.countHub h code w).tables = s.tables := rfl
@[simp] theorem State.countHub_chans (s : State) (h code : Nat) (w : Option (BitVec 4 × BitVec 16)) : (s.countHub h code w).chans = s.chans := rfl
@[simp] theorem State.countHub_net (s : State) (h code : Nat) (w : Option (BitVec 4 × BitVec 16)) : (s.countHub h code w).net = s.net := rfl
@[simp] theorem State.countHub_fences (s : State) (h code : Nat) (w : Option (BitVec 4 × BitVec 16)) : (s.countHub h code w).fences = s.fences := rfl
@[simp] theorem State.countHub_packets (s : State) (h code : Nat) (w : Option (BitVec 4 × BitVec 16)) : (s.countHub h code w).packets = s.packets := rfl
@[simp] theorem State.countHub_misses (s : State) (h code : Nat) (w : Option (BitVec 4 × BitVec 16)) : (s.countHub h code w).misses = s.misses := rfl
@[simp] theorem State.countHub_beats (s : State) (h code : Nat) (w : Option (BitVec 4 × BitVec 16)) : (s.countHub h code w).beats = s.beats := rfl
@[simp] theorem State.countHub_mcasts (s : State) (h code : Nat) (w : Option (BitVec 4 × BitVec 16)) : (s.countHub h code w).mcasts = s.mcasts := rfl
@[simp] theorem State.countHub_barriers (s : State) (h code : Nat) (w : Option (BitVec 4 × BitVec 16)) : (s.countHub h code w).barriers = s.barriers := rfl
@[simp] theorem State.countHub_graphs (s : State) (h code : Nat) (w : Option (BitVec 4 × BitVec 16)) : (s.countHub h code w).graphs = s.graphs := rfl
@[simp] theorem State.countHub_badLinks (s : State) (h code : Nat) (w : Option (BitVec 4 × BitVec 16)) : (s.countHub h code w).badLinks = s.badLinks := rfl
@[simp] theorem State.countHub_failedLinks (s : State) (h code : Nat) (w : Option (BitVec 4 × BitVec 16)) : (s.countHub h code w).failedLinks = s.failedLinks := rfl
@[simp] theorem State.countHub_failedRouters (s : State) (h code : Nat) (w : Option (BitVec 4 × BitVec 16)) : (s.countHub h code w).failedRouters = s.failedRouters := rfl
@[simp] theorem State.countHub_flaws (s : State) (h code : Nat) (w : Option (BitVec 4 × BitVec 16)) : (s.countHub h code w).flaws = s.flaws := rfl
@[simp] theorem State.countHub_spots (s : State) (h code : Nat) (w : Option (BitVec 4 × BitVec 16)) : (s.countHub h code w).spots = s.spots := rfl
@[simp] theorem State.countHub_defects (s : State) (h code : Nat) (w : Option (BitVec 4 × BitVec 16)) : (s.countHub h code w).defects = s.defects := rfl
@[simp] theorem State.countHub_module (s : State) (h code : Nat) (w : Option (BitVec 4 × BitVec 16)) : (s.countHub h code w).module = s.module := rfl
@[simp] theorem State.countHub_focus (s : State) (h code : Nat) (w : Option (BitVec 4 × BitVec 16)) : (s.countHub h code w).focus = s.focus := rfl
@[simp] theorem State.countHub_inputs (s : State) (h code : Nat) (w : Option (BitVec 4 × BitVec 16)) : (s.countHub h code w).inputs = s.inputs := rfl
@[simp] theorem State.countHub_tick (s : State) (h code : Nat) (w : Option (BitVec 4 × BitVec 16)) : (s.countHub h code w).tick = s.tick := rfl
@[simp] theorem State.countHub_nextId (s : State) (h code : Nat) (w : Option (BitVec 4 × BitVec 16)) : (s.countHub h code w).nextId = s.nextId := rfl

/-! ### `countField` -/

@[simp] theorem State.countField_mem (s : State) (f code : Nat) : (s.countField f code).mem = s.mem := rfl
@[simp] theorem State.countField_cores (s : State) (f code : Nat) : (s.countField f code).cores = s.cores := rfl
@[simp] theorem State.countField_hubs (s : State) (f code : Nat) : (s.countField f code).hubs = s.hubs := rfl
@[simp] theorem State.countField_tables (s : State) (f code : Nat) : (s.countField f code).tables = s.tables := rfl
@[simp] theorem State.countField_chans (s : State) (f code : Nat) : (s.countField f code).chans = s.chans := rfl
@[simp] theorem State.countField_net (s : State) (f code : Nat) : (s.countField f code).net = s.net := rfl
@[simp] theorem State.countField_fences (s : State) (f code : Nat) : (s.countField f code).fences = s.fences := rfl
@[simp] theorem State.countField_packets (s : State) (f code : Nat) : (s.countField f code).packets = s.packets := rfl
@[simp] theorem State.countField_misses (s : State) (f code : Nat) : (s.countField f code).misses = s.misses := rfl
@[simp] theorem State.countField_beats (s : State) (f code : Nat) : (s.countField f code).beats = s.beats := rfl
@[simp] theorem State.countField_mcasts (s : State) (f code : Nat) : (s.countField f code).mcasts = s.mcasts := rfl
@[simp] theorem State.countField_barriers (s : State) (f code : Nat) : (s.countField f code).barriers = s.barriers := rfl
@[simp] theorem State.countField_graphs (s : State) (f code : Nat) : (s.countField f code).graphs = s.graphs := rfl
@[simp] theorem State.countField_badLinks (s : State) (f code : Nat) : (s.countField f code).badLinks = s.badLinks := rfl
@[simp] theorem State.countField_failedLinks (s : State) (f code : Nat) : (s.countField f code).failedLinks = s.failedLinks := rfl
@[simp] theorem State.countField_failedRouters (s : State) (f code : Nat) : (s.countField f code).failedRouters = s.failedRouters := rfl
@[simp] theorem State.countField_flaws (s : State) (f code : Nat) : (s.countField f code).flaws = s.flaws := rfl
@[simp] theorem State.countField_spots (s : State) (f code : Nat) : (s.countField f code).spots = s.spots := rfl
@[simp] theorem State.countField_defects (s : State) (f code : Nat) : (s.countField f code).defects = s.defects := rfl
@[simp] theorem State.countField_module (s : State) (f code : Nat) : (s.countField f code).module = s.module := rfl
@[simp] theorem State.countField_focus (s : State) (f code : Nat) : (s.countField f code).focus = s.focus := rfl
@[simp] theorem State.countField_inputs (s : State) (f code : Nat) : (s.countField f code).inputs = s.inputs := rfl
@[simp] theorem State.countField_tick (s : State) (f code : Nat) : (s.countField f code).tick = s.tick := rfl
@[simp] theorem State.countField_nextId (s : State) (f code : Nat) : (s.countField f code).nextId = s.nextId := rfl

/-! ### `modGraph` -/

@[simp] theorem State.modGraph_mem (s : State) (g : BitVec 16) (f : Graph → Graph) : (s.modGraph g f).mem = s.mem := rfl
@[simp] theorem State.modGraph_cores (s : State) (g : BitVec 16) (f : Graph → Graph) : (s.modGraph g f).cores = s.cores := rfl
@[simp] theorem State.modGraph_hubs (s : State) (g : BitVec 16) (f : Graph → Graph) : (s.modGraph g f).hubs = s.hubs := rfl
@[simp] theorem State.modGraph_fields (s : State) (g : BitVec 16) (f : Graph → Graph) : (s.modGraph g f).fields = s.fields := rfl
@[simp] theorem State.modGraph_tables (s : State) (g : BitVec 16) (f : Graph → Graph) : (s.modGraph g f).tables = s.tables := rfl
@[simp] theorem State.modGraph_chans (s : State) (g : BitVec 16) (f : Graph → Graph) : (s.modGraph g f).chans = s.chans := rfl
@[simp] theorem State.modGraph_net (s : State) (g : BitVec 16) (f : Graph → Graph) : (s.modGraph g f).net = s.net := rfl
@[simp] theorem State.modGraph_fences (s : State) (g : BitVec 16) (f : Graph → Graph) : (s.modGraph g f).fences = s.fences := rfl
@[simp] theorem State.modGraph_packets (s : State) (g : BitVec 16) (f : Graph → Graph) : (s.modGraph g f).packets = s.packets := rfl
@[simp] theorem State.modGraph_misses (s : State) (g : BitVec 16) (f : Graph → Graph) : (s.modGraph g f).misses = s.misses := rfl
@[simp] theorem State.modGraph_beats (s : State) (g : BitVec 16) (f : Graph → Graph) : (s.modGraph g f).beats = s.beats := rfl
@[simp] theorem State.modGraph_mcasts (s : State) (g : BitVec 16) (f : Graph → Graph) : (s.modGraph g f).mcasts = s.mcasts := rfl
@[simp] theorem State.modGraph_barriers (s : State) (g : BitVec 16) (f : Graph → Graph) : (s.modGraph g f).barriers = s.barriers := rfl
@[simp] theorem State.modGraph_badLinks (s : State) (g : BitVec 16) (f : Graph → Graph) : (s.modGraph g f).badLinks = s.badLinks := rfl
@[simp] theorem State.modGraph_failedLinks (s : State) (g : BitVec 16) (f : Graph → Graph) : (s.modGraph g f).failedLinks = s.failedLinks := rfl
@[simp] theorem State.modGraph_failedRouters (s : State) (g : BitVec 16) (f : Graph → Graph) : (s.modGraph g f).failedRouters = s.failedRouters := rfl
@[simp] theorem State.modGraph_flaws (s : State) (g : BitVec 16) (f : Graph → Graph) : (s.modGraph g f).flaws = s.flaws := rfl
@[simp] theorem State.modGraph_spots (s : State) (g : BitVec 16) (f : Graph → Graph) : (s.modGraph g f).spots = s.spots := rfl
@[simp] theorem State.modGraph_defects (s : State) (g : BitVec 16) (f : Graph → Graph) : (s.modGraph g f).defects = s.defects := rfl
@[simp] theorem State.modGraph_module (s : State) (g : BitVec 16) (f : Graph → Graph) : (s.modGraph g f).module = s.module := rfl
@[simp] theorem State.modGraph_focus (s : State) (g : BitVec 16) (f : Graph → Graph) : (s.modGraph g f).focus = s.focus := rfl
@[simp] theorem State.modGraph_inputs (s : State) (g : BitVec 16) (f : Graph → Graph) : (s.modGraph g f).inputs = s.inputs := rfl
@[simp] theorem State.modGraph_tick (s : State) (g : BitVec 16) (f : Graph → Graph) : (s.modGraph g f).tick = s.tick := rfl
@[simp] theorem State.modGraph_nextId (s : State) (g : BitVec 16) (f : Graph → Graph) : (s.modGraph g f).nextId = s.nextId := rfl

/-! ### `modChan` -/

@[simp] theorem State.modChan_mem (s : State) (n : Nat) (f : Channel → Channel) : (s.modChan n f).mem = s.mem := rfl
@[simp] theorem State.modChan_cores (s : State) (n : Nat) (f : Channel → Channel) : (s.modChan n f).cores = s.cores := rfl
@[simp] theorem State.modChan_hubs (s : State) (n : Nat) (f : Channel → Channel) : (s.modChan n f).hubs = s.hubs := rfl
@[simp] theorem State.modChan_fields (s : State) (n : Nat) (f : Channel → Channel) : (s.modChan n f).fields = s.fields := rfl
@[simp] theorem State.modChan_tables (s : State) (n : Nat) (f : Channel → Channel) : (s.modChan n f).tables = s.tables := rfl
@[simp] theorem State.modChan_net (s : State) (n : Nat) (f : Channel → Channel) : (s.modChan n f).net = s.net := rfl
@[simp] theorem State.modChan_fences (s : State) (n : Nat) (f : Channel → Channel) : (s.modChan n f).fences = s.fences := rfl
@[simp] theorem State.modChan_packets (s : State) (n : Nat) (f : Channel → Channel) : (s.modChan n f).packets = s.packets := rfl
@[simp] theorem State.modChan_misses (s : State) (n : Nat) (f : Channel → Channel) : (s.modChan n f).misses = s.misses := rfl
@[simp] theorem State.modChan_beats (s : State) (n : Nat) (f : Channel → Channel) : (s.modChan n f).beats = s.beats := rfl
@[simp] theorem State.modChan_mcasts (s : State) (n : Nat) (f : Channel → Channel) : (s.modChan n f).mcasts = s.mcasts := rfl
@[simp] theorem State.modChan_barriers (s : State) (n : Nat) (f : Channel → Channel) : (s.modChan n f).barriers = s.barriers := rfl
@[simp] theorem State.modChan_graphs (s : State) (n : Nat) (f : Channel → Channel) : (s.modChan n f).graphs = s.graphs := rfl
@[simp] theorem State.modChan_badLinks (s : State) (n : Nat) (f : Channel → Channel) : (s.modChan n f).badLinks = s.badLinks := rfl
@[simp] theorem State.modChan_failedLinks (s : State) (n : Nat) (f : Channel → Channel) : (s.modChan n f).failedLinks = s.failedLinks := rfl
@[simp] theorem State.modChan_failedRouters (s : State) (n : Nat) (f : Channel → Channel) : (s.modChan n f).failedRouters = s.failedRouters := rfl
@[simp] theorem State.modChan_flaws (s : State) (n : Nat) (f : Channel → Channel) : (s.modChan n f).flaws = s.flaws := rfl
@[simp] theorem State.modChan_spots (s : State) (n : Nat) (f : Channel → Channel) : (s.modChan n f).spots = s.spots := rfl
@[simp] theorem State.modChan_defects (s : State) (n : Nat) (f : Channel → Channel) : (s.modChan n f).defects = s.defects := rfl
@[simp] theorem State.modChan_module (s : State) (n : Nat) (f : Channel → Channel) : (s.modChan n f).module = s.module := rfl
@[simp] theorem State.modChan_focus (s : State) (n : Nat) (f : Channel → Channel) : (s.modChan n f).focus = s.focus := rfl
@[simp] theorem State.modChan_inputs (s : State) (n : Nat) (f : Channel → Channel) : (s.modChan n f).inputs = s.inputs := rfl
@[simp] theorem State.modChan_tick (s : State) (n : Nat) (f : Channel → Channel) : (s.modChan n f).tick = s.tick := rfl
@[simp] theorem State.modChan_nextId (s : State) (n : Nat) (f : Channel → Channel) : (s.modChan n f).nextId = s.nextId := rfl

/-! ### `dropMsg` -/

@[simp] theorem State.dropMsg_mem (s : State) (n : Nat) : (s.dropMsg n).mem = s.mem := rfl
@[simp] theorem State.dropMsg_cores (s : State) (n : Nat) : (s.dropMsg n).cores = s.cores := rfl
@[simp] theorem State.dropMsg_hubs (s : State) (n : Nat) : (s.dropMsg n).hubs = s.hubs := rfl
@[simp] theorem State.dropMsg_fields (s : State) (n : Nat) : (s.dropMsg n).fields = s.fields := rfl
@[simp] theorem State.dropMsg_tables (s : State) (n : Nat) : (s.dropMsg n).tables = s.tables := rfl
@[simp] theorem State.dropMsg_chans (s : State) (n : Nat) : (s.dropMsg n).chans = s.chans := rfl
@[simp] theorem State.dropMsg_fences (s : State) (n : Nat) : (s.dropMsg n).fences = s.fences := rfl
@[simp] theorem State.dropMsg_packets (s : State) (n : Nat) : (s.dropMsg n).packets = s.packets := rfl
@[simp] theorem State.dropMsg_misses (s : State) (n : Nat) : (s.dropMsg n).misses = s.misses := rfl
@[simp] theorem State.dropMsg_beats (s : State) (n : Nat) : (s.dropMsg n).beats = s.beats := rfl
@[simp] theorem State.dropMsg_mcasts (s : State) (n : Nat) : (s.dropMsg n).mcasts = s.mcasts := rfl
@[simp] theorem State.dropMsg_barriers (s : State) (n : Nat) : (s.dropMsg n).barriers = s.barriers := rfl
@[simp] theorem State.dropMsg_graphs (s : State) (n : Nat) : (s.dropMsg n).graphs = s.graphs := rfl
@[simp] theorem State.dropMsg_badLinks (s : State) (n : Nat) : (s.dropMsg n).badLinks = s.badLinks := rfl
@[simp] theorem State.dropMsg_failedLinks (s : State) (n : Nat) : (s.dropMsg n).failedLinks = s.failedLinks := rfl
@[simp] theorem State.dropMsg_failedRouters (s : State) (n : Nat) : (s.dropMsg n).failedRouters = s.failedRouters := rfl
@[simp] theorem State.dropMsg_flaws (s : State) (n : Nat) : (s.dropMsg n).flaws = s.flaws := rfl
@[simp] theorem State.dropMsg_spots (s : State) (n : Nat) : (s.dropMsg n).spots = s.spots := rfl
@[simp] theorem State.dropMsg_defects (s : State) (n : Nat) : (s.dropMsg n).defects = s.defects := rfl
@[simp] theorem State.dropMsg_module (s : State) (n : Nat) : (s.dropMsg n).module = s.module := rfl
@[simp] theorem State.dropMsg_focus (s : State) (n : Nat) : (s.dropMsg n).focus = s.focus := rfl
@[simp] theorem State.dropMsg_inputs (s : State) (n : Nat) : (s.dropMsg n).inputs = s.inputs := rfl
@[simp] theorem State.dropMsg_tick (s : State) (n : Nat) : (s.dropMsg n).tick = s.tick := rfl
@[simp] theorem State.dropMsg_nextId (s : State) (n : Nat) : (s.dropMsg n).nextId = s.nextId := rfl

/-! ### `report` -/

@[simp] theorem State.report_mem (s : State) (r : LogRec) : (s.report r).mem = s.mem := by simp only [State.report]
@[simp] theorem State.report_cores (s : State) (r : LogRec) : (s.report r).cores = s.cores := by simp only [State.report]
@[simp] theorem State.report_hubs (s : State) (r : LogRec) : (s.report r).hubs = s.hubs := by simp only [State.report]
@[simp] theorem State.report_fields (s : State) (r : LogRec) : (s.report r).fields = s.fields := by simp only [State.report]
@[simp] theorem State.report_tables (s : State) (r : LogRec) : (s.report r).tables = s.tables := by simp only [State.report]
@[simp] theorem State.report_chans (s : State) (r : LogRec) : (s.report r).chans = s.chans := by simp only [State.report]
@[simp] theorem State.report_net (s : State) (r : LogRec) : (s.report r).net = s.net := by simp only [State.report]
@[simp] theorem State.report_fences (s : State) (r : LogRec) : (s.report r).fences = s.fences := by simp only [State.report]
@[simp] theorem State.report_packets (s : State) (r : LogRec) : (s.report r).packets = s.packets := by simp only [State.report]
@[simp] theorem State.report_misses (s : State) (r : LogRec) : (s.report r).misses = s.misses := by simp only [State.report]
@[simp] theorem State.report_beats (s : State) (r : LogRec) : (s.report r).beats = s.beats := by simp only [State.report]
@[simp] theorem State.report_mcasts (s : State) (r : LogRec) : (s.report r).mcasts = s.mcasts := by simp only [State.report]
@[simp] theorem State.report_barriers (s : State) (r : LogRec) : (s.report r).barriers = s.barriers := by simp only [State.report]
@[simp] theorem State.report_graphs (s : State) (r : LogRec) : (s.report r).graphs = s.graphs := by simp only [State.report]
@[simp] theorem State.report_badLinks (s : State) (r : LogRec) : (s.report r).badLinks = s.badLinks := by simp only [State.report]
@[simp] theorem State.report_failedLinks (s : State) (r : LogRec) : (s.report r).failedLinks = s.failedLinks := by simp only [State.report]
@[simp] theorem State.report_failedRouters (s : State) (r : LogRec) : (s.report r).failedRouters = s.failedRouters := by simp only [State.report]
@[simp] theorem State.report_flaws (s : State) (r : LogRec) : (s.report r).flaws = s.flaws := by simp only [State.report]
@[simp] theorem State.report_spots (s : State) (r : LogRec) : (s.report r).spots = s.spots := by simp only [State.report]
@[simp] theorem State.report_defects (s : State) (r : LogRec) : (s.report r).defects = s.defects := by simp only [State.report]
@[simp] theorem State.report_focus (s : State) (r : LogRec) : (s.report r).focus = s.focus := by simp only [State.report]
@[simp] theorem State.report_inputs (s : State) (r : LogRec) : (s.report r).inputs = s.inputs := by simp only [State.report]
@[simp] theorem State.report_tick (s : State) (r : LogRec) : (s.report r).tick = s.tick := by simp only [State.report]
@[simp] theorem State.report_nextId (s : State) (r : LogRec) : (s.report r).nextId = s.nextId := by simp only [State.report]

/-! ### `machineCheck` -/

@[simp] theorem State.machineCheck_mem (s : State) (kind detail : BitVec 8) (cid : Nat) (g : BitVec 16) (a c f e : Word) : (s.machineCheck kind detail cid g a c f e).mem = s.mem := by simp only [State.machineCheck, State.report]
@[simp] theorem State.machineCheck_cores (s : State) (kind detail : BitVec 8) (cid : Nat) (g : BitVec 16) (a c f e : Word) : (s.machineCheck kind detail cid g a c f e).cores = s.cores := by simp only [State.machineCheck, State.report]
@[simp] theorem State.machineCheck_hubs (s : State) (kind detail : BitVec 8) (cid : Nat) (g : BitVec 16) (a c f e : Word) : (s.machineCheck kind detail cid g a c f e).hubs = s.hubs := by simp only [State.machineCheck, State.report]
@[simp] theorem State.machineCheck_fields (s : State) (kind detail : BitVec 8) (cid : Nat) (g : BitVec 16) (a c f e : Word) : (s.machineCheck kind detail cid g a c f e).fields = s.fields := by simp only [State.machineCheck, State.report]
@[simp] theorem State.machineCheck_tables (s : State) (kind detail : BitVec 8) (cid : Nat) (g : BitVec 16) (a c f e : Word) : (s.machineCheck kind detail cid g a c f e).tables = s.tables := by simp only [State.machineCheck, State.report]
@[simp] theorem State.machineCheck_chans (s : State) (kind detail : BitVec 8) (cid : Nat) (g : BitVec 16) (a c f e : Word) : (s.machineCheck kind detail cid g a c f e).chans = s.chans := by simp only [State.machineCheck, State.report]
@[simp] theorem State.machineCheck_net (s : State) (kind detail : BitVec 8) (cid : Nat) (g : BitVec 16) (a c f e : Word) : (s.machineCheck kind detail cid g a c f e).net = s.net := by simp only [State.machineCheck, State.report]
@[simp] theorem State.machineCheck_fences (s : State) (kind detail : BitVec 8) (cid : Nat) (g : BitVec 16) (a c f e : Word) : (s.machineCheck kind detail cid g a c f e).fences = s.fences := by simp only [State.machineCheck, State.report]
@[simp] theorem State.machineCheck_packets (s : State) (kind detail : BitVec 8) (cid : Nat) (g : BitVec 16) (a c f e : Word) : (s.machineCheck kind detail cid g a c f e).packets = s.packets := by simp only [State.machineCheck, State.report]
@[simp] theorem State.machineCheck_misses (s : State) (kind detail : BitVec 8) (cid : Nat) (g : BitVec 16) (a c f e : Word) : (s.machineCheck kind detail cid g a c f e).misses = s.misses := by simp only [State.machineCheck, State.report]
@[simp] theorem State.machineCheck_beats (s : State) (kind detail : BitVec 8) (cid : Nat) (g : BitVec 16) (a c f e : Word) : (s.machineCheck kind detail cid g a c f e).beats = s.beats := by simp only [State.machineCheck, State.report]
@[simp] theorem State.machineCheck_mcasts (s : State) (kind detail : BitVec 8) (cid : Nat) (g : BitVec 16) (a c f e : Word) : (s.machineCheck kind detail cid g a c f e).mcasts = s.mcasts := by simp only [State.machineCheck, State.report]
@[simp] theorem State.machineCheck_barriers (s : State) (kind detail : BitVec 8) (cid : Nat) (g : BitVec 16) (a c f e : Word) : (s.machineCheck kind detail cid g a c f e).barriers = s.barriers := by simp only [State.machineCheck, State.report]
@[simp] theorem State.machineCheck_graphs (s : State) (kind detail : BitVec 8) (cid : Nat) (g : BitVec 16) (a c f e : Word) : (s.machineCheck kind detail cid g a c f e).graphs = s.graphs := by simp only [State.machineCheck, State.report]
@[simp] theorem State.machineCheck_badLinks (s : State) (kind detail : BitVec 8) (cid : Nat) (g : BitVec 16) (a c f e : Word) : (s.machineCheck kind detail cid g a c f e).badLinks = s.badLinks := by simp only [State.machineCheck, State.report]
@[simp] theorem State.machineCheck_failedLinks (s : State) (kind detail : BitVec 8) (cid : Nat) (g : BitVec 16) (a c f e : Word) : (s.machineCheck kind detail cid g a c f e).failedLinks = s.failedLinks := by simp only [State.machineCheck, State.report]
@[simp] theorem State.machineCheck_failedRouters (s : State) (kind detail : BitVec 8) (cid : Nat) (g : BitVec 16) (a c f e : Word) : (s.machineCheck kind detail cid g a c f e).failedRouters = s.failedRouters := by simp only [State.machineCheck, State.report]
@[simp] theorem State.machineCheck_flaws (s : State) (kind detail : BitVec 8) (cid : Nat) (g : BitVec 16) (a c f e : Word) : (s.machineCheck kind detail cid g a c f e).flaws = s.flaws := by simp only [State.machineCheck, State.report]
@[simp] theorem State.machineCheck_spots (s : State) (kind detail : BitVec 8) (cid : Nat) (g : BitVec 16) (a c f e : Word) : (s.machineCheck kind detail cid g a c f e).spots = s.spots := by simp only [State.machineCheck, State.report]
@[simp] theorem State.machineCheck_defects (s : State) (kind detail : BitVec 8) (cid : Nat) (g : BitVec 16) (a c f e : Word) : (s.machineCheck kind detail cid g a c f e).defects = s.defects := by simp only [State.machineCheck, State.report]
@[simp] theorem State.machineCheck_focus (s : State) (kind detail : BitVec 8) (cid : Nat) (g : BitVec 16) (a c f e : Word) : (s.machineCheck kind detail cid g a c f e).focus = s.focus := by simp only [State.machineCheck, State.report]
@[simp] theorem State.machineCheck_inputs (s : State) (kind detail : BitVec 8) (cid : Nat) (g : BitVec 16) (a c f e : Word) : (s.machineCheck kind detail cid g a c f e).inputs = s.inputs := by simp only [State.machineCheck, State.report]
@[simp] theorem State.machineCheck_tick (s : State) (kind detail : BitVec 8) (cid : Nat) (g : BitVec 16) (a c f e : Word) : (s.machineCheck kind detail cid g a c f e).tick = s.tick := by simp only [State.machineCheck, State.report]
@[simp] theorem State.machineCheck_nextId (s : State) (kind detail : BitVec 8) (cid : Nat) (g : BitVec 16) (a c f e : Word) : (s.machineCheck kind detail cid g a c f e).nextId = s.nextId := by simp only [State.machineCheck, State.report]

/-! ### `fabricError` -/

@[simp] theorem State.fabricError_mem (s : State) (kind detail : BitVec 8) (cid : Nat) (g : BitVec 16) (a : Word) : (s.fabricError kind detail cid g a).mem = s.mem := by simp only [State.fabricError, State.report]
@[simp] theorem State.fabricError_cores (s : State) (kind detail : BitVec 8) (cid : Nat) (g : BitVec 16) (a : Word) : (s.fabricError kind detail cid g a).cores = s.cores := by simp only [State.fabricError, State.report]
@[simp] theorem State.fabricError_hubs (s : State) (kind detail : BitVec 8) (cid : Nat) (g : BitVec 16) (a : Word) : (s.fabricError kind detail cid g a).hubs = s.hubs := by simp only [State.fabricError, State.report]
@[simp] theorem State.fabricError_fields (s : State) (kind detail : BitVec 8) (cid : Nat) (g : BitVec 16) (a : Word) : (s.fabricError kind detail cid g a).fields = s.fields := by simp only [State.fabricError, State.report]
@[simp] theorem State.fabricError_tables (s : State) (kind detail : BitVec 8) (cid : Nat) (g : BitVec 16) (a : Word) : (s.fabricError kind detail cid g a).tables = s.tables := by simp only [State.fabricError, State.report]
@[simp] theorem State.fabricError_chans (s : State) (kind detail : BitVec 8) (cid : Nat) (g : BitVec 16) (a : Word) : (s.fabricError kind detail cid g a).chans = s.chans := by simp only [State.fabricError, State.report]
@[simp] theorem State.fabricError_net (s : State) (kind detail : BitVec 8) (cid : Nat) (g : BitVec 16) (a : Word) : (s.fabricError kind detail cid g a).net = s.net := by simp only [State.fabricError, State.report]
@[simp] theorem State.fabricError_fences (s : State) (kind detail : BitVec 8) (cid : Nat) (g : BitVec 16) (a : Word) : (s.fabricError kind detail cid g a).fences = s.fences := by simp only [State.fabricError, State.report]
@[simp] theorem State.fabricError_packets (s : State) (kind detail : BitVec 8) (cid : Nat) (g : BitVec 16) (a : Word) : (s.fabricError kind detail cid g a).packets = s.packets := by simp only [State.fabricError, State.report]
@[simp] theorem State.fabricError_misses (s : State) (kind detail : BitVec 8) (cid : Nat) (g : BitVec 16) (a : Word) : (s.fabricError kind detail cid g a).misses = s.misses := by simp only [State.fabricError, State.report]
@[simp] theorem State.fabricError_beats (s : State) (kind detail : BitVec 8) (cid : Nat) (g : BitVec 16) (a : Word) : (s.fabricError kind detail cid g a).beats = s.beats := by simp only [State.fabricError, State.report]
@[simp] theorem State.fabricError_mcasts (s : State) (kind detail : BitVec 8) (cid : Nat) (g : BitVec 16) (a : Word) : (s.fabricError kind detail cid g a).mcasts = s.mcasts := by simp only [State.fabricError, State.report]
@[simp] theorem State.fabricError_barriers (s : State) (kind detail : BitVec 8) (cid : Nat) (g : BitVec 16) (a : Word) : (s.fabricError kind detail cid g a).barriers = s.barriers := by simp only [State.fabricError, State.report]
@[simp] theorem State.fabricError_graphs (s : State) (kind detail : BitVec 8) (cid : Nat) (g : BitVec 16) (a : Word) : (s.fabricError kind detail cid g a).graphs = s.graphs := by simp only [State.fabricError, State.report]
@[simp] theorem State.fabricError_badLinks (s : State) (kind detail : BitVec 8) (cid : Nat) (g : BitVec 16) (a : Word) : (s.fabricError kind detail cid g a).badLinks = s.badLinks := by simp only [State.fabricError, State.report]
@[simp] theorem State.fabricError_failedLinks (s : State) (kind detail : BitVec 8) (cid : Nat) (g : BitVec 16) (a : Word) : (s.fabricError kind detail cid g a).failedLinks = s.failedLinks := by simp only [State.fabricError, State.report]
@[simp] theorem State.fabricError_failedRouters (s : State) (kind detail : BitVec 8) (cid : Nat) (g : BitVec 16) (a : Word) : (s.fabricError kind detail cid g a).failedRouters = s.failedRouters := by simp only [State.fabricError, State.report]
@[simp] theorem State.fabricError_flaws (s : State) (kind detail : BitVec 8) (cid : Nat) (g : BitVec 16) (a : Word) : (s.fabricError kind detail cid g a).flaws = s.flaws := by simp only [State.fabricError, State.report]
@[simp] theorem State.fabricError_spots (s : State) (kind detail : BitVec 8) (cid : Nat) (g : BitVec 16) (a : Word) : (s.fabricError kind detail cid g a).spots = s.spots := by simp only [State.fabricError, State.report]
@[simp] theorem State.fabricError_defects (s : State) (kind detail : BitVec 8) (cid : Nat) (g : BitVec 16) (a : Word) : (s.fabricError kind detail cid g a).defects = s.defects := by simp only [State.fabricError, State.report]
@[simp] theorem State.fabricError_focus (s : State) (kind detail : BitVec 8) (cid : Nat) (g : BitVec 16) (a : Word) : (s.fabricError kind detail cid g a).focus = s.focus := by simp only [State.fabricError, State.report]
@[simp] theorem State.fabricError_inputs (s : State) (kind detail : BitVec 8) (cid : Nat) (g : BitVec 16) (a : Word) : (s.fabricError kind detail cid g a).inputs = s.inputs := by simp only [State.fabricError, State.report]
@[simp] theorem State.fabricError_tick (s : State) (kind detail : BitVec 8) (cid : Nat) (g : BitVec 16) (a : Word) : (s.fabricError kind detail cid g a).tick = s.tick := by simp only [State.fabricError, State.report]
@[simp] theorem State.fabricError_nextId (s : State) (kind detail : BitVec 8) (cid : Nat) (g : BitVec 16) (a : Word) : (s.fabricError kind detail cid g a).nextId = s.nextId := by simp only [State.fabricError, State.report]

/-! ### `haltRegion` -/

@[simp] theorem State.haltRegion_mem (s : State) (g : BitVec 16) : (s.haltRegion g).mem = s.mem := rfl
@[simp] theorem State.haltRegion_hubs (s : State) (g : BitVec 16) : (s.haltRegion g).hubs = s.hubs := rfl
@[simp] theorem State.haltRegion_fields (s : State) (g : BitVec 16) : (s.haltRegion g).fields = s.fields := rfl
@[simp] theorem State.haltRegion_tables (s : State) (g : BitVec 16) : (s.haltRegion g).tables = s.tables := rfl
@[simp] theorem State.haltRegion_chans (s : State) (g : BitVec 16) : (s.haltRegion g).chans = s.chans := rfl
@[simp] theorem State.haltRegion_net (s : State) (g : BitVec 16) : (s.haltRegion g).net = s.net := rfl
@[simp] theorem State.haltRegion_fences (s : State) (g : BitVec 16) : (s.haltRegion g).fences = s.fences := rfl
@[simp] theorem State.haltRegion_packets (s : State) (g : BitVec 16) : (s.haltRegion g).packets = s.packets := rfl
@[simp] theorem State.haltRegion_misses (s : State) (g : BitVec 16) : (s.haltRegion g).misses = s.misses := rfl
@[simp] theorem State.haltRegion_beats (s : State) (g : BitVec 16) : (s.haltRegion g).beats = s.beats := rfl
@[simp] theorem State.haltRegion_mcasts (s : State) (g : BitVec 16) : (s.haltRegion g).mcasts = s.mcasts := rfl
@[simp] theorem State.haltRegion_barriers (s : State) (g : BitVec 16) : (s.haltRegion g).barriers = s.barriers := rfl
@[simp] theorem State.haltRegion_badLinks (s : State) (g : BitVec 16) : (s.haltRegion g).badLinks = s.badLinks := rfl
@[simp] theorem State.haltRegion_failedLinks (s : State) (g : BitVec 16) : (s.haltRegion g).failedLinks = s.failedLinks := rfl
@[simp] theorem State.haltRegion_failedRouters (s : State) (g : BitVec 16) : (s.haltRegion g).failedRouters = s.failedRouters := rfl
@[simp] theorem State.haltRegion_flaws (s : State) (g : BitVec 16) : (s.haltRegion g).flaws = s.flaws := rfl
@[simp] theorem State.haltRegion_spots (s : State) (g : BitVec 16) : (s.haltRegion g).spots = s.spots := rfl
@[simp] theorem State.haltRegion_defects (s : State) (g : BitVec 16) : (s.haltRegion g).defects = s.defects := rfl
@[simp] theorem State.haltRegion_module (s : State) (g : BitVec 16) : (s.haltRegion g).module = s.module := rfl
@[simp] theorem State.haltRegion_focus (s : State) (g : BitVec 16) : (s.haltRegion g).focus = s.focus := rfl
@[simp] theorem State.haltRegion_inputs (s : State) (g : BitVec 16) : (s.haltRegion g).inputs = s.inputs := rfl
@[simp] theorem State.haltRegion_tick (s : State) (g : BitVec 16) : (s.haltRegion g).tick = s.tick := rfl
@[simp] theorem State.haltRegion_nextId (s : State) (g : BitVec 16) : (s.haltRegion g).nextId = s.nextId := rfl

/-! ### `writeByte` -/

@[simp] theorem State.writeByte_cores (s : State) (a : Nat) (v : Byte) : (s.writeByte a v).cores = s.cores := rfl
@[simp] theorem State.writeByte_hubs (s : State) (a : Nat) (v : Byte) : (s.writeByte a v).hubs = s.hubs := rfl
@[simp] theorem State.writeByte_fields (s : State) (a : Nat) (v : Byte) : (s.writeByte a v).fields = s.fields := rfl
@[simp] theorem State.writeByte_tables (s : State) (a : Nat) (v : Byte) : (s.writeByte a v).tables = s.tables := rfl
@[simp] theorem State.writeByte_chans (s : State) (a : Nat) (v : Byte) : (s.writeByte a v).chans = s.chans := rfl
@[simp] theorem State.writeByte_net (s : State) (a : Nat) (v : Byte) : (s.writeByte a v).net = s.net := rfl
@[simp] theorem State.writeByte_fences (s : State) (a : Nat) (v : Byte) : (s.writeByte a v).fences = s.fences := rfl
@[simp] theorem State.writeByte_packets (s : State) (a : Nat) (v : Byte) : (s.writeByte a v).packets = s.packets := rfl
@[simp] theorem State.writeByte_misses (s : State) (a : Nat) (v : Byte) : (s.writeByte a v).misses = s.misses := rfl
@[simp] theorem State.writeByte_beats (s : State) (a : Nat) (v : Byte) : (s.writeByte a v).beats = s.beats := rfl
@[simp] theorem State.writeByte_mcasts (s : State) (a : Nat) (v : Byte) : (s.writeByte a v).mcasts = s.mcasts := rfl
@[simp] theorem State.writeByte_barriers (s : State) (a : Nat) (v : Byte) : (s.writeByte a v).barriers = s.barriers := rfl
@[simp] theorem State.writeByte_graphs (s : State) (a : Nat) (v : Byte) : (s.writeByte a v).graphs = s.graphs := rfl
@[simp] theorem State.writeByte_badLinks (s : State) (a : Nat) (v : Byte) : (s.writeByte a v).badLinks = s.badLinks := rfl
@[simp] theorem State.writeByte_failedLinks (s : State) (a : Nat) (v : Byte) : (s.writeByte a v).failedLinks = s.failedLinks := rfl
@[simp] theorem State.writeByte_failedRouters (s : State) (a : Nat) (v : Byte) : (s.writeByte a v).failedRouters = s.failedRouters := rfl
@[simp] theorem State.writeByte_spots (s : State) (a : Nat) (v : Byte) : (s.writeByte a v).spots = s.spots := rfl
@[simp] theorem State.writeByte_defects (s : State) (a : Nat) (v : Byte) : (s.writeByte a v).defects = s.defects := rfl
@[simp] theorem State.writeByte_module (s : State) (a : Nat) (v : Byte) : (s.writeByte a v).module = s.module := rfl
@[simp] theorem State.writeByte_focus (s : State) (a : Nat) (v : Byte) : (s.writeByte a v).focus = s.focus := rfl
@[simp] theorem State.writeByte_inputs (s : State) (a : Nat) (v : Byte) : (s.writeByte a v).inputs = s.inputs := rfl
@[simp] theorem State.writeByte_tick (s : State) (a : Nat) (v : Byte) : (s.writeByte a v).tick = s.tick := rfl
@[simp] theorem State.writeByte_nextId (s : State) (a : Nat) (v : Byte) : (s.writeByte a v).nextId = s.nextId := rfl

/-! ### `unhandled` -/

@[simp] theorem State.unhandled_mem (s : State) (t : TrapCause) : (s.unhandled t).mem = s.mem := by simp only [State.unhandled, State.machineCheck, State.report]; rfl
@[simp] theorem State.unhandled_hubs (s : State) (t : TrapCause) : (s.unhandled t).hubs = s.hubs := by simp only [State.unhandled, State.machineCheck, State.report]; rfl
@[simp] theorem State.unhandled_fields (s : State) (t : TrapCause) : (s.unhandled t).fields = s.fields := by simp only [State.unhandled, State.machineCheck, State.report]; rfl
@[simp] theorem State.unhandled_tables (s : State) (t : TrapCause) : (s.unhandled t).tables = s.tables := by simp only [State.unhandled, State.machineCheck, State.report]; rfl
@[simp] theorem State.unhandled_chans (s : State) (t : TrapCause) : (s.unhandled t).chans = s.chans := by simp only [State.unhandled, State.machineCheck, State.report]; rfl
@[simp] theorem State.unhandled_net (s : State) (t : TrapCause) : (s.unhandled t).net = s.net := by simp only [State.unhandled, State.machineCheck, State.report]; rfl
@[simp] theorem State.unhandled_fences (s : State) (t : TrapCause) : (s.unhandled t).fences = s.fences := by simp only [State.unhandled, State.machineCheck, State.report]; rfl
@[simp] theorem State.unhandled_packets (s : State) (t : TrapCause) : (s.unhandled t).packets = s.packets := by simp only [State.unhandled, State.machineCheck, State.report]; rfl
@[simp] theorem State.unhandled_misses (s : State) (t : TrapCause) : (s.unhandled t).misses = s.misses := by simp only [State.unhandled, State.machineCheck, State.report]; rfl
@[simp] theorem State.unhandled_beats (s : State) (t : TrapCause) : (s.unhandled t).beats = s.beats := by simp only [State.unhandled, State.machineCheck, State.report]; rfl
@[simp] theorem State.unhandled_mcasts (s : State) (t : TrapCause) : (s.unhandled t).mcasts = s.mcasts := by simp only [State.unhandled, State.machineCheck, State.report]; rfl
@[simp] theorem State.unhandled_barriers (s : State) (t : TrapCause) : (s.unhandled t).barriers = s.barriers := by simp only [State.unhandled, State.machineCheck, State.report]; rfl
@[simp] theorem State.unhandled_badLinks (s : State) (t : TrapCause) : (s.unhandled t).badLinks = s.badLinks := by simp only [State.unhandled, State.machineCheck, State.report]; rfl
@[simp] theorem State.unhandled_failedLinks (s : State) (t : TrapCause) : (s.unhandled t).failedLinks = s.failedLinks := by simp only [State.unhandled, State.machineCheck, State.report]; rfl
@[simp] theorem State.unhandled_failedRouters (s : State) (t : TrapCause) : (s.unhandled t).failedRouters = s.failedRouters := by simp only [State.unhandled, State.machineCheck, State.report]; rfl
@[simp] theorem State.unhandled_flaws (s : State) (t : TrapCause) : (s.unhandled t).flaws = s.flaws := by simp only [State.unhandled, State.machineCheck, State.report]; rfl
@[simp] theorem State.unhandled_spots (s : State) (t : TrapCause) : (s.unhandled t).spots = s.spots := by simp only [State.unhandled, State.machineCheck, State.report]; rfl
@[simp] theorem State.unhandled_defects (s : State) (t : TrapCause) : (s.unhandled t).defects = s.defects := by simp only [State.unhandled, State.machineCheck, State.report]; rfl
@[simp] theorem State.unhandled_focus (s : State) (t : TrapCause) : (s.unhandled t).focus = s.focus := by simp only [State.unhandled, State.machineCheck, State.report]; rfl
@[simp] theorem State.unhandled_inputs (s : State) (t : TrapCause) : (s.unhandled t).inputs = s.inputs := by simp only [State.unhandled, State.machineCheck, State.report]; rfl
@[simp] theorem State.unhandled_tick (s : State) (t : TrapCause) : (s.unhandled t).tick = s.tick := by simp only [State.unhandled, State.machineCheck, State.report]; rfl
@[simp] theorem State.unhandled_nextId (s : State) (t : TrapCause) : (s.unhandled t).nextId = s.nextId := by simp only [State.unhandled, State.machineCheck, State.report]; rfl

/-! ## Context updates -/

/-! ### `writeS` -/

@[simp] theorem Context.writeS_v (c : Context) (r : Reg) (x : Word) : (c.writeS r x).v = c.v := by unfold Context.writeS; split <;> rfl
@[simp] theorem Context.writeS_k (c : Context) (r : Reg) (x : Word) : (c.writeS r x).k = c.k := by unfold Context.writeS; split <;> rfl
@[simp] theorem Context.writeS_f (c : Context) (r : Reg) (x : Word) : (c.writeS r x).f = c.f := by unfold Context.writeS; split <;> rfl
@[simp] theorem Context.writeS_e (c : Context) (r : Reg) (x : Word) : (c.writeS r x).e = c.e := by unfold Context.writeS; split <;> rfl
@[simp] theorem Context.writeS_status (c : Context) (r : Reg) (x : Word) : (c.writeS r x).status = c.status := by unfold Context.writeS; split <;> rfl
@[simp] theorem Context.writeS_prec (c : Context) (r : Reg) (x : Word) : (c.writeS r x).prec = c.prec := by unfold Context.writeS; split <;> rfl
@[simp] theorem Context.writeS_cause (c : Context) (r : Reg) (x : Word) : (c.writeS r x).cause = c.cause := by unfold Context.writeS; split <;> rfl
@[simp] theorem Context.writeS_faddr (c : Context) (r : Reg) (x : Word) : (c.writeS r x).faddr = c.faddr := by unfold Context.writeS; split <;> rfl
@[simp] theorem Context.writeS_epc (c : Context) (r : Reg) (x : Word) : (c.writeS r x).epc = c.epc := by unfold Context.writeS; split <;> rfl
@[simp] theorem Context.writeS_ctxid (c : Context) (r : Reg) (x : Word) : (c.writeS r x).ctxid = c.ctxid := by unfold Context.writeS; split <;> rfl
@[simp] theorem Context.writeS_tvec (c : Context) (r : Reg) (x : Word) : (c.writeS r x).tvec = c.tvec := by unfold Context.writeS; split <;> rfl
@[simp] theorem Context.writeS_rseed (c : Context) (r : Reg) (x : Word) : (c.writeS r x).rseed = c.rseed := by unfold Context.writeS; split <;> rfl
@[simp] theorem Context.writeS_pladder (c : Context) (r : Reg) (x : Word) : (c.writeS r x).pladder = c.pladder := by unfold Context.writeS; split <;> rfl
@[simp] theorem Context.writeS_pbudget (c : Context) (r : Reg) (x : Word) : (c.writeS r x).pbudget = c.pbudget := by unfold Context.writeS; split <;> rfl
@[simp] theorem Context.writeS_gen (c : Context) (r : Reg) (x : Word) : (c.writeS r x).gen = c.gen := by unfold Context.writeS; split <;> rfl
@[simp] theorem Context.writeS_seq (c : Context) (r : Reg) (x : Word) : (c.writeS r x).seq = c.seq := by unfold Context.writeS; split <;> rfl
@[simp] theorem Context.writeS_cseq (c : Context) (r : Reg) (x : Word) : (c.writeS r x).cseq = c.cseq := by unfold Context.writeS; split <;> rfl
@[simp] theorem Context.writeS_awaits (c : Context) (r : Reg) (x : Word) : (c.writeS r x).awaits = c.awaits := by unfold Context.writeS; split <;> rfl
@[simp] theorem Context.writeS_bound (c : Context) (r : Reg) (x : Word) : (c.writeS r x).bound = c.bound := by unfold Context.writeS; split <;> rfl
@[simp] theorem Context.writeS_handlers (c : Context) (r : Reg) (x : Word) : (c.writeS r x).handlers = c.handlers := by unfold Context.writeS; split <;> rfl
@[simp] theorem Context.writeS_window (c : Context) (r : Reg) (x : Word) : (c.writeS r x).window = c.window := by unfold Context.writeS; split <;> rfl
@[simp] theorem Context.writeS_saveBase (c : Context) (r : Reg) (x : Word) : (c.writeS r x).saveBase = c.saveBase := by unfold Context.writeS; split <;> rfl
@[simp] theorem Context.writeS_inPort (c : Context) (r : Reg) (x : Word) : (c.writeS r x).inPort = c.inPort := by unfold Context.writeS; split <;> rfl
@[simp] theorem Context.writeS_outPort (c : Context) (r : Reg) (x : Word) : (c.writeS r x).outPort = c.outPort := by unfold Context.writeS; split <;> rfl
@[simp] theorem Context.writeS_firing (c : Context) (r : Reg) (x : Word) : (c.writeS r x).firing = c.firing := by unfold Context.writeS; split <;> rfl
@[simp] theorem Context.writeS_endFiring (c : Context) (r : Reg) (x : Word) : (c.writeS r x).endFiring = c.endFiring := by unfold Context.writeS; split <;> rfl
@[simp] theorem Context.writeS_consRem (c : Context) (r : Reg) (x : Word) : (c.writeS r x).consRem = c.consRem := by unfold Context.writeS; split <;> rfl
@[simp] theorem Context.writeS_prodRem (c : Context) (r : Reg) (x : Word) : (c.writeS r x).prodRem = c.prodRem := by unfold Context.writeS; split <;> rfl
@[simp] theorem Context.writeS_handler (c : Context) (r : Reg) (x : Word) : (c.writeS r x).handler = c.handler := by unfold Context.writeS; split <;> rfl
@[simp] theorem Context.writeS_word (c : Context) (r : Reg) (x : Word) : (c.writeS r x).word = c.word := by unfold Context.writeS; split <;> rfl
@[simp] theorem Context.writeS_chain (c : Context) (r : Reg) (x : Word) : (c.writeS r x).chain = c.chain := by unfold Context.writeS; split <;> rfl
@[simp] theorem Context.writeS_park (c : Context) (r : Reg) (x : Word) : (c.writeS r x).park = c.park := by unfold Context.writeS; split <;> rfl
@[simp] theorem Context.writeS_stopped (c : Context) (r : Reg) (x : Word) : (c.writeS r x).stopped = c.stopped := by unfold Context.writeS; split <;> rfl
@[simp] theorem Context.writeS_saved (c : Context) (r : Reg) (x : Word) : (c.writeS r x).saved = c.saved := by unfold Context.writeS; split <;> rfl
@[simp] theorem Context.writeS_framed (c : Context) (r : Reg) (x : Word) : (c.writeS r x).framed = c.framed := by unfold Context.writeS; split <;> rfl
@[simp] theorem Context.writeS_frameSeed (c : Context) (r : Reg) (x : Word) : (c.writeS r x).frameSeed = c.frameSeed := by unfold Context.writeS; split <;> rfl
@[simp] theorem Context.writeS_invocations (c : Context) (r : Reg) (x : Word) : (c.writeS r x).invocations = c.invocations := by unfold Context.writeS; split <;> rfl
@[simp] theorem Context.writeS_walked (c : Context) (r : Reg) (x : Word) : (c.writeS r x).walked = c.walked := by unfold Context.writeS; split <;> rfl
@[simp] theorem Context.writeS_sourceFired (c : Context) (r : Reg) (x : Word) : (c.writeS r x).sourceFired = c.sourceFired := by unfold Context.writeS; split <;> rfl
@[simp] theorem Context.writeS_firedAt (c : Context) (r : Reg) (x : Word) : (c.writeS r x).firedAt = c.firedAt := by unfold Context.writeS; split <;> rfl

/-! ### `markEmpty` -/

@[simp] theorem Context.markEmpty_s (c : Context) (r : Reg) : (c.markEmpty r).s = c.s := by unfold Context.markEmpty; split <;> rfl
@[simp] theorem Context.markEmpty_v (c : Context) (r : Reg) : (c.markEmpty r).v = c.v := by unfold Context.markEmpty; split <;> rfl
@[simp] theorem Context.markEmpty_k (c : Context) (r : Reg) : (c.markEmpty r).k = c.k := by unfold Context.markEmpty; split <;> rfl
@[simp] theorem Context.markEmpty_f (c : Context) (r : Reg) : (c.markEmpty r).f = c.f := by unfold Context.markEmpty; split <;> rfl
@[simp] theorem Context.markEmpty_e (c : Context) (r : Reg) : (c.markEmpty r).e = c.e := by unfold Context.markEmpty; split <;> rfl
@[simp] theorem Context.markEmpty_status (c : Context) (r : Reg) : (c.markEmpty r).status = c.status := by unfold Context.markEmpty; split <;> rfl
@[simp] theorem Context.markEmpty_prec (c : Context) (r : Reg) : (c.markEmpty r).prec = c.prec := by unfold Context.markEmpty; split <;> rfl
@[simp] theorem Context.markEmpty_cause (c : Context) (r : Reg) : (c.markEmpty r).cause = c.cause := by unfold Context.markEmpty; split <;> rfl
@[simp] theorem Context.markEmpty_faddr (c : Context) (r : Reg) : (c.markEmpty r).faddr = c.faddr := by unfold Context.markEmpty; split <;> rfl
@[simp] theorem Context.markEmpty_epc (c : Context) (r : Reg) : (c.markEmpty r).epc = c.epc := by unfold Context.markEmpty; split <;> rfl
@[simp] theorem Context.markEmpty_ctxid (c : Context) (r : Reg) : (c.markEmpty r).ctxid = c.ctxid := by unfold Context.markEmpty; split <;> rfl
@[simp] theorem Context.markEmpty_tvec (c : Context) (r : Reg) : (c.markEmpty r).tvec = c.tvec := by unfold Context.markEmpty; split <;> rfl
@[simp] theorem Context.markEmpty_rseed (c : Context) (r : Reg) : (c.markEmpty r).rseed = c.rseed := by unfold Context.markEmpty; split <;> rfl
@[simp] theorem Context.markEmpty_pladder (c : Context) (r : Reg) : (c.markEmpty r).pladder = c.pladder := by unfold Context.markEmpty; split <;> rfl
@[simp] theorem Context.markEmpty_pbudget (c : Context) (r : Reg) : (c.markEmpty r).pbudget = c.pbudget := by unfold Context.markEmpty; split <;> rfl
@[simp] theorem Context.markEmpty_gen (c : Context) (r : Reg) : (c.markEmpty r).gen = c.gen := by unfold Context.markEmpty; split <;> rfl
@[simp] theorem Context.markEmpty_seq (c : Context) (r : Reg) : (c.markEmpty r).seq = c.seq := by unfold Context.markEmpty; split <;> rfl
@[simp] theorem Context.markEmpty_cseq (c : Context) (r : Reg) : (c.markEmpty r).cseq = c.cseq := by unfold Context.markEmpty; split <;> rfl
@[simp] theorem Context.markEmpty_awaits (c : Context) (r : Reg) : (c.markEmpty r).awaits = c.awaits := by unfold Context.markEmpty; split <;> rfl
@[simp] theorem Context.markEmpty_bound (c : Context) (r : Reg) : (c.markEmpty r).bound = c.bound := by unfold Context.markEmpty; split <;> rfl
@[simp] theorem Context.markEmpty_handlers (c : Context) (r : Reg) : (c.markEmpty r).handlers = c.handlers := by unfold Context.markEmpty; split <;> rfl
@[simp] theorem Context.markEmpty_window (c : Context) (r : Reg) : (c.markEmpty r).window = c.window := by unfold Context.markEmpty; split <;> rfl
@[simp] theorem Context.markEmpty_saveBase (c : Context) (r : Reg) : (c.markEmpty r).saveBase = c.saveBase := by unfold Context.markEmpty; split <;> rfl
@[simp] theorem Context.markEmpty_inPort (c : Context) (r : Reg) : (c.markEmpty r).inPort = c.inPort := by unfold Context.markEmpty; split <;> rfl
@[simp] theorem Context.markEmpty_outPort (c : Context) (r : Reg) : (c.markEmpty r).outPort = c.outPort := by unfold Context.markEmpty; split <;> rfl
@[simp] theorem Context.markEmpty_firing (c : Context) (r : Reg) : (c.markEmpty r).firing = c.firing := by unfold Context.markEmpty; split <;> rfl
@[simp] theorem Context.markEmpty_endFiring (c : Context) (r : Reg) : (c.markEmpty r).endFiring = c.endFiring := by unfold Context.markEmpty; split <;> rfl
@[simp] theorem Context.markEmpty_consRem (c : Context) (r : Reg) : (c.markEmpty r).consRem = c.consRem := by unfold Context.markEmpty; split <;> rfl
@[simp] theorem Context.markEmpty_prodRem (c : Context) (r : Reg) : (c.markEmpty r).prodRem = c.prodRem := by unfold Context.markEmpty; split <;> rfl
@[simp] theorem Context.markEmpty_handler (c : Context) (r : Reg) : (c.markEmpty r).handler = c.handler := by unfold Context.markEmpty; split <;> rfl
@[simp] theorem Context.markEmpty_word (c : Context) (r : Reg) : (c.markEmpty r).word = c.word := by unfold Context.markEmpty; split <;> rfl
@[simp] theorem Context.markEmpty_chain (c : Context) (r : Reg) : (c.markEmpty r).chain = c.chain := by unfold Context.markEmpty; split <;> rfl
@[simp] theorem Context.markEmpty_park (c : Context) (r : Reg) : (c.markEmpty r).park = c.park := by unfold Context.markEmpty; split <;> rfl
@[simp] theorem Context.markEmpty_stopped (c : Context) (r : Reg) : (c.markEmpty r).stopped = c.stopped := by unfold Context.markEmpty; split <;> rfl
@[simp] theorem Context.markEmpty_saved (c : Context) (r : Reg) : (c.markEmpty r).saved = c.saved := by unfold Context.markEmpty; split <;> rfl
@[simp] theorem Context.markEmpty_framed (c : Context) (r : Reg) : (c.markEmpty r).framed = c.framed := by unfold Context.markEmpty; split <;> rfl
@[simp] theorem Context.markEmpty_frameSeed (c : Context) (r : Reg) : (c.markEmpty r).frameSeed = c.frameSeed := by unfold Context.markEmpty; split <;> rfl
@[simp] theorem Context.markEmpty_invocations (c : Context) (r : Reg) : (c.markEmpty r).invocations = c.invocations := by unfold Context.markEmpty; split <;> rfl
@[simp] theorem Context.markEmpty_walked (c : Context) (r : Reg) : (c.markEmpty r).walked = c.walked := by unfold Context.markEmpty; split <;> rfl
@[simp] theorem Context.markEmpty_sourceFired (c : Context) (r : Reg) : (c.markEmpty r).sourceFired = c.sourceFired := by unfold Context.markEmpty; split <;> rfl
@[simp] theorem Context.markEmpty_firedAt (c : Context) (r : Reg) : (c.markEmpty r).firedAt = c.firedAt := by unfold Context.markEmpty; split <;> rfl

/-! ### `markFull` -/

@[simp] theorem Context.markFull_s (c : Context) (r : Reg) : (c.markFull r).s = c.s := by unfold Context.markFull; split <;> rfl
@[simp] theorem Context.markFull_v (c : Context) (r : Reg) : (c.markFull r).v = c.v := by unfold Context.markFull; split <;> rfl
@[simp] theorem Context.markFull_k (c : Context) (r : Reg) : (c.markFull r).k = c.k := by unfold Context.markFull; split <;> rfl
@[simp] theorem Context.markFull_f (c : Context) (r : Reg) : (c.markFull r).f = c.f := by unfold Context.markFull; split <;> rfl
@[simp] theorem Context.markFull_e (c : Context) (r : Reg) : (c.markFull r).e = c.e := by unfold Context.markFull; split <;> rfl
@[simp] theorem Context.markFull_status (c : Context) (r : Reg) : (c.markFull r).status = c.status := by unfold Context.markFull; split <;> rfl
@[simp] theorem Context.markFull_prec (c : Context) (r : Reg) : (c.markFull r).prec = c.prec := by unfold Context.markFull; split <;> rfl
@[simp] theorem Context.markFull_cause (c : Context) (r : Reg) : (c.markFull r).cause = c.cause := by unfold Context.markFull; split <;> rfl
@[simp] theorem Context.markFull_faddr (c : Context) (r : Reg) : (c.markFull r).faddr = c.faddr := by unfold Context.markFull; split <;> rfl
@[simp] theorem Context.markFull_epc (c : Context) (r : Reg) : (c.markFull r).epc = c.epc := by unfold Context.markFull; split <;> rfl
@[simp] theorem Context.markFull_ctxid (c : Context) (r : Reg) : (c.markFull r).ctxid = c.ctxid := by unfold Context.markFull; split <;> rfl
@[simp] theorem Context.markFull_tvec (c : Context) (r : Reg) : (c.markFull r).tvec = c.tvec := by unfold Context.markFull; split <;> rfl
@[simp] theorem Context.markFull_rseed (c : Context) (r : Reg) : (c.markFull r).rseed = c.rseed := by unfold Context.markFull; split <;> rfl
@[simp] theorem Context.markFull_pladder (c : Context) (r : Reg) : (c.markFull r).pladder = c.pladder := by unfold Context.markFull; split <;> rfl
@[simp] theorem Context.markFull_pbudget (c : Context) (r : Reg) : (c.markFull r).pbudget = c.pbudget := by unfold Context.markFull; split <;> rfl
@[simp] theorem Context.markFull_gen (c : Context) (r : Reg) : (c.markFull r).gen = c.gen := by unfold Context.markFull; split <;> rfl
@[simp] theorem Context.markFull_seq (c : Context) (r : Reg) : (c.markFull r).seq = c.seq := by unfold Context.markFull; split <;> rfl
@[simp] theorem Context.markFull_cseq (c : Context) (r : Reg) : (c.markFull r).cseq = c.cseq := by unfold Context.markFull; split <;> rfl
@[simp] theorem Context.markFull_awaits (c : Context) (r : Reg) : (c.markFull r).awaits = c.awaits := by unfold Context.markFull; split <;> rfl
@[simp] theorem Context.markFull_bound (c : Context) (r : Reg) : (c.markFull r).bound = c.bound := by unfold Context.markFull; split <;> rfl
@[simp] theorem Context.markFull_handlers (c : Context) (r : Reg) : (c.markFull r).handlers = c.handlers := by unfold Context.markFull; split <;> rfl
@[simp] theorem Context.markFull_window (c : Context) (r : Reg) : (c.markFull r).window = c.window := by unfold Context.markFull; split <;> rfl
@[simp] theorem Context.markFull_saveBase (c : Context) (r : Reg) : (c.markFull r).saveBase = c.saveBase := by unfold Context.markFull; split <;> rfl
@[simp] theorem Context.markFull_inPort (c : Context) (r : Reg) : (c.markFull r).inPort = c.inPort := by unfold Context.markFull; split <;> rfl
@[simp] theorem Context.markFull_outPort (c : Context) (r : Reg) : (c.markFull r).outPort = c.outPort := by unfold Context.markFull; split <;> rfl
@[simp] theorem Context.markFull_firing (c : Context) (r : Reg) : (c.markFull r).firing = c.firing := by unfold Context.markFull; split <;> rfl
@[simp] theorem Context.markFull_endFiring (c : Context) (r : Reg) : (c.markFull r).endFiring = c.endFiring := by unfold Context.markFull; split <;> rfl
@[simp] theorem Context.markFull_consRem (c : Context) (r : Reg) : (c.markFull r).consRem = c.consRem := by unfold Context.markFull; split <;> rfl
@[simp] theorem Context.markFull_prodRem (c : Context) (r : Reg) : (c.markFull r).prodRem = c.prodRem := by unfold Context.markFull; split <;> rfl
@[simp] theorem Context.markFull_handler (c : Context) (r : Reg) : (c.markFull r).handler = c.handler := by unfold Context.markFull; split <;> rfl
@[simp] theorem Context.markFull_word (c : Context) (r : Reg) : (c.markFull r).word = c.word := by unfold Context.markFull; split <;> rfl
@[simp] theorem Context.markFull_chain (c : Context) (r : Reg) : (c.markFull r).chain = c.chain := by unfold Context.markFull; split <;> rfl
@[simp] theorem Context.markFull_park (c : Context) (r : Reg) : (c.markFull r).park = c.park := by unfold Context.markFull; split <;> rfl
@[simp] theorem Context.markFull_stopped (c : Context) (r : Reg) : (c.markFull r).stopped = c.stopped := by unfold Context.markFull; split <;> rfl
@[simp] theorem Context.markFull_saved (c : Context) (r : Reg) : (c.markFull r).saved = c.saved := by unfold Context.markFull; split <;> rfl
@[simp] theorem Context.markFull_framed (c : Context) (r : Reg) : (c.markFull r).framed = c.framed := by unfold Context.markFull; split <;> rfl
@[simp] theorem Context.markFull_frameSeed (c : Context) (r : Reg) : (c.markFull r).frameSeed = c.frameSeed := by unfold Context.markFull; split <;> rfl
@[simp] theorem Context.markFull_invocations (c : Context) (r : Reg) : (c.markFull r).invocations = c.invocations := by unfold Context.markFull; split <;> rfl
@[simp] theorem Context.markFull_walked (c : Context) (r : Reg) : (c.markFull r).walked = c.walked := by unfold Context.markFull; split <;> rfl
@[simp] theorem Context.markFull_sourceFired (c : Context) (r : Reg) : (c.markFull r).sourceFired = c.sourceFired := by unfold Context.markFull; split <;> rfl
@[simp] theorem Context.markFull_firedAt (c : Context) (r : Reg) : (c.markFull r).firedAt = c.firedAt := by unfold Context.markFull; split <;> rfl

/-! ### `writeK` -/

@[simp] theorem Context.writeK_s (c : Context) (r : BitVec 3) (x : Mask) : (c.writeK r x).s = c.s := by unfold Context.writeK; split <;> rfl
@[simp] theorem Context.writeK_full (c : Context) (r : BitVec 3) (x : Mask) : (c.writeK r x).full = c.full := by unfold Context.writeK; split <;> rfl
@[simp] theorem Context.writeK_v (c : Context) (r : BitVec 3) (x : Mask) : (c.writeK r x).v = c.v := by unfold Context.writeK; split <;> rfl
@[simp] theorem Context.writeK_f (c : Context) (r : BitVec 3) (x : Mask) : (c.writeK r x).f = c.f := by unfold Context.writeK; split <;> rfl
@[simp] theorem Context.writeK_e (c : Context) (r : BitVec 3) (x : Mask) : (c.writeK r x).e = c.e := by unfold Context.writeK; split <;> rfl
@[simp] theorem Context.writeK_status (c : Context) (r : BitVec 3) (x : Mask) : (c.writeK r x).status = c.status := by unfold Context.writeK; split <;> rfl
@[simp] theorem Context.writeK_prec (c : Context) (r : BitVec 3) (x : Mask) : (c.writeK r x).prec = c.prec := by unfold Context.writeK; split <;> rfl
@[simp] theorem Context.writeK_cause (c : Context) (r : BitVec 3) (x : Mask) : (c.writeK r x).cause = c.cause := by unfold Context.writeK; split <;> rfl
@[simp] theorem Context.writeK_faddr (c : Context) (r : BitVec 3) (x : Mask) : (c.writeK r x).faddr = c.faddr := by unfold Context.writeK; split <;> rfl
@[simp] theorem Context.writeK_epc (c : Context) (r : BitVec 3) (x : Mask) : (c.writeK r x).epc = c.epc := by unfold Context.writeK; split <;> rfl
@[simp] theorem Context.writeK_ctxid (c : Context) (r : BitVec 3) (x : Mask) : (c.writeK r x).ctxid = c.ctxid := by unfold Context.writeK; split <;> rfl
@[simp] theorem Context.writeK_tvec (c : Context) (r : BitVec 3) (x : Mask) : (c.writeK r x).tvec = c.tvec := by unfold Context.writeK; split <;> rfl
@[simp] theorem Context.writeK_rseed (c : Context) (r : BitVec 3) (x : Mask) : (c.writeK r x).rseed = c.rseed := by unfold Context.writeK; split <;> rfl
@[simp] theorem Context.writeK_pladder (c : Context) (r : BitVec 3) (x : Mask) : (c.writeK r x).pladder = c.pladder := by unfold Context.writeK; split <;> rfl
@[simp] theorem Context.writeK_pbudget (c : Context) (r : BitVec 3) (x : Mask) : (c.writeK r x).pbudget = c.pbudget := by unfold Context.writeK; split <;> rfl
@[simp] theorem Context.writeK_gen (c : Context) (r : BitVec 3) (x : Mask) : (c.writeK r x).gen = c.gen := by unfold Context.writeK; split <;> rfl
@[simp] theorem Context.writeK_seq (c : Context) (r : BitVec 3) (x : Mask) : (c.writeK r x).seq = c.seq := by unfold Context.writeK; split <;> rfl
@[simp] theorem Context.writeK_cseq (c : Context) (r : BitVec 3) (x : Mask) : (c.writeK r x).cseq = c.cseq := by unfold Context.writeK; split <;> rfl
@[simp] theorem Context.writeK_awaits (c : Context) (r : BitVec 3) (x : Mask) : (c.writeK r x).awaits = c.awaits := by unfold Context.writeK; split <;> rfl
@[simp] theorem Context.writeK_bound (c : Context) (r : BitVec 3) (x : Mask) : (c.writeK r x).bound = c.bound := by unfold Context.writeK; split <;> rfl
@[simp] theorem Context.writeK_handlers (c : Context) (r : BitVec 3) (x : Mask) : (c.writeK r x).handlers = c.handlers := by unfold Context.writeK; split <;> rfl
@[simp] theorem Context.writeK_window (c : Context) (r : BitVec 3) (x : Mask) : (c.writeK r x).window = c.window := by unfold Context.writeK; split <;> rfl
@[simp] theorem Context.writeK_saveBase (c : Context) (r : BitVec 3) (x : Mask) : (c.writeK r x).saveBase = c.saveBase := by unfold Context.writeK; split <;> rfl
@[simp] theorem Context.writeK_inPort (c : Context) (r : BitVec 3) (x : Mask) : (c.writeK r x).inPort = c.inPort := by unfold Context.writeK; split <;> rfl
@[simp] theorem Context.writeK_outPort (c : Context) (r : BitVec 3) (x : Mask) : (c.writeK r x).outPort = c.outPort := by unfold Context.writeK; split <;> rfl
@[simp] theorem Context.writeK_firing (c : Context) (r : BitVec 3) (x : Mask) : (c.writeK r x).firing = c.firing := by unfold Context.writeK; split <;> rfl
@[simp] theorem Context.writeK_endFiring (c : Context) (r : BitVec 3) (x : Mask) : (c.writeK r x).endFiring = c.endFiring := by unfold Context.writeK; split <;> rfl
@[simp] theorem Context.writeK_consRem (c : Context) (r : BitVec 3) (x : Mask) : (c.writeK r x).consRem = c.consRem := by unfold Context.writeK; split <;> rfl
@[simp] theorem Context.writeK_prodRem (c : Context) (r : BitVec 3) (x : Mask) : (c.writeK r x).prodRem = c.prodRem := by unfold Context.writeK; split <;> rfl
@[simp] theorem Context.writeK_handler (c : Context) (r : BitVec 3) (x : Mask) : (c.writeK r x).handler = c.handler := by unfold Context.writeK; split <;> rfl
@[simp] theorem Context.writeK_word (c : Context) (r : BitVec 3) (x : Mask) : (c.writeK r x).word = c.word := by unfold Context.writeK; split <;> rfl
@[simp] theorem Context.writeK_chain (c : Context) (r : BitVec 3) (x : Mask) : (c.writeK r x).chain = c.chain := by unfold Context.writeK; split <;> rfl
@[simp] theorem Context.writeK_park (c : Context) (r : BitVec 3) (x : Mask) : (c.writeK r x).park = c.park := by unfold Context.writeK; split <;> rfl
@[simp] theorem Context.writeK_stopped (c : Context) (r : BitVec 3) (x : Mask) : (c.writeK r x).stopped = c.stopped := by unfold Context.writeK; split <;> rfl
@[simp] theorem Context.writeK_saved (c : Context) (r : BitVec 3) (x : Mask) : (c.writeK r x).saved = c.saved := by unfold Context.writeK; split <;> rfl
@[simp] theorem Context.writeK_framed (c : Context) (r : BitVec 3) (x : Mask) : (c.writeK r x).framed = c.framed := by unfold Context.writeK; split <;> rfl
@[simp] theorem Context.writeK_frameSeed (c : Context) (r : BitVec 3) (x : Mask) : (c.writeK r x).frameSeed = c.frameSeed := by unfold Context.writeK; split <;> rfl
@[simp] theorem Context.writeK_invocations (c : Context) (r : BitVec 3) (x : Mask) : (c.writeK r x).invocations = c.invocations := by unfold Context.writeK; split <;> rfl
@[simp] theorem Context.writeK_walked (c : Context) (r : BitVec 3) (x : Mask) : (c.writeK r x).walked = c.walked := by unfold Context.writeK; split <;> rfl
@[simp] theorem Context.writeK_sourceFired (c : Context) (r : BitVec 3) (x : Mask) : (c.writeK r x).sourceFired = c.sourceFired := by unfold Context.writeK; split <;> rfl
@[simp] theorem Context.writeK_firedAt (c : Context) (r : BitVec 3) (x : Mask) : (c.writeK r x).firedAt = c.firedAt := by unfold Context.writeK; split <;> rfl

/-! ### `writeV` -/

@[simp] theorem Context.writeV_s (c : Context) (r : Reg) (x : Lanes) : (c.writeV r x).s = c.s := rfl
@[simp] theorem Context.writeV_full (c : Context) (r : Reg) (x : Lanes) : (c.writeV r x).full = c.full := rfl
@[simp] theorem Context.writeV_k (c : Context) (r : Reg) (x : Lanes) : (c.writeV r x).k = c.k := rfl
@[simp] theorem Context.writeV_f (c : Context) (r : Reg) (x : Lanes) : (c.writeV r x).f = c.f := rfl
@[simp] theorem Context.writeV_e (c : Context) (r : Reg) (x : Lanes) : (c.writeV r x).e = c.e := rfl
@[simp] theorem Context.writeV_status (c : Context) (r : Reg) (x : Lanes) : (c.writeV r x).status = c.status := rfl
@[simp] theorem Context.writeV_prec (c : Context) (r : Reg) (x : Lanes) : (c.writeV r x).prec = c.prec := rfl
@[simp] theorem Context.writeV_cause (c : Context) (r : Reg) (x : Lanes) : (c.writeV r x).cause = c.cause := rfl
@[simp] theorem Context.writeV_faddr (c : Context) (r : Reg) (x : Lanes) : (c.writeV r x).faddr = c.faddr := rfl
@[simp] theorem Context.writeV_epc (c : Context) (r : Reg) (x : Lanes) : (c.writeV r x).epc = c.epc := rfl
@[simp] theorem Context.writeV_ctxid (c : Context) (r : Reg) (x : Lanes) : (c.writeV r x).ctxid = c.ctxid := rfl
@[simp] theorem Context.writeV_tvec (c : Context) (r : Reg) (x : Lanes) : (c.writeV r x).tvec = c.tvec := rfl
@[simp] theorem Context.writeV_rseed (c : Context) (r : Reg) (x : Lanes) : (c.writeV r x).rseed = c.rseed := rfl
@[simp] theorem Context.writeV_pladder (c : Context) (r : Reg) (x : Lanes) : (c.writeV r x).pladder = c.pladder := rfl
@[simp] theorem Context.writeV_pbudget (c : Context) (r : Reg) (x : Lanes) : (c.writeV r x).pbudget = c.pbudget := rfl
@[simp] theorem Context.writeV_gen (c : Context) (r : Reg) (x : Lanes) : (c.writeV r x).gen = c.gen := rfl
@[simp] theorem Context.writeV_seq (c : Context) (r : Reg) (x : Lanes) : (c.writeV r x).seq = c.seq := rfl
@[simp] theorem Context.writeV_cseq (c : Context) (r : Reg) (x : Lanes) : (c.writeV r x).cseq = c.cseq := rfl
@[simp] theorem Context.writeV_awaits (c : Context) (r : Reg) (x : Lanes) : (c.writeV r x).awaits = c.awaits := rfl
@[simp] theorem Context.writeV_bound (c : Context) (r : Reg) (x : Lanes) : (c.writeV r x).bound = c.bound := rfl
@[simp] theorem Context.writeV_handlers (c : Context) (r : Reg) (x : Lanes) : (c.writeV r x).handlers = c.handlers := rfl
@[simp] theorem Context.writeV_window (c : Context) (r : Reg) (x : Lanes) : (c.writeV r x).window = c.window := rfl
@[simp] theorem Context.writeV_saveBase (c : Context) (r : Reg) (x : Lanes) : (c.writeV r x).saveBase = c.saveBase := rfl
@[simp] theorem Context.writeV_inPort (c : Context) (r : Reg) (x : Lanes) : (c.writeV r x).inPort = c.inPort := rfl
@[simp] theorem Context.writeV_outPort (c : Context) (r : Reg) (x : Lanes) : (c.writeV r x).outPort = c.outPort := rfl
@[simp] theorem Context.writeV_firing (c : Context) (r : Reg) (x : Lanes) : (c.writeV r x).firing = c.firing := rfl
@[simp] theorem Context.writeV_endFiring (c : Context) (r : Reg) (x : Lanes) : (c.writeV r x).endFiring = c.endFiring := rfl
@[simp] theorem Context.writeV_consRem (c : Context) (r : Reg) (x : Lanes) : (c.writeV r x).consRem = c.consRem := rfl
@[simp] theorem Context.writeV_prodRem (c : Context) (r : Reg) (x : Lanes) : (c.writeV r x).prodRem = c.prodRem := rfl
@[simp] theorem Context.writeV_handler (c : Context) (r : Reg) (x : Lanes) : (c.writeV r x).handler = c.handler := rfl
@[simp] theorem Context.writeV_word (c : Context) (r : Reg) (x : Lanes) : (c.writeV r x).word = c.word := rfl
@[simp] theorem Context.writeV_chain (c : Context) (r : Reg) (x : Lanes) : (c.writeV r x).chain = c.chain := rfl
@[simp] theorem Context.writeV_park (c : Context) (r : Reg) (x : Lanes) : (c.writeV r x).park = c.park := rfl
@[simp] theorem Context.writeV_stopped (c : Context) (r : Reg) (x : Lanes) : (c.writeV r x).stopped = c.stopped := rfl
@[simp] theorem Context.writeV_saved (c : Context) (r : Reg) (x : Lanes) : (c.writeV r x).saved = c.saved := rfl
@[simp] theorem Context.writeV_framed (c : Context) (r : Reg) (x : Lanes) : (c.writeV r x).framed = c.framed := rfl
@[simp] theorem Context.writeV_frameSeed (c : Context) (r : Reg) (x : Lanes) : (c.writeV r x).frameSeed = c.frameSeed := rfl
@[simp] theorem Context.writeV_invocations (c : Context) (r : Reg) (x : Lanes) : (c.writeV r x).invocations = c.invocations := rfl
@[simp] theorem Context.writeV_walked (c : Context) (r : Reg) (x : Lanes) : (c.writeV r x).walked = c.walked := rfl
@[simp] theorem Context.writeV_sourceFired (c : Context) (r : Reg) (x : Lanes) : (c.writeV r x).sourceFired = c.sourceFired := rfl
@[simp] theorem Context.writeV_firedAt (c : Context) (r : Reg) (x : Lanes) : (c.writeV r x).firedAt = c.firedAt := rfl

/-! ### `writeF` -/

@[simp] theorem Context.writeF_s (c : Context) (r : Reg) (x : BitVec 32) : (c.writeF r x).s = c.s := rfl
@[simp] theorem Context.writeF_full (c : Context) (r : Reg) (x : BitVec 32) : (c.writeF r x).full = c.full := rfl
@[simp] theorem Context.writeF_v (c : Context) (r : Reg) (x : BitVec 32) : (c.writeF r x).v = c.v := rfl
@[simp] theorem Context.writeF_k (c : Context) (r : Reg) (x : BitVec 32) : (c.writeF r x).k = c.k := rfl
@[simp] theorem Context.writeF_e (c : Context) (r : Reg) (x : BitVec 32) : (c.writeF r x).e = c.e := rfl
@[simp] theorem Context.writeF_status (c : Context) (r : Reg) (x : BitVec 32) : (c.writeF r x).status = c.status := rfl
@[simp] theorem Context.writeF_prec (c : Context) (r : Reg) (x : BitVec 32) : (c.writeF r x).prec = c.prec := rfl
@[simp] theorem Context.writeF_cause (c : Context) (r : Reg) (x : BitVec 32) : (c.writeF r x).cause = c.cause := rfl
@[simp] theorem Context.writeF_faddr (c : Context) (r : Reg) (x : BitVec 32) : (c.writeF r x).faddr = c.faddr := rfl
@[simp] theorem Context.writeF_epc (c : Context) (r : Reg) (x : BitVec 32) : (c.writeF r x).epc = c.epc := rfl
@[simp] theorem Context.writeF_ctxid (c : Context) (r : Reg) (x : BitVec 32) : (c.writeF r x).ctxid = c.ctxid := rfl
@[simp] theorem Context.writeF_tvec (c : Context) (r : Reg) (x : BitVec 32) : (c.writeF r x).tvec = c.tvec := rfl
@[simp] theorem Context.writeF_rseed (c : Context) (r : Reg) (x : BitVec 32) : (c.writeF r x).rseed = c.rseed := rfl
@[simp] theorem Context.writeF_pladder (c : Context) (r : Reg) (x : BitVec 32) : (c.writeF r x).pladder = c.pladder := rfl
@[simp] theorem Context.writeF_pbudget (c : Context) (r : Reg) (x : BitVec 32) : (c.writeF r x).pbudget = c.pbudget := rfl
@[simp] theorem Context.writeF_gen (c : Context) (r : Reg) (x : BitVec 32) : (c.writeF r x).gen = c.gen := rfl
@[simp] theorem Context.writeF_seq (c : Context) (r : Reg) (x : BitVec 32) : (c.writeF r x).seq = c.seq := rfl
@[simp] theorem Context.writeF_cseq (c : Context) (r : Reg) (x : BitVec 32) : (c.writeF r x).cseq = c.cseq := rfl
@[simp] theorem Context.writeF_awaits (c : Context) (r : Reg) (x : BitVec 32) : (c.writeF r x).awaits = c.awaits := rfl
@[simp] theorem Context.writeF_bound (c : Context) (r : Reg) (x : BitVec 32) : (c.writeF r x).bound = c.bound := rfl
@[simp] theorem Context.writeF_handlers (c : Context) (r : Reg) (x : BitVec 32) : (c.writeF r x).handlers = c.handlers := rfl
@[simp] theorem Context.writeF_window (c : Context) (r : Reg) (x : BitVec 32) : (c.writeF r x).window = c.window := rfl
@[simp] theorem Context.writeF_saveBase (c : Context) (r : Reg) (x : BitVec 32) : (c.writeF r x).saveBase = c.saveBase := rfl
@[simp] theorem Context.writeF_inPort (c : Context) (r : Reg) (x : BitVec 32) : (c.writeF r x).inPort = c.inPort := rfl
@[simp] theorem Context.writeF_outPort (c : Context) (r : Reg) (x : BitVec 32) : (c.writeF r x).outPort = c.outPort := rfl
@[simp] theorem Context.writeF_firing (c : Context) (r : Reg) (x : BitVec 32) : (c.writeF r x).firing = c.firing := rfl
@[simp] theorem Context.writeF_endFiring (c : Context) (r : Reg) (x : BitVec 32) : (c.writeF r x).endFiring = c.endFiring := rfl
@[simp] theorem Context.writeF_consRem (c : Context) (r : Reg) (x : BitVec 32) : (c.writeF r x).consRem = c.consRem := rfl
@[simp] theorem Context.writeF_prodRem (c : Context) (r : Reg) (x : BitVec 32) : (c.writeF r x).prodRem = c.prodRem := rfl
@[simp] theorem Context.writeF_handler (c : Context) (r : Reg) (x : BitVec 32) : (c.writeF r x).handler = c.handler := rfl
@[simp] theorem Context.writeF_word (c : Context) (r : Reg) (x : BitVec 32) : (c.writeF r x).word = c.word := rfl
@[simp] theorem Context.writeF_chain (c : Context) (r : Reg) (x : BitVec 32) : (c.writeF r x).chain = c.chain := rfl
@[simp] theorem Context.writeF_park (c : Context) (r : Reg) (x : BitVec 32) : (c.writeF r x).park = c.park := rfl
@[simp] theorem Context.writeF_stopped (c : Context) (r : Reg) (x : BitVec 32) : (c.writeF r x).stopped = c.stopped := rfl
@[simp] theorem Context.writeF_saved (c : Context) (r : Reg) (x : BitVec 32) : (c.writeF r x).saved = c.saved := rfl
@[simp] theorem Context.writeF_framed (c : Context) (r : Reg) (x : BitVec 32) : (c.writeF r x).framed = c.framed := rfl
@[simp] theorem Context.writeF_frameSeed (c : Context) (r : Reg) (x : BitVec 32) : (c.writeF r x).frameSeed = c.frameSeed := rfl
@[simp] theorem Context.writeF_invocations (c : Context) (r : Reg) (x : BitVec 32) : (c.writeF r x).invocations = c.invocations := rfl
@[simp] theorem Context.writeF_walked (c : Context) (r : Reg) (x : BitVec 32) : (c.writeF r x).walked = c.walked := rfl
@[simp] theorem Context.writeF_sourceFired (c : Context) (r : Reg) (x : BitVec 32) : (c.writeF r x).sourceFired = c.sourceFired := rfl
@[simp] theorem Context.writeF_firedAt (c : Context) (r : Reg) (x : BitVec 32) : (c.writeF r x).firedAt = c.firedAt := rfl

/-! ### `writeE` -/

@[simp] theorem Context.writeE_s (c : Context) (r : Reg) (x : Ereg) : (c.writeE r x).s = c.s := rfl
@[simp] theorem Context.writeE_full (c : Context) (r : Reg) (x : Ereg) : (c.writeE r x).full = c.full := rfl
@[simp] theorem Context.writeE_v (c : Context) (r : Reg) (x : Ereg) : (c.writeE r x).v = c.v := rfl
@[simp] theorem Context.writeE_k (c : Context) (r : Reg) (x : Ereg) : (c.writeE r x).k = c.k := rfl
@[simp] theorem Context.writeE_f (c : Context) (r : Reg) (x : Ereg) : (c.writeE r x).f = c.f := rfl
@[simp] theorem Context.writeE_status (c : Context) (r : Reg) (x : Ereg) : (c.writeE r x).status = c.status := rfl
@[simp] theorem Context.writeE_prec (c : Context) (r : Reg) (x : Ereg) : (c.writeE r x).prec = c.prec := rfl
@[simp] theorem Context.writeE_cause (c : Context) (r : Reg) (x : Ereg) : (c.writeE r x).cause = c.cause := rfl
@[simp] theorem Context.writeE_faddr (c : Context) (r : Reg) (x : Ereg) : (c.writeE r x).faddr = c.faddr := rfl
@[simp] theorem Context.writeE_epc (c : Context) (r : Reg) (x : Ereg) : (c.writeE r x).epc = c.epc := rfl
@[simp] theorem Context.writeE_ctxid (c : Context) (r : Reg) (x : Ereg) : (c.writeE r x).ctxid = c.ctxid := rfl
@[simp] theorem Context.writeE_tvec (c : Context) (r : Reg) (x : Ereg) : (c.writeE r x).tvec = c.tvec := rfl
@[simp] theorem Context.writeE_rseed (c : Context) (r : Reg) (x : Ereg) : (c.writeE r x).rseed = c.rseed := rfl
@[simp] theorem Context.writeE_pladder (c : Context) (r : Reg) (x : Ereg) : (c.writeE r x).pladder = c.pladder := rfl
@[simp] theorem Context.writeE_pbudget (c : Context) (r : Reg) (x : Ereg) : (c.writeE r x).pbudget = c.pbudget := rfl
@[simp] theorem Context.writeE_gen (c : Context) (r : Reg) (x : Ereg) : (c.writeE r x).gen = c.gen := rfl
@[simp] theorem Context.writeE_seq (c : Context) (r : Reg) (x : Ereg) : (c.writeE r x).seq = c.seq := rfl
@[simp] theorem Context.writeE_cseq (c : Context) (r : Reg) (x : Ereg) : (c.writeE r x).cseq = c.cseq := rfl
@[simp] theorem Context.writeE_awaits (c : Context) (r : Reg) (x : Ereg) : (c.writeE r x).awaits = c.awaits := rfl
@[simp] theorem Context.writeE_bound (c : Context) (r : Reg) (x : Ereg) : (c.writeE r x).bound = c.bound := rfl
@[simp] theorem Context.writeE_handlers (c : Context) (r : Reg) (x : Ereg) : (c.writeE r x).handlers = c.handlers := rfl
@[simp] theorem Context.writeE_window (c : Context) (r : Reg) (x : Ereg) : (c.writeE r x).window = c.window := rfl
@[simp] theorem Context.writeE_saveBase (c : Context) (r : Reg) (x : Ereg) : (c.writeE r x).saveBase = c.saveBase := rfl
@[simp] theorem Context.writeE_inPort (c : Context) (r : Reg) (x : Ereg) : (c.writeE r x).inPort = c.inPort := rfl
@[simp] theorem Context.writeE_outPort (c : Context) (r : Reg) (x : Ereg) : (c.writeE r x).outPort = c.outPort := rfl
@[simp] theorem Context.writeE_firing (c : Context) (r : Reg) (x : Ereg) : (c.writeE r x).firing = c.firing := rfl
@[simp] theorem Context.writeE_endFiring (c : Context) (r : Reg) (x : Ereg) : (c.writeE r x).endFiring = c.endFiring := rfl
@[simp] theorem Context.writeE_consRem (c : Context) (r : Reg) (x : Ereg) : (c.writeE r x).consRem = c.consRem := rfl
@[simp] theorem Context.writeE_prodRem (c : Context) (r : Reg) (x : Ereg) : (c.writeE r x).prodRem = c.prodRem := rfl
@[simp] theorem Context.writeE_handler (c : Context) (r : Reg) (x : Ereg) : (c.writeE r x).handler = c.handler := rfl
@[simp] theorem Context.writeE_word (c : Context) (r : Reg) (x : Ereg) : (c.writeE r x).word = c.word := rfl
@[simp] theorem Context.writeE_chain (c : Context) (r : Reg) (x : Ereg) : (c.writeE r x).chain = c.chain := rfl
@[simp] theorem Context.writeE_park (c : Context) (r : Reg) (x : Ereg) : (c.writeE r x).park = c.park := rfl
@[simp] theorem Context.writeE_stopped (c : Context) (r : Reg) (x : Ereg) : (c.writeE r x).stopped = c.stopped := rfl
@[simp] theorem Context.writeE_saved (c : Context) (r : Reg) (x : Ereg) : (c.writeE r x).saved = c.saved := rfl
@[simp] theorem Context.writeE_framed (c : Context) (r : Reg) (x : Ereg) : (c.writeE r x).framed = c.framed := rfl
@[simp] theorem Context.writeE_frameSeed (c : Context) (r : Reg) (x : Ereg) : (c.writeE r x).frameSeed = c.frameSeed := rfl
@[simp] theorem Context.writeE_invocations (c : Context) (r : Reg) (x : Ereg) : (c.writeE r x).invocations = c.invocations := rfl
@[simp] theorem Context.writeE_walked (c : Context) (r : Reg) (x : Ereg) : (c.writeE r x).walked = c.walked := rfl
@[simp] theorem Context.writeE_sourceFired (c : Context) (r : Reg) (x : Ereg) : (c.writeE r x).sourceFired = c.sourceFired := rfl
@[simp] theorem Context.writeE_firedAt (c : Context) (r : Reg) (x : Ereg) : (c.writeE r x).firedAt = c.firedAt := rfl

/-! ### `orFlags` -/

@[simp] theorem Context.orFlags_s (c : Context) (f : BitVec 4) : (c.orFlags f).s = c.s := rfl
@[simp] theorem Context.orFlags_full (c : Context) (f : BitVec 4) : (c.orFlags f).full = c.full := rfl
@[simp] theorem Context.orFlags_v (c : Context) (f : BitVec 4) : (c.orFlags f).v = c.v := rfl
@[simp] theorem Context.orFlags_k (c : Context) (f : BitVec 4) : (c.orFlags f).k = c.k := rfl
@[simp] theorem Context.orFlags_f (c : Context) (f : BitVec 4) : (c.orFlags f).f = c.f := rfl
@[simp] theorem Context.orFlags_e (c : Context) (f : BitVec 4) : (c.orFlags f).e = c.e := rfl
@[simp] theorem Context.orFlags_status (c : Context) (f : BitVec 4) : (c.orFlags f).status = c.status := rfl
@[simp] theorem Context.orFlags_cause (c : Context) (f : BitVec 4) : (c.orFlags f).cause = c.cause := rfl
@[simp] theorem Context.orFlags_faddr (c : Context) (f : BitVec 4) : (c.orFlags f).faddr = c.faddr := rfl
@[simp] theorem Context.orFlags_epc (c : Context) (f : BitVec 4) : (c.orFlags f).epc = c.epc := rfl
@[simp] theorem Context.orFlags_ctxid (c : Context) (f : BitVec 4) : (c.orFlags f).ctxid = c.ctxid := rfl
@[simp] theorem Context.orFlags_tvec (c : Context) (f : BitVec 4) : (c.orFlags f).tvec = c.tvec := rfl
@[simp] theorem Context.orFlags_rseed (c : Context) (f : BitVec 4) : (c.orFlags f).rseed = c.rseed := rfl
@[simp] theorem Context.orFlags_pladder (c : Context) (f : BitVec 4) : (c.orFlags f).pladder = c.pladder := rfl
@[simp] theorem Context.orFlags_pbudget (c : Context) (f : BitVec 4) : (c.orFlags f).pbudget = c.pbudget := rfl
@[simp] theorem Context.orFlags_gen (c : Context) (f : BitVec 4) : (c.orFlags f).gen = c.gen := rfl
@[simp] theorem Context.orFlags_seq (c : Context) (f : BitVec 4) : (c.orFlags f).seq = c.seq := rfl
@[simp] theorem Context.orFlags_cseq (c : Context) (f : BitVec 4) : (c.orFlags f).cseq = c.cseq := rfl
@[simp] theorem Context.orFlags_awaits (c : Context) (f : BitVec 4) : (c.orFlags f).awaits = c.awaits := rfl
@[simp] theorem Context.orFlags_bound (c : Context) (f : BitVec 4) : (c.orFlags f).bound = c.bound := rfl
@[simp] theorem Context.orFlags_handlers (c : Context) (f : BitVec 4) : (c.orFlags f).handlers = c.handlers := rfl
@[simp] theorem Context.orFlags_window (c : Context) (f : BitVec 4) : (c.orFlags f).window = c.window := rfl
@[simp] theorem Context.orFlags_saveBase (c : Context) (f : BitVec 4) : (c.orFlags f).saveBase = c.saveBase := rfl
@[simp] theorem Context.orFlags_inPort (c : Context) (f : BitVec 4) : (c.orFlags f).inPort = c.inPort := rfl
@[simp] theorem Context.orFlags_outPort (c : Context) (f : BitVec 4) : (c.orFlags f).outPort = c.outPort := rfl
@[simp] theorem Context.orFlags_firing (c : Context) (f : BitVec 4) : (c.orFlags f).firing = c.firing := rfl
@[simp] theorem Context.orFlags_endFiring (c : Context) (f : BitVec 4) : (c.orFlags f).endFiring = c.endFiring := rfl
@[simp] theorem Context.orFlags_consRem (c : Context) (f : BitVec 4) : (c.orFlags f).consRem = c.consRem := rfl
@[simp] theorem Context.orFlags_prodRem (c : Context) (f : BitVec 4) : (c.orFlags f).prodRem = c.prodRem := rfl
@[simp] theorem Context.orFlags_handler (c : Context) (f : BitVec 4) : (c.orFlags f).handler = c.handler := rfl
@[simp] theorem Context.orFlags_word (c : Context) (f : BitVec 4) : (c.orFlags f).word = c.word := rfl
@[simp] theorem Context.orFlags_chain (c : Context) (f : BitVec 4) : (c.orFlags f).chain = c.chain := rfl
@[simp] theorem Context.orFlags_park (c : Context) (f : BitVec 4) : (c.orFlags f).park = c.park := rfl
@[simp] theorem Context.orFlags_stopped (c : Context) (f : BitVec 4) : (c.orFlags f).stopped = c.stopped := rfl
@[simp] theorem Context.orFlags_saved (c : Context) (f : BitVec 4) : (c.orFlags f).saved = c.saved := rfl
@[simp] theorem Context.orFlags_framed (c : Context) (f : BitVec 4) : (c.orFlags f).framed = c.framed := rfl
@[simp] theorem Context.orFlags_frameSeed (c : Context) (f : BitVec 4) : (c.orFlags f).frameSeed = c.frameSeed := rfl
@[simp] theorem Context.orFlags_invocations (c : Context) (f : BitVec 4) : (c.orFlags f).invocations = c.invocations := rfl
@[simp] theorem Context.orFlags_walked (c : Context) (f : BitVec 4) : (c.orFlags f).walked = c.walked := rfl
@[simp] theorem Context.orFlags_sourceFired (c : Context) (f : BitVec 4) : (c.orFlags f).sourceFired = c.sourceFired := rfl
@[simp] theorem Context.orFlags_firedAt (c : Context) (f : BitVec 4) : (c.orFlags f).firedAt = c.firedAt := rfl

/-! ### `advance` -/

@[simp] theorem Context.advance_s (c : Context) : (c.advance).s = c.s := rfl
@[simp] theorem Context.advance_full (c : Context) : (c.advance).full = c.full := rfl
@[simp] theorem Context.advance_v (c : Context) : (c.advance).v = c.v := rfl
@[simp] theorem Context.advance_k (c : Context) : (c.advance).k = c.k := rfl
@[simp] theorem Context.advance_f (c : Context) : (c.advance).f = c.f := rfl
@[simp] theorem Context.advance_e (c : Context) : (c.advance).e = c.e := rfl
@[simp] theorem Context.advance_status (c : Context) : (c.advance).status = c.status := rfl
@[simp] theorem Context.advance_prec (c : Context) : (c.advance).prec = c.prec := rfl
@[simp] theorem Context.advance_cause (c : Context) : (c.advance).cause = c.cause := rfl
@[simp] theorem Context.advance_faddr (c : Context) : (c.advance).faddr = c.faddr := rfl
@[simp] theorem Context.advance_epc (c : Context) : (c.advance).epc = c.epc := rfl
@[simp] theorem Context.advance_ctxid (c : Context) : (c.advance).ctxid = c.ctxid := rfl
@[simp] theorem Context.advance_tvec (c : Context) : (c.advance).tvec = c.tvec := rfl
@[simp] theorem Context.advance_rseed (c : Context) : (c.advance).rseed = c.rseed := rfl
@[simp] theorem Context.advance_pladder (c : Context) : (c.advance).pladder = c.pladder := rfl
@[simp] theorem Context.advance_pbudget (c : Context) : (c.advance).pbudget = c.pbudget := rfl
@[simp] theorem Context.advance_gen (c : Context) : (c.advance).gen = c.gen := rfl
@[simp] theorem Context.advance_seq (c : Context) : (c.advance).seq = c.seq := rfl
@[simp] theorem Context.advance_cseq (c : Context) : (c.advance).cseq = c.cseq := rfl
@[simp] theorem Context.advance_awaits (c : Context) : (c.advance).awaits = c.awaits := rfl
@[simp] theorem Context.advance_bound (c : Context) : (c.advance).bound = c.bound := rfl
@[simp] theorem Context.advance_handlers (c : Context) : (c.advance).handlers = c.handlers := rfl
@[simp] theorem Context.advance_window (c : Context) : (c.advance).window = c.window := rfl
@[simp] theorem Context.advance_saveBase (c : Context) : (c.advance).saveBase = c.saveBase := rfl
@[simp] theorem Context.advance_inPort (c : Context) : (c.advance).inPort = c.inPort := rfl
@[simp] theorem Context.advance_outPort (c : Context) : (c.advance).outPort = c.outPort := rfl
@[simp] theorem Context.advance_firing (c : Context) : (c.advance).firing = c.firing := rfl
@[simp] theorem Context.advance_endFiring (c : Context) : (c.advance).endFiring = c.endFiring := rfl
@[simp] theorem Context.advance_consRem (c : Context) : (c.advance).consRem = c.consRem := rfl
@[simp] theorem Context.advance_prodRem (c : Context) : (c.advance).prodRem = c.prodRem := rfl
@[simp] theorem Context.advance_handler (c : Context) : (c.advance).handler = c.handler := rfl
@[simp] theorem Context.advance_park (c : Context) : (c.advance).park = c.park := rfl
@[simp] theorem Context.advance_stopped (c : Context) : (c.advance).stopped = c.stopped := rfl
@[simp] theorem Context.advance_saved (c : Context) : (c.advance).saved = c.saved := rfl
@[simp] theorem Context.advance_framed (c : Context) : (c.advance).framed = c.framed := rfl
@[simp] theorem Context.advance_frameSeed (c : Context) : (c.advance).frameSeed = c.frameSeed := rfl
@[simp] theorem Context.advance_invocations (c : Context) : (c.advance).invocations = c.invocations := rfl
@[simp] theorem Context.advance_walked (c : Context) : (c.advance).walked = c.walked := rfl
@[simp] theorem Context.advance_sourceFired (c : Context) : (c.advance).sourceFired = c.sourceFired := rfl
@[simp] theorem Context.advance_firedAt (c : Context) : (c.advance).firedAt = c.firedAt := rfl

end Sys2Proof.Machine
end

