-- ==== Sys2Proof/Laws/Ops.lean ====
section
/-!
SUPPORT. Sys2Proof/Laws/Ops.lean: what each shared operation does, said once: banks of registers, contexts of cores,
empty sources, pool checks, traps.
-/

namespace Sys2Proof

@[simp] theorem getV_setV_same {α : Type} {n m : Nat} (v : Vector α m) (r : BitVec n) (x : α) (h : 2 ^ n ≤ m) :
    getV (setV v r x h) r h = x := by
  simp [getV, setV]

theorem getV_setV_other {α : Type} {n m : Nat} (v : Vector α m) {r q : BitVec n} (x : α) (h : 2 ^ n ≤ m)
    (hq : q ≠ r) : getV (setV v r x h) q h = getV v q h := by
  have : r.toNat ≠ q.toNat := fun e => hq (BitVec.eq_of_toNat_eq e.symm)
  simp [getV, setV, this]

namespace Machine

/-! ## Cores and contexts -/

@[simp] theorem State.core_setCore_same (s : State) (n : Nat) (c : Core) : (s.setCore n c).core n = c := by
  simp [State.core, State.setCore, assocGet_assocSet_same]

theorem State.core_setCore_other (s : State) {n m : Nat} (c : Core) (h : m ≠ n) : (s.setCore n c).core m = s.core m := by
  simp [State.core, State.setCore, assocGet_assocSet_other _ _ h]

@[simp] theorem State.hub_setHub_same (s : State) (n : Nat) (c : Hub) : (s.setHub n c).hub n = c := by
  simp [State.hub, State.setHub, assocGet_assocSet_same]

theorem State.hub_setHub_other (s : State) {n m : Nat} (c : Hub) (h : m ≠ n) : (s.setHub n c).hub m = s.hub m := by
  simp [State.hub, State.setHub, assocGet_assocSet_other _ _ h]

@[simp] theorem State.field_setField_same (s : State) (n : Nat) (c : Field) : (s.setField n c).field n = c := by
  simp [State.field, State.setField, assocGet_assocSet_same]

theorem State.field_setField_other (s : State) {n m : Nat} (c : Field) (h : m ≠ n) :
    (s.setField n c).field m = s.field m := by
  simp [State.field, State.setField, assocGet_assocSet_other _ _ h]

@[simp] theorem State.ctxAt_setCtxAt_same (s : State) (cid : Nat) (n : BitVec 4) (c : Context) :
    (s.setCtxAt cid n c).ctxAt cid n = c := by
  simp [State.ctxAt, State.setCtxAt, State.modCore]

theorem State.ctxAt_setCtxAt_other (s : State) (cid : Nat) {n m : BitVec 4} (c : Context) (h : m ≠ n) :
    (s.setCtxAt cid n c).ctxAt cid m = s.ctxAt cid m := by
  simp [State.ctxAt, State.setCtxAt, State.modCore, getV_setV_other _ _ _ h]

theorem State.ctxAt_setCtxAt_otherCore (s : State) {cid k : Nat} (n m : BitVec 4) (c : Context) (h : k ≠ cid) :
    (s.setCtxAt cid n c).ctxAt k m = s.ctxAt k m := by
  simp [State.ctxAt, State.setCtxAt, State.modCore, State.core_setCore_other _ _ h]

@[simp] theorem State.who_setCtx (s : State) (c : Context) : (s.setCtx c).who = s.who := by
  simp [State.who, State.cur, State.setCtx, State.setCtxAt, State.modCore]

@[simp] theorem State.ctx_setCtx (s : State) (c : Context) : (s.setCtx c).ctx = c := by
  rw [State.ctx, State.who_setCtx]
  exact s.ctxAt_setCtxAt_same s.focus s.who c

@[simp] theorem State.ctx_modCtx (s : State) (f : Context → Context) : (s.modCtx f).ctx = f s.ctx :=
  s.ctx_setCtx _

@[simp] theorem State.ctx_retire (s : State) (f : Context → Context) : (s.retire f).ctx = (f s.ctx).advance :=
  s.ctx_setCtx _

@[simp] theorem State.cur_modCur (s : State) (f : Core → Core) : (s.modCur f).cur = f s.cur :=
  s.core_setCore_same _ _

/-- Another context of the core keeps everything. -/
theorem State.ctxAt_retire_other (s : State) (f : Context → Context) {m : BitVec 4} (h : m ≠ s.who) :
    (s.retire f).ctxAt s.focus m = s.ctxAt s.focus m := s.ctxAt_setCtxAt_other _ _ h

/-- Another core keeps everything. -/
theorem State.core_retire_other (s : State) (f : Context → Context) {k : Nat} (h : k ≠ s.focus) :
    (s.retire f).core k = s.core k := s.core_setCore_other _ h

/-- A byte of memory does not change where memory and the remap tables do not. -/
theorem State.readByte_congr {s t : State} (hm : t.mem = s.mem) (ht : t.tables = s.tables) (a : Nat) :
    t.readByte a = s.readByte a := by
  simp only [State.readByte, State.place, hm, ht]

@[simp] theorem State.readByte_retire (s : State) (f : Context → Context) (a : Nat) :
    (s.retire f).readByte a = s.readByte a := State.readByte_congr rfl rfl a

/-! ## Scalar registers -/

@[simp] theorem Context.readS_zero (c : Context) : c.readS 0 = 0 := rfl

@[simp] theorem Context.writeS_zero (c : Context) (x : Word) : c.writeS 0 x = c := rfl

theorem Context.readS_writeS_same (c : Context) {d : Reg} (x : Word) (h : d ≠ 0) : (c.writeS d x).readS d = x := by
  simp only [Context.readS, Context.writeS, if_neg h, getV_setV_same]

theorem Context.readS_writeS_other (c : Context) {d r : Reg} (x : Word) (h : r ≠ d) :
    (c.writeS d x).readS r = c.readS r := by
  simp only [Context.readS, Context.writeS]
  split
  · rfl
  · split
    · rfl
    · simp [getV_setV_other _ _ _ h]

@[simp] theorem Context.isFull_zero (c : Context) : c.isFull 0 = true := rfl

theorem Context.isFull_writeS_same (c : Context) (d : Reg) (x : Word) : (c.writeS d x).isFull d = true := by
  by_cases h : d = 0
  · subst h; rfl
  · simp only [Context.isFull, Context.writeS, if_neg h, getV_setV_same, Bool.or_true]

theorem Context.isFull_writeS_other (c : Context) {d r : Reg} (x : Word) (h : r ≠ d) :
    (c.writeS d x).isFull r = c.isFull r := by
  simp only [Context.isFull, Context.writeS]
  split
  · rfl
  · simp [getV_setV_other _ _ _ h]

/-! ## Empty sources (R10, R65) -/

theorem firstEmpty_fold (l : List Reg) (acc : Option Reg) :
    l.foldl (fun acc r => match acc with
      | none => some r
      | some q => some (if r < q then r else q)) acc = none ↔ acc = none ∧ l = [] := by
  induction l generalizing acc with
  | nil => simp
  | cons r rest ih =>
    rw [List.foldl_cons, ih]
    cases acc <;> simp

/-- No source is empty exactly where every one is full. -/
theorem Context.firstEmpty_eq_none (c : Context) (rs : List Reg) :
    c.firstEmpty rs = none ↔ ∀ r ∈ rs, c.isFull r = true := by
  refine (firstEmpty_fold (rs.filter fun r => !c.isFull r) none).trans ?_
  simp [List.filter_eq_nil_iff]

theorem firstEmpty_fold_some (l : List Reg) (acc : Option Reg) {r : Reg}
    (h : l.foldl (fun acc r => match acc with
      | none => some r
      | some q => some (if r < q then r else q)) acc = some r) :
    (r ∈ l ∨ acc = some r) ∧ (∀ q ∈ l, r ≤ q) ∧ ∀ q ∈ acc, r ≤ q := by
  induction l generalizing acc with
  | nil => simp_all
  | cons p rest ih =>
    rw [List.foldl_cons] at h
    obtain ⟨h1, h2, h3⟩ := ih _ h
    cases acc with
    | none =>
      simp only [Option.mem_some_iff, forall_eq', Option.some.injEq] at h1 h3
      refine ⟨.inl ?_, ?_, by simp⟩
      · rcases h1 with h1 | h1
        · exact List.mem_cons_of_mem _ h1
        · exact h1 ▸ List.mem_cons_self
      · intro q hq
        rcases List.mem_cons.1 hq with rfl | hq
        · exact h3
        · exact h2 q hq
    | some a =>
      simp only [Option.mem_some_iff, forall_eq', Option.some.injEq] at h1 h3 ⊢
      by_cases hpa : p < a
      · rw [if_pos hpa] at h1 h3
        refine ⟨.inl ?_, ?_, ?_⟩
        · rcases h1 with h1 | h1
          · exact List.mem_cons_of_mem _ h1
          · exact h1 ▸ List.mem_cons_self
        · intro q hq
          rcases List.mem_cons.1 hq with rfl | hq
          · exact h3
          · exact h2 q hq
        · bv_omega
      · rw [if_neg hpa] at h1 h3
        refine ⟨?_, ?_, h3⟩
        · rcases h1 with h1 | h1
          · exact .inl (List.mem_cons_of_mem _ h1)
          · exact .inr h1
        · intro q hq
          rcases List.mem_cons.1 hq with rfl | hq
          · bv_omega
          · exact h2 q hq

/-- The first empty source is an empty source, and none with a lower number is. -/
theorem Context.firstEmpty_eq_some {c : Context} {rs : List Reg} {r : Reg} (h : c.firstEmpty rs = some r) :
    r ∈ rs ∧ c.isFull r = false ∧ ∀ q ∈ rs, c.isFull q = false → r ≤ q := by
  obtain ⟨h1, h2, -⟩ := firstEmpty_fold_some _ _ h
  simp only [reduceCtorEq, or_false, List.mem_filter, Bool.not_eq_eq_eq_not, Bool.not_true] at h1
  exact ⟨h1.1, h1.2, fun q hq he => h2 q (by simp [List.mem_filter, hq, he])⟩

/-- With every source full an instruction goes on. -/
theorem State.onSources_full {s : State} {rs : List Reg} (h : ∀ r ∈ rs, s.ctx.isFull r = true) (w : Bool) (k : State) :
    s.onSources w rs k = k := by
  simp only [State.onSources, (s.ctx.firstEmpty_eq_none rs).2 h]

/-- With an empty source and W = 1 it parks; a stall event is counted (R65, R270). -/
theorem State.onSources_park {s : State} {rs : List Reg} {r : Reg} (h : s.ctx.firstEmpty rs = some r) (k : State) :
    s.onSources true rs k = (s.countMe 0x050).parkAs (.regs rs) := by
  simp only [State.onSources, h, if_true]

/-- With an empty source and W = 0 it takes the empty-operand trap with the lowest empty register (R10, R65). -/
theorem State.onSources_trap {s : State} {rs : List Reg} {r : Reg} (h : s.ctx.firstEmpty rs = some r) (k : State) :
    s.onSources false rs k = s.trap 0x08 (r.setWidth 8) 0 0 := by
  simp only [State.onSources, h, Bool.false_eq_true, if_false]

/-- A scalar instruction with every source full changes its context and goes on. -/
theorem State.scalarOp_full {s : State} {rs : List Reg} (h : ∀ r ∈ rs, s.ctx.isFull r = true) (w : Bool)
    (f : Context → Context) : s.scalarOp w rs f = .next (s.retire f) := by
  rw [State.scalarOp, State.onSources_full h]

/-! ## Pool checks (R23, R61) -/

/-- A permitted access goes on. -/
theorem State.poolChecked_ok {s : State} {addr : Word} {align size : Nat} (ha : addr.toNat % align = 0)
    (hb : s.cur.inScratch addr.toNat size = true) (a : Reg) (k : State) : s.poolChecked a addr align size k = k := by
  simp only [State.poolChecked, ha, hb, ne_eq, not_true_eq_false, if_false, Bool.not_true, Bool.false_eq_true]

/-- A misaligned access traps first. -/
theorem State.poolChecked_misaligned {s : State} {addr : Word} {align : Nat} (ha : addr.toNat % align ≠ 0) (size : Nat)
    (a : Reg) (k : State) : s.poolChecked a addr align size k = s.trap 0x03 (a.setWidth 8) 0 addr := by
  simp only [State.poolChecked, ha, ne_eq, not_false_eq_true, if_true]

/-- An aligned access outside the scratchpad traps. -/
theorem State.poolChecked_bounds {s : State} {addr : Word} {align size : Nat} (ha : addr.toNat % align = 0)
    (hb : s.cur.inScratch addr.toNat size = false) (a : Reg) (k : State) :
    s.poolChecked a addr align size k = s.trap 0x04 (a.setWidth 8) 0 addr := by
  simp only [State.poolChecked, ha, hb, ne_eq, not_true_eq_false, if_false, Bool.not_false, if_true]

/-! ## Traps (R18, R19, R70) -/

/-- A trap inside a trap, or with no valid TVEC, is unhandled. -/
theorem State.takeTrap_unhandled {s : State} {t : TrapCause} (h : (s.ctx.inTrap || !s.ctx.tvec.getLsbD 16) = true) :
    s.takeTrap t = s.unhandled t := by
  simp only [State.takeTrap, h, if_true]

/-- A trap whose handler cannot be entered is unhandled. -/
theorem State.takeTrap_noBlock {s : State} {t : TrapCause} (h : s.trapBlock = none) : s.takeTrap t = s.unhandled t := by
  simp only [State.takeTrap, h, ite_self]

/-- A handled trap leaves memory and everything outside the core as it was. -/
theorem State.takeTrap_cases (s : State) (t : TrapCause) :
    s.takeTrap t = s.unhandled t ∨ ∃ h, s.trapBlock = some h ∧ s.takeTrap t =
      ((s.setCtx { s.ctx with
          cause := t.cause
          faddr := t.addr
          epc := s.epcNow
          status := s.ctx.status ||| 1
          handler := h
          word := 0
          chain := .empty }).countMe 0x040).countMe (0x040 + t.code.toNat) := by
  simp only [State.takeTrap]
  split
  · exact .inl rfl
  · split
    · exact .inl rfl
    · rename_i h e
      exact .inr ⟨h, e, rfl⟩

@[simp] theorem State.takeTrap_mem (s : State) (t : TrapCause) : (s.takeTrap t).mem = s.mem := by
  obtain h | ⟨b, -, h⟩ := s.takeTrap_cases t <;> rw [h] <;> simp

@[simp] theorem State.takeTrap_tables (s : State) (t : TrapCause) : (s.takeTrap t).tables = s.tables := by
  obtain h | ⟨b, -, h⟩ := s.takeTrap_cases t <;> rw [h] <;> simp

@[simp] theorem State.trap_mem (s : State) (c o d : BitVec 8) (a : Word) : (s.trap c o d a).mem = s.mem :=
  s.takeTrap_mem _

@[simp] theorem State.trap_tables (s : State) (c o d : BitVec 8) (a : Word) : (s.trap c o d a).tables = s.tables :=
  s.takeTrap_tables _

/-- Where sources may be empty, memory is that of the instruction or as before. -/
theorem State.onSources_mem {s k : State} (w : Bool) (rs : List Reg) (h : k.mem = s.mem) :
    (s.onSources w rs k).mem = s.mem := by
  simp only [State.onSources]
  split
  · exact h
  · split <;> simp

/-- An instruction over registers leaves memory as it was, whether it goes on, parks or traps. -/
theorem State.scalarOp_mem (s : State) (w : Bool) (rs : List Reg) (f : Context → Context) :
    ∃ t, s.scalarOp w rs f = .next t ∧ t.mem = s.mem :=
  ⟨_, rfl, State.onSources_mem w rs rfl⟩

end Machine

end Sys2Proof
end

