-- ==== Sys2Proof/Laws/PerInstr.lean ====
section
/-!
SUPPORT. Sys2Proof/Laws/PerInstr.lean: the family RoundTrip, one lemma for each constructor of `Instr`: the word of a
well-formed instruction decodes to that instruction, with every operand at every value its field admits.
-/

namespace Sys2Proof.Laws

/-- The four bytes of a word, put together as the decoder does, are the word. -/
theorem word_of_bytes (w : IWord) :
    (w.extractLsb' 24 8 ++ w.extractLsb' 16 8 ++ w.extractLsb' 8 8 ++ w.extractLsb' 0 8 : BitVec 32) = w := by
  apply BitVec.eq_of_toNat_eq
  have := w.isLt
  simp only [BitVec.toNat_append, BitVec.extractLsb'_toNat, Nat.shiftRight_eq_div_pow]
  rw [← Nat.shiftLeft_add_eq_or_of_lt (by omega), ← Nat.shiftLeft_add_eq_or_of_lt (by omega),
    ← Nat.shiftLeft_add_eq_or_of_lt (by omega)]
  simp only [Nat.shiftLeft_eq]
  omega

/-- The decoder reads the little-endian bytes of a word as that word. -/
theorem decode_bytes (w : IWord) (rest : List Byte) :
    decode ([w.extractLsb' 0 8, w.extractLsb' 8 8, w.extractLsb' 16 8, w.extractLsb' 24 8] ++ rest)
      = some (decodeWord w, rest) := by
  simp [decode, word_of_bytes]

/-- A field is the value whose number stands in its bits. -/
theorem bits_eq {w : IWord} {lo len : Nat} {x : BitVec len} (h : w.toNat / 2 ^ lo % 2 ^ len = x.toNat) :
    bitsAt w lo len = x := by
  apply BitVec.eq_of_toNat_eq
  simpa [bitsAt] using h

/-- A flag is the Bool whose number stands in its bit. -/
theorem flag_eq {w : IWord} {lo : Nat} {b : Bool} (h : w.toNat / 2 ^ lo % 2 = b.toNat) : flagAt w lo = b := by
  cases b <;> simp_all [flagAt]

/-- A word whose form is read, whose reserved fields are zero and whose fields are in range decodes to it. -/
theorem decodeWord_of {w : IWord} {i : Instr} (h0 : w.toNat ≠ 0) (hr : decodeRaw w = .ok (i, true))
    (hf : fieldFault i = none) : decodeWord w = .ok i := by
  have h : w ≠ 0 := fun e => h0 (by rw [e]; rfl)
  rw [decodeWord, if_neg h]
  simp [hr, hf]

/-- The word's number, where it fits in 32 bits. -/
theorem encode_toNat {i : Instr} (h : encodeNat i < 2 ^ 32) : (encode i).toNat = encodeNat i := by
  rw [encode, BitVec.toNat_ofNat, Nat.mod_eq_of_lt h]

/-- The word of a well-formed instruction decodes to that instruction. -/
def RoundTrip.Statement (i : Instr) : Prop :=
  i.wellFormed = true → decodeWord (encode i) = .ok i

/-- The round trip from the instruction's number and the decoding of every word with that number. -/
theorem roundTrip_of {i : Instr} (n : Nat) (hn : encodeNat i = n) (hlt : n < 2 ^ 32)
    (h0 : fieldFault i = none → n ≠ 0) (hr : ∀ w : IWord, w.toNat = n → decodeRaw w = .ok (i, true)) :
    RoundTrip.Statement i := by
  intro hw
  have hf : fieldFault i = none := by
    simp only [Instr.wellFormed, Bool.and_eq_true, Option.isNone_iff_eq_none] at hw
    exact hw.2
  have e : (encode i).toNat = n := by rw [encode_toNat (hn ▸ hlt), hn]
  exact decodeWord_of (e ▸ h0 hf) (hr _ e) hf

/-- Words of major 0x00 (R29). -/
theorem decodeRaw_00 {w : IWord} (h : w.toNat / 2 ^ 25 % 128 = 0x00) : decodeRaw w = decMajor00 w := by
  rw [decodeRaw, h]; rfl

/-- Words of major 0x01 (R29). -/
theorem decodeRaw_01 {w : IWord} (h : w.toNat / 2 ^ 25 % 128 = 0x01) : decodeRaw w = decMajor01 w := by
  rw [decodeRaw, h]; rfl

/-- Words of major 0x02 (R29). -/
theorem decodeRaw_02 {w : IWord} (h : w.toNat / 2 ^ 25 % 128 = 0x02) : decodeRaw w = decMajor02 w := by
  rw [decodeRaw, h]; rfl

/-- Words of major 0x03 (R29). -/
theorem decodeRaw_03 {w : IWord} (h : w.toNat / 2 ^ 25 % 128 = 0x03) : decodeRaw w = decMajor03 w := by
  rw [decodeRaw, h]; rfl

/-- Words of major 0x04 (R29). -/
theorem decodeRaw_04 {w : IWord} (h : w.toNat / 2 ^ 25 % 128 = 0x04) : decodeRaw w = decMajor04 w := by
  rw [decodeRaw, h]; rfl

/-- Words of major 0x05 (R29). -/
theorem decodeRaw_05 {w : IWord} (h : w.toNat / 2 ^ 25 % 128 = 0x05) : decodeRaw w = decMajor04 w := by
  rw [decodeRaw, h]; rfl

/-- Words of major 0x06 (R29). -/
theorem decodeRaw_06 {w : IWord} (h : w.toNat / 2 ^ 25 % 128 = 0x06) : decodeRaw w = decMajor06 w := by
  rw [decodeRaw, h]; rfl

/-- Words of major 0x07 (R29). -/
theorem decodeRaw_07 {w : IWord} (h : w.toNat / 2 ^ 25 % 128 = 0x07) : decodeRaw w = decMajor06 w := by
  rw [decodeRaw, h]; rfl

/-- Words of major 0x08 (R29). -/
theorem decodeRaw_08 {w : IWord} (h : w.toNat / 2 ^ 25 % 128 = 0x08) : decodeRaw w = decMajor08 w := by
  rw [decodeRaw, h]; rfl

/-- Words of major 0x09 (R29). -/
theorem decodeRaw_09 {w : IWord} (h : w.toNat / 2 ^ 25 % 128 = 0x09) : decodeRaw w = decMajor08 w := by
  rw [decodeRaw, h]; rfl

/-- Words of major 0x0A (R29). -/
theorem decodeRaw_0A {w : IWord} (h : w.toNat / 2 ^ 25 % 128 = 0x0A) : decodeRaw w = decMajor0A w := by
  rw [decodeRaw, h]; rfl

/-- Words of major 0x0B (R29). -/
theorem decodeRaw_0B {w : IWord} (h : w.toNat / 2 ^ 25 % 128 = 0x0B) : decodeRaw w = decMajor0A w := by
  rw [decodeRaw, h]; rfl

/-- Words of major 0x0C (R29). -/
theorem decodeRaw_0C {w : IWord} (h : w.toNat / 2 ^ 25 % 128 = 0x0C) : decodeRaw w = decMajor0C w := by
  rw [decodeRaw, h]; rfl

/-- Words of major 0x0D (R29). -/
theorem decodeRaw_0D {w : IWord} (h : w.toNat / 2 ^ 25 % 128 = 0x0D) : decodeRaw w = decMajor0C w := by
  rw [decodeRaw, h]; rfl

/-- Words of major 0x0E (R29). -/
theorem decodeRaw_0E {w : IWord} (h : w.toNat / 2 ^ 25 % 128 = 0x0E) : decodeRaw w = decMajor0E w := by
  rw [decodeRaw, h]; rfl

/-- Words of major 0x0F (R29). -/
theorem decodeRaw_0F {w : IWord} (h : w.toNat / 2 ^ 25 % 128 = 0x0F) : decodeRaw w = decMajor0E w := by
  rw [decodeRaw, h]; rfl

/-- Words of major 0x10 (R29). -/
theorem decodeRaw_10 {w : IWord} (h : w.toNat / 2 ^ 25 % 128 = 0x10) : decodeRaw w = decMajor10 w := by
  rw [decodeRaw, h]; rfl

/-- Words of major 0x11 (R29). -/
theorem decodeRaw_11 {w : IWord} (h : w.toNat / 2 ^ 25 % 128 = 0x11) : decodeRaw w = decMajor10 w := by
  rw [decodeRaw, h]; rfl

/-- Words of major 0x12 (R29). -/
theorem decodeRaw_12 {w : IWord} (h : w.toNat / 2 ^ 25 % 128 = 0x12) : decodeRaw w = decMajor12 w := by
  rw [decodeRaw, h]; rfl

/-- Words of major 0x13 (R29). -/
theorem decodeRaw_13 {w : IWord} (h : w.toNat / 2 ^ 25 % 128 = 0x13) : decodeRaw w = decMajor13 w := by
  rw [decodeRaw, h]; rfl

/-- Words of major 0x14 (R29). -/
theorem decodeRaw_14 {w : IWord} (h : w.toNat / 2 ^ 25 % 128 = 0x14) : decodeRaw w = decMajor14 w := by
  rw [decodeRaw, h]; rfl

/-- Words of major 0x20 (R29). -/
theorem decodeRaw_20 {w : IWord} (h : w.toNat / 2 ^ 25 % 128 = 0x20) : decodeRaw w = decMajor20 w := by
  rw [decodeRaw, h]; rfl

/-- Words of major 0x21 (R29). -/
theorem decodeRaw_21 {w : IWord} (h : w.toNat / 2 ^ 25 % 128 = 0x21) : decodeRaw w = decMajor21 w := by
  rw [decodeRaw, h]; rfl

/-- Words of major 0x22 (R29). -/
theorem decodeRaw_22 {w : IWord} (h : w.toNat / 2 ^ 25 % 128 = 0x22) : decodeRaw w = decMajor22 w := by
  rw [decodeRaw, h]; rfl

/-- Words of major 0x23 (R29). -/
theorem decodeRaw_23 {w : IWord} (h : w.toNat / 2 ^ 25 % 128 = 0x23) : decodeRaw w = decMajor23 w := by
  rw [decodeRaw, h]; rfl

/-- Words of major 0x24 (R29). -/
theorem decodeRaw_24 {w : IWord} (h : w.toNat / 2 ^ 25 % 128 = 0x24) : decodeRaw w = decMajor24 w := by
  rw [decodeRaw, h]; rfl

/-- Words of major 0x25 (R29). -/
theorem decodeRaw_25 {w : IWord} (h : w.toNat / 2 ^ 25 % 128 = 0x25) : decodeRaw w = decMajor25 w := by
  rw [decodeRaw, h]; rfl

/-- Words of major 0x26 (R29). -/
theorem decodeRaw_26 {w : IWord} (h : w.toNat / 2 ^ 25 % 128 = 0x26) : decodeRaw w = decMajor26 w := by
  rw [decodeRaw, h]; rfl

/-- Words of major 0x27 (R29). -/
theorem decodeRaw_27 {w : IWord} (h : w.toNat / 2 ^ 25 % 128 = 0x27) : decodeRaw w = decMajor26 w := by
  rw [decodeRaw, h]; rfl

/-- Words of major 0x30 (R29). -/
theorem decodeRaw_30 {w : IWord} (h : w.toNat / 2 ^ 25 % 128 = 0x30) : decodeRaw w = decMajor30 w := by
  rw [decodeRaw, h]; rfl

/-- Words of major 0x31 (R29). -/
theorem decodeRaw_31 {w : IWord} (h : w.toNat / 2 ^ 25 % 128 = 0x31) : decodeRaw w = decMajor30 w := by
  rw [decodeRaw, h]; rfl

/-- Words of major 0x32 (R29). -/
theorem decodeRaw_32 {w : IWord} (h : w.toNat / 2 ^ 25 % 128 = 0x32) : decodeRaw w = decMajor32 w := by
  rw [decodeRaw, h]; rfl

/-- Words of major 0x33 (R29). -/
theorem decodeRaw_33 {w : IWord} (h : w.toNat / 2 ^ 25 % 128 = 0x33) : decodeRaw w = decMajor32 w := by
  rw [decodeRaw, h]; rfl

/-- Words of major 0x34 (R29). -/
theorem decodeRaw_34 {w : IWord} (h : w.toNat / 2 ^ 25 % 128 = 0x34) : decodeRaw w = decMajor34 w := by
  rw [decodeRaw, h]; rfl

/-- Words of major 0x35 (R29). -/
theorem decodeRaw_35 {w : IWord} (h : w.toNat / 2 ^ 25 % 128 = 0x35) : decodeRaw w = decMajor35 w := by
  rw [decodeRaw, h]; rfl

/-- Words of major 0x40 (R29). -/
theorem decodeRaw_40 {w : IWord} (h : w.toNat / 2 ^ 25 % 128 = 0x40) : decodeRaw w = decMajor40 w := by
  rw [decodeRaw, h]; rfl

/-- Words of major 0x41 (R29). -/
theorem decodeRaw_41 {w : IWord} (h : w.toNat / 2 ^ 25 % 128 = 0x41) : decodeRaw w = decMajor41 w := by
  rw [decodeRaw, h]; rfl

/-- Words of major 0x42 (R29). -/
theorem decodeRaw_42 {w : IWord} (h : w.toNat / 2 ^ 25 % 128 = 0x42) : decodeRaw w = decMajor42 w := by
  rw [decodeRaw, h]; rfl

/-- Words of major 0x43 (R29). -/
theorem decodeRaw_43 {w : IWord} (h : w.toNat / 2 ^ 25 % 128 = 0x43) : decodeRaw w = decMajor43 w := by
  rw [decodeRaw, h]; rfl

/-- Words of major 0x44 (R29). -/
theorem decodeRaw_44 {w : IWord} (h : w.toNat / 2 ^ 25 % 128 = 0x44) : decodeRaw w = decMajor44 w := by
  rw [decodeRaw, h]; rfl

/-- Words of major 0x45 (R29). -/
theorem decodeRaw_45 {w : IWord} (h : w.toNat / 2 ^ 25 % 128 = 0x45) : decodeRaw w = decMajor45 w := by
  rw [decodeRaw, h]; rfl

/-- Words of major 0x46 (R29). -/
theorem decodeRaw_46 {w : IWord} (h : w.toNat / 2 ^ 25 % 128 = 0x46) : decodeRaw w = decMajor46 w := by
  rw [decodeRaw, h]; rfl

/-- Words of major 0x47 (R29). -/
theorem decodeRaw_47 {w : IWord} (h : w.toNat / 2 ^ 25 % 128 = 0x47) : decodeRaw w = decMajor47 w := by
  rw [decodeRaw, h]; rfl

/-- Words of major 0x48 (R29). -/
theorem decodeRaw_48 {w : IWord} (h : w.toNat / 2 ^ 25 % 128 = 0x48) : decodeRaw w = decMajor48 w := by
  rw [decodeRaw, h]; rfl

/-- Words of major 0x49 (R29). -/
theorem decodeRaw_49 {w : IWord} (h : w.toNat / 2 ^ 25 % 128 = 0x49) : decodeRaw w = decMajor49 w := by
  rw [decodeRaw, h]; rfl

/-- Words of major 0x50 (R29). -/
theorem decodeRaw_50 {w : IWord} (h : w.toNat / 2 ^ 25 % 128 = 0x50) : decodeRaw w = decMajor50 w := by
  rw [decodeRaw, h]; rfl

/-- Words of major 0x51 (R29). -/
theorem decodeRaw_51 {w : IWord} (h : w.toNat / 2 ^ 25 % 128 = 0x51) : decodeRaw w = decMajor51 w := by
  rw [decodeRaw, h]; rfl

/-- Words of major 0x52 (R29). -/
theorem decodeRaw_52 {w : IWord} (h : w.toNat / 2 ^ 25 % 128 = 0x52) : decodeRaw w = decMajor52 w := by
  rw [decodeRaw, h]; rfl

/-- Words of major 0x53 (R29). -/
theorem decodeRaw_53 {w : IWord} (h : w.toNat / 2 ^ 25 % 128 = 0x53) : decodeRaw w = decMajor53 w := by
  rw [decodeRaw, h]; rfl

/-- Words of major 0x54 (R29). -/
theorem decodeRaw_54 {w : IWord} (h : w.toNat / 2 ^ 25 % 128 = 0x54) : decodeRaw w = decMajor54 w := by
  rw [decodeRaw, h]; rfl

/-- Words of major 0x55 (R29). -/
theorem decodeRaw_55 {w : IWord} (h : w.toNat / 2 ^ 25 % 128 = 0x55) : decodeRaw w = decMajor55 w := by
  rw [decodeRaw, h]; rfl

/-- Words of major 0x56 (R29). -/
theorem decodeRaw_56 {w : IWord} (h : w.toNat / 2 ^ 25 % 128 = 0x56) : decodeRaw w = decMajor56 w := by
  rw [decodeRaw, h]; rfl

/-- Words of major 0x57 (R29). -/
theorem decodeRaw_57 {w : IWord} (h : w.toNat / 2 ^ 25 % 128 = 0x57) : decodeRaw w = decMajor57 w := by
  rw [decodeRaw, h]; rfl

/-- Words of major 0x58 (R29). -/
theorem decodeRaw_58 {w : IWord} (h : w.toNat / 2 ^ 25 % 128 = 0x58) : decodeRaw w = decMajor58 w := by
  rw [decodeRaw, h]; rfl

/-- Words of major 0x59 (R29). -/
theorem decodeRaw_59 {w : IWord} (h : w.toNat / 2 ^ 25 % 128 = 0x59) : decodeRaw w = decMajor59 w := by
  rw [decodeRaw, h]; rfl

/-- Words of major 0x60 (R29). -/
theorem decodeRaw_60 {w : IWord} (h : w.toNat / 2 ^ 25 % 128 = 0x60) : decodeRaw w = decMajor60 w := by
  rw [decodeRaw, h]; rfl

/-- Words of major 0x61 (R29). -/
theorem decodeRaw_61 {w : IWord} (h : w.toNat / 2 ^ 25 % 128 = 0x61) : decodeRaw w = decMajor61 w := by
  rw [decodeRaw, h]; rfl

/-- Words of major 0x62 (R29). -/
theorem decodeRaw_62 {w : IWord} (h : w.toNat / 2 ^ 25 % 128 = 0x62) : decodeRaw w = decMajor62 w := by
  rw [decodeRaw, h]; rfl

/-- Words of major 0x63 (R29). -/
theorem decodeRaw_63 {w : IWord} (h : w.toNat / 2 ^ 25 % 128 = 0x63) : decodeRaw w = decMajor63 w := by
  rw [decodeRaw, h]; rfl

/-- Words of major 0x64 (R29). -/
theorem decodeRaw_64 {w : IWord} (h : w.toNat / 2 ^ 25 % 128 = 0x64) : decodeRaw w = decMajor64 w := by
  rw [decodeRaw, h]; rfl

/-- Words of major 0x65 (R29). -/
theorem decodeRaw_65 {w : IWord} (h : w.toNat / 2 ^ 25 % 128 = 0x65) : decodeRaw w = decMajor65 w := by
  rw [decodeRaw, h]; rfl

/-- Words of major 0x68 (R29). -/
theorem decodeRaw_68 {w : IWord} (h : w.toNat / 2 ^ 25 % 128 = 0x68) : decodeRaw w = decMajor68 w := by
  rw [decodeRaw, h]; rfl

/-- Words of major 0x69 (R29). -/
theorem decodeRaw_69 {w : IWord} (h : w.toNat / 2 ^ 25 % 128 = 0x69) : decodeRaw w = decMajor69 w := by
  rw [decodeRaw, h]; rfl

/-- Words of major 0x70 (R29). -/
theorem decodeRaw_70 {w : IWord} (h : w.toNat / 2 ^ 25 % 128 = 0x70) : decodeRaw w = decMajor70 w := by
  rw [decodeRaw, h]; rfl

/-- Words of major 0x71 (R29). -/
theorem decodeRaw_71 {w : IWord} (h : w.toNat / 2 ^ 25 % 128 = 0x71) : decodeRaw w = decMajor71 w := by
  rw [decodeRaw, h]; rfl

/-- Words of major 0x72 (R29). -/
theorem decodeRaw_72 {w : IWord} (h : w.toNat / 2 ^ 25 % 128 = 0x72) : decodeRaw w = decMajor72 w := by
  rw [decodeRaw, h]; rfl

/-- Words of major 0x73 (R29). -/
theorem decodeRaw_73 {w : IWord} (h : w.toNat / 2 ^ 25 % 128 = 0x73) : decodeRaw w = decMajor72 w := by
  rw [decodeRaw, h]; rfl

/-- Words of major 0x74 (R29). -/
theorem decodeRaw_74 {w : IWord} (h : w.toNat / 2 ^ 25 % 128 = 0x74) : decodeRaw w = decMajor74 w := by
  rw [decodeRaw, h]; rfl

/-- Words of major 0x75 (R29). -/
theorem decodeRaw_75 {w : IWord} (h : w.toNat / 2 ^ 25 % 128 = 0x75) : decodeRaw w = decMajor74 w := by
  rw [decodeRaw, h]; rfl

/-- Words of major 0x78 (R29). -/
theorem decodeRaw_78 {w : IWord} (h : w.toNat / 2 ^ 25 % 128 = 0x78) : decodeRaw w = decMajor78 w := by
  rw [decodeRaw, h]; rfl

/-- Words of major 0x79 (R29). -/
theorem decodeRaw_79 {w : IWord} (h : w.toNat / 2 ^ 25 % 128 = 0x79) : decodeRaw w = decMajor79 w := by
  rw [decodeRaw, h]; rfl

/-- Words of major 0x7A (R29). -/
theorem decodeRaw_7A {w : IWord} (h : w.toNat / 2 ^ 25 % 128 = 0x7A) : decodeRaw w = decMajor7A w := by
  rw [decodeRaw, h]; rfl

/-- Words of major 0x7B (R29). -/
theorem decodeRaw_7B {w : IWord} (h : w.toNat / 2 ^ 25 % 128 = 0x7B) : decodeRaw w = decMajor7B w := by
  rw [decodeRaw, h]; rfl

/-- The fields of a word of this shape. -/
theorem shape00 (d : BitVec 5) (a : BitVec 5) (b : BitVec 5) (w : Bool) (M F : Nat) (_hM : M < 128) (_hF : F < 16) {iw : IWord}
    (hu : iw.toNat = d.toNat * 2 ^ 20 + (a.toNat * 2 ^ 15 + (b.toNat * 2 ^ 10 + (w.toNat * 2 ^ 4 + (F * 2 ^ 0 + M * 2 ^ 25))))) :
    iw.toNat / 2 ^ 25 % 128 = M ∧ iw.toNat / 2 ^ 0 % 16 = F ∧ bitsAt iw 20 5 = d ∧ bitsAt iw 15 5 = a ∧ bitsAt iw 10 5 = b ∧ flagAt iw 4 = w ∧ reservedZero iw [(5, 5)] = true := by
  have h_d := d.isLt; have h_a := a.isLt; have h_b := b.isLt; have h_w := Bool.toNat_le w
  exact ⟨by omega, by omega, bits_eq (by omega), bits_eq (by omega), bits_eq (by omega), flag_eq (by omega), by simp only [reservedZero, List.all_cons, List.all_nil, Bool.and_true, beq_iff_eq]; omega⟩

/-- The fields of a word of this shape. -/
theorem shape01 (d : BitVec 5) (a : BitVec 5) (w : Bool) (M F : Nat) (_hM : M < 128) (_hF : F < 16) {iw : IWord}
    (hu : iw.toNat = d.toNat * 2 ^ 20 + (a.toNat * 2 ^ 15 + (w.toNat * 2 ^ 4 + (F * 2 ^ 0 + M * 2 ^ 25)))) :
    iw.toNat / 2 ^ 25 % 128 = M ∧ iw.toNat / 2 ^ 0 % 16 = F ∧ bitsAt iw 20 5 = d ∧ bitsAt iw 15 5 = a ∧ flagAt iw 4 = w ∧ reservedZero iw [(5, 10)] = true := by
  have h_d := d.isLt; have h_a := a.isLt; have h_w := Bool.toNat_le w
  exact ⟨by omega, by omega, bits_eq (by omega), bits_eq (by omega), flag_eq (by omega), by simp only [reservedZero, List.all_cons, List.all_nil, Bool.and_true, beq_iff_eq]; omega⟩

/-- The fields of a word of this shape. -/
theorem shape02 (d : BitVec 5) (a : BitVec 5) (b : BitVec 5) (c : BitVec 5) (w : Bool) (M F : Nat) (_hM : M < 128) (_hF : F < 16) {iw : IWord}
    (hu : iw.toNat = d.toNat * 2 ^ 20 + (a.toNat * 2 ^ 15 + (b.toNat * 2 ^ 10 + (c.toNat * 2 ^ 5 + (w.toNat * 2 ^ 4 + (F * 2 ^ 0 + M * 2 ^ 25)))))) :
    iw.toNat / 2 ^ 25 % 128 = M ∧ iw.toNat / 2 ^ 0 % 16 = F ∧ bitsAt iw 20 5 = d ∧ bitsAt iw 15 5 = a ∧ bitsAt iw 10 5 = b ∧ bitsAt iw 5 5 = c ∧ flagAt iw 4 = w := by
  have h_d := d.isLt; have h_a := a.isLt; have h_b := b.isLt; have h_c := c.isLt; have h_w := Bool.toNat_le w
  exact ⟨by omega, by omega, bits_eq (by omega), bits_eq (by omega), bits_eq (by omega), bits_eq (by omega), flag_eq (by omega)⟩

/-- The fields of a word of this shape. -/
theorem shape03 (d : BitVec 5) (i : BitVec 15) (M F : Nat) (_hM : M < 128) (_hF : F < 1) {iw : IWord}
    (hu : iw.toNat = d.toNat * 2 ^ 20 + (i.toNat * 2 ^ 0 + (M * 2 ^ 25))) :
    iw.toNat / 2 ^ 25 % 128 = M ∧ bitsAt iw 20 5 = d ∧ bitsAt iw 0 15 = i ∧ reservedZero iw [(15, 5)] = true := by
  have h_d := d.isLt; have h_i := i.isLt
  exact ⟨by omega, bits_eq (by omega), bits_eq (by omega), by simp only [reservedZero, List.all_cons, List.all_nil, Bool.and_true, beq_iff_eq]; omega⟩

/-- The fields of a word of this shape. -/
theorem shape04 (d : BitVec 5) (a : BitVec 5) (b : BitVec 5) (M F : Nat) (_hM : M < 128) (_hF : F < 16) {iw : IWord}
    (hu : iw.toNat = d.toNat * 2 ^ 20 + (a.toNat * 2 ^ 15 + (b.toNat * 2 ^ 10 + (F * 2 ^ 0 + M * 2 ^ 25)))) :
    iw.toNat / 2 ^ 25 % 128 = M ∧ iw.toNat / 2 ^ 0 % 16 = F ∧ bitsAt iw 20 5 = d ∧ bitsAt iw 15 5 = a ∧ bitsAt iw 10 5 = b ∧ reservedZero iw [(4, 6)] = true := by
  have h_d := d.isLt; have h_a := a.isLt; have h_b := b.isLt
  exact ⟨by omega, by omega, bits_eq (by omega), bits_eq (by omega), bits_eq (by omega), by simp only [reservedZero, List.all_cons, List.all_nil, Bool.and_true, beq_iff_eq]; omega⟩

/-- The fields of a word of this shape. -/
theorem shape05 (d : BitVec 5) (a : BitVec 5) (b : BitVec 5) (c : BitVec 5) (M F : Nat) (_hM : M < 128) (_hF : F < 16) {iw : IWord}
    (hu : iw.toNat = d.toNat * 2 ^ 20 + (a.toNat * 2 ^ 15 + (b.toNat * 2 ^ 10 + (c.toNat * 2 ^ 5 + (F * 2 ^ 0 + M * 2 ^ 25))))) :
    iw.toNat / 2 ^ 25 % 128 = M ∧ iw.toNat / 2 ^ 0 % 16 = F ∧ bitsAt iw 20 5 = d ∧ bitsAt iw 15 5 = a ∧ bitsAt iw 10 5 = b ∧ bitsAt iw 5 5 = c ∧ reservedZero iw [(4, 1)] = true := by
  have h_d := d.isLt; have h_a := a.isLt; have h_b := b.isLt; have h_c := c.isLt
  exact ⟨by omega, by omega, bits_eq (by omega), bits_eq (by omega), bits_eq (by omega), bits_eq (by omega), by simp only [reservedZero, List.all_cons, List.all_nil, Bool.and_true, beq_iff_eq]; omega⟩

/-- The fields of a word of this shape. -/
theorem shape06 (d : BitVec 5) (a : BitVec 5) (M F : Nat) (_hM : M < 128) (_hF : F < 16) {iw : IWord}
    (hu : iw.toNat = d.toNat * 2 ^ 20 + (a.toNat * 2 ^ 15 + (F * 2 ^ 0 + M * 2 ^ 25))) :
    iw.toNat / 2 ^ 25 % 128 = M ∧ iw.toNat / 2 ^ 0 % 16 = F ∧ bitsAt iw 20 5 = d ∧ bitsAt iw 15 5 = a ∧ reservedZero iw [(4, 11)] = true := by
  have h_d := d.isLt; have h_a := a.isLt
  exact ⟨by omega, by omega, bits_eq (by omega), bits_eq (by omega), by simp only [reservedZero, List.all_cons, List.all_nil, Bool.and_true, beq_iff_eq]; omega⟩

/-- The fields of a word of this shape. -/
theorem shape07 (a : BitVec 5) (b : BitVec 5) (c : BitVec 3) (t : BitVec 6) (w : Bool) (p : Bool) (M F : Nat) (_hM : M < 128) (_hF : F < 1) {iw : IWord}
    (hu : iw.toNat = a.toNat * 2 ^ 20 + (b.toNat * 2 ^ 15 + (c.toNat * 2 ^ 12 + (t.toNat * 2 ^ 6 + (w.toNat * 2 ^ 5 + (p.toNat * 2 ^ 4 + (M * 2 ^ 25))))))) :
    iw.toNat / 2 ^ 25 % 128 = M ∧ bitsAt iw 20 5 = a ∧ bitsAt iw 15 5 = b ∧ bitsAt iw 12 3 = c ∧ bitsAt iw 6 6 = t ∧ flagAt iw 5 = w ∧ flagAt iw 4 = p ∧ reservedZero iw [(0, 4)] = true := by
  have h_a := a.isLt; have h_b := b.isLt; have h_c := c.isLt; have h_t := t.isLt; have h_w := Bool.toNat_le w; have h_p := Bool.toNat_le p
  exact ⟨by omega, bits_eq (by omega), bits_eq (by omega), bits_eq (by omega), bits_eq (by omega), flag_eq (by omega), flag_eq (by omega), by simp only [reservedZero, List.all_cons, List.all_nil, Bool.and_true, beq_iff_eq]; omega⟩

/-- The fields of a word of this shape. -/
theorem shape08 (a : BitVec 5) (t : BitVec 6) (w : Bool) (p : Bool) (M F : Nat) (_hM : M < 128) (_hF : F < 1) {iw : IWord}
    (hu : iw.toNat = a.toNat * 2 ^ 20 + (t.toNat * 2 ^ 6 + (w.toNat * 2 ^ 5 + (p.toNat * 2 ^ 4 + (M * 2 ^ 25))))) :
    iw.toNat / 2 ^ 25 % 128 = M ∧ bitsAt iw 20 5 = a ∧ bitsAt iw 6 6 = t ∧ flagAt iw 5 = w ∧ flagAt iw 4 = p ∧ reservedZero iw [(0, 4), (12, 8)] = true := by
  have h_a := a.isLt; have h_t := t.isLt; have h_w := Bool.toNat_le w; have h_p := Bool.toNat_le p
  exact ⟨by omega, bits_eq (by omega), bits_eq (by omega), flag_eq (by omega), flag_eq (by omega), by simp only [reservedZero, List.all_cons, List.all_nil, Bool.and_true, Bool.and_eq_true, beq_iff_eq]; omega⟩

/-- The fields of a word of this shape. -/
theorem shape09 (t : BitVec 6) (p : Bool) (M F : Nat) (_hM : M < 128) (_hF : F < 1) {iw : IWord}
    (hu : iw.toNat = t.toNat * 2 ^ 6 + (p.toNat * 2 ^ 4 + (M * 2 ^ 25))) :
    iw.toNat / 2 ^ 25 % 128 = M ∧ bitsAt iw 6 6 = t ∧ flagAt iw 4 = p ∧ reservedZero iw [(0, 4), (5, 1), (12, 13)] = true := by
  have h_t := t.isLt; have h_p := Bool.toNat_le p
  exact ⟨by omega, bits_eq (by omega), flag_eq (by omega), by simp only [reservedZero, List.all_cons, List.all_nil, Bool.and_true, Bool.and_eq_true, beq_iff_eq]; omega⟩

/-- The fields of a word of this shape. -/
theorem shape10 (h : BitVec 15) (M F : Nat) (_hM : M < 128) (_hF : F < 1) {iw : IWord}
    (hu : iw.toNat = h.toNat * 2 ^ 0 + (M * 2 ^ 25)) :
    iw.toNat / 2 ^ 25 % 128 = M ∧ bitsAt iw 0 15 = h ∧ reservedZero iw [(15, 10)] = true := by
  have h_h := h.isLt
  exact ⟨by omega, bits_eq (by omega), by simp only [reservedZero, List.all_cons, List.all_nil, Bool.and_true, beq_iff_eq]; omega⟩

/-- The fields of a word of this shape. -/
theorem shape11 (d : BitVec 5) (h : BitVec 15) (M F : Nat) (_hM : M < 128) (_hF : F < 1) {iw : IWord}
    (hu : iw.toNat = d.toNat * 2 ^ 20 + (h.toNat * 2 ^ 0 + (M * 2 ^ 25))) :
    iw.toNat / 2 ^ 25 % 128 = M ∧ bitsAt iw 20 5 = d ∧ bitsAt iw 0 15 = h ∧ reservedZero iw [(15, 5)] = true := by
  have h_d := d.isLt; have h_h := h.isLt
  exact ⟨by omega, bits_eq (by omega), bits_eq (by omega), by simp only [reservedZero, List.all_cons, List.all_nil, Bool.and_true, beq_iff_eq]; omega⟩

/-- The fields of a word of this shape. -/
theorem shape12 (a : BitVec 5) (w : Bool) (M F : Nat) (_hM : M < 128) (_hF : F < 16) {iw : IWord}
    (hu : iw.toNat = a.toNat * 2 ^ 15 + (w.toNat * 2 ^ 4 + (F * 2 ^ 0 + M * 2 ^ 25))) :
    iw.toNat / 2 ^ 25 % 128 = M ∧ iw.toNat / 2 ^ 0 % 16 = F ∧ bitsAt iw 15 5 = a ∧ flagAt iw 4 = w ∧ reservedZero iw [(5, 10), (20, 5)] = true := by
  have h_a := a.isLt; have h_w := Bool.toNat_le w
  exact ⟨by omega, by omega, bits_eq (by omega), flag_eq (by omega), by simp only [reservedZero, List.all_cons, List.all_nil, Bool.and_true, Bool.and_eq_true, beq_iff_eq]; omega⟩

/-- The fields of a word of this shape. -/
theorem shape13  (M F : Nat) (_hM : M < 128) (_hF : F < 16) {iw : IWord}
    (hu : iw.toNat = F * 2 ^ 0 + M * 2 ^ 25) :
    iw.toNat / 2 ^ 25 % 128 = M ∧ iw.toNat / 2 ^ 0 % 16 = F ∧ reservedZero iw [(4, 21)] = true := by
  exact ⟨by omega, by omega, by simp only [reservedZero, List.all_cons, List.all_nil, Bool.and_true, beq_iff_eq]; omega⟩

/-- The fields of a word of this shape. -/
theorem shape14 (n : BitVec 10) (M F : Nat) (_hM : M < 128) (_hF : F < 16) {iw : IWord}
    (hu : iw.toNat = n.toNat * 2 ^ 5 + (F * 2 ^ 0 + M * 2 ^ 25)) :
    iw.toNat / 2 ^ 25 % 128 = M ∧ iw.toNat / 2 ^ 0 % 16 = F ∧ bitsAt iw 5 10 = n ∧ reservedZero iw [(4, 1), (15, 10)] = true := by
  have h_n := n.isLt
  exact ⟨by omega, by omega, bits_eq (by omega), by simp only [reservedZero, List.all_cons, List.all_nil, Bool.and_true, Bool.and_eq_true, beq_iff_eq]; omega⟩

/-- The fields of a word of this shape. -/
theorem shape15 (b : BitVec 5) (M F : Nat) (_hM : M < 128) (_hF : F < 16) {iw : IWord}
    (hu : iw.toNat = b.toNat * 2 ^ 10 + (F * 2 ^ 0 + M * 2 ^ 25)) :
    iw.toNat / 2 ^ 25 % 128 = M ∧ iw.toNat / 2 ^ 0 % 16 = F ∧ bitsAt iw 10 5 = b ∧ reservedZero iw [(4, 6), (15, 10)] = true := by
  have h_b := b.isLt
  exact ⟨by omega, by omega, bits_eq (by omega), by simp only [reservedZero, List.all_cons, List.all_nil, Bool.and_true, Bool.and_eq_true, beq_iff_eq]; omega⟩

/-- The fields of a word of this shape. -/
theorem shape16 (d : BitVec 5) (n : BitVec 10) (M F : Nat) (_hM : M < 128) (_hF : F < 16) {iw : IWord}
    (hu : iw.toNat = d.toNat * 2 ^ 20 + (n.toNat * 2 ^ 5 + (F * 2 ^ 0 + M * 2 ^ 25))) :
    iw.toNat / 2 ^ 25 % 128 = M ∧ iw.toNat / 2 ^ 0 % 16 = F ∧ bitsAt iw 20 5 = d ∧ bitsAt iw 5 10 = n ∧ reservedZero iw [(4, 1), (15, 5)] = true := by
  have h_d := d.isLt; have h_n := n.isLt
  exact ⟨by omega, by omega, bits_eq (by omega), bits_eq (by omega), by simp only [reservedZero, List.all_cons, List.all_nil, Bool.and_true, Bool.and_eq_true, beq_iff_eq]; omega⟩

/-- The fields of a word of this shape. -/
theorem shape17 (d : BitVec 5) (n : BitVec 12) (M F : Nat) (_hM : M < 128 ∧ M % 2 = 0) (_hF : F < 4) {iw : IWord}
    (hu : iw.toNat = d.toNat * 2 ^ 20 + (n.toNat * 2 ^ 0 + (F * 2 ^ 12 + M * 2 ^ 25))) :
    iw.toNat / 2 ^ 25 % 128 = M ∧ iw.toNat / 2 ^ 12 % 4 = F ∧ bitsAt iw 20 5 = d ∧ bitsAt iw 0 12 = n ∧ reservedZero iw [(14, 6), (25, 1)] = true := by
  have h_d := d.isLt; have h_n := n.isLt
  exact ⟨by omega, by omega, bits_eq (by omega), bits_eq (by omega), by simp only [reservedZero, List.all_cons, List.all_nil, Bool.and_true, Bool.and_eq_true, beq_iff_eq]; omega⟩

/-- The fields of a word of this shape. -/
theorem shape18 (d : BitVec 5) (p : BitVec 5) (M F : Nat) (_hM : M < 128) (_hF : F < 16) {iw : IWord}
    (hu : iw.toNat = d.toNat * 2 ^ 20 + (p.toNat * 2 ^ 15 + (F * 2 ^ 0 + M * 2 ^ 25))) :
    iw.toNat / 2 ^ 25 % 128 = M ∧ iw.toNat / 2 ^ 0 % 16 = F ∧ bitsAt iw 20 5 = d ∧ bitsAt iw 15 5 = p ∧ reservedZero iw [(4, 11)] = true := by
  have h_d := d.isLt; have h_p := p.isLt
  exact ⟨by omega, by omega, bits_eq (by omega), bits_eq (by omega), by simp only [reservedZero, List.all_cons, List.all_nil, Bool.and_true, beq_iff_eq]; omega⟩

/-- The fields of a word of this shape. -/
theorem shape19 (q : BitVec 5) (a : BitVec 5) (w : Bool) (M F : Nat) (_hM : M < 128) (_hF : F < 16) {iw : IWord}
    (hu : iw.toNat = q.toNat * 2 ^ 20 + (a.toNat * 2 ^ 15 + (w.toNat * 2 ^ 4 + (F * 2 ^ 0 + M * 2 ^ 25)))) :
    iw.toNat / 2 ^ 25 % 128 = M ∧ iw.toNat / 2 ^ 0 % 16 = F ∧ bitsAt iw 20 5 = q ∧ bitsAt iw 15 5 = a ∧ flagAt iw 4 = w ∧ reservedZero iw [(5, 10)] = true := by
  have h_q := q.isLt; have h_a := a.isLt; have h_w := Bool.toNat_le w
  exact ⟨by omega, by omega, bits_eq (by omega), bits_eq (by omega), flag_eq (by omega), by simp only [reservedZero, List.all_cons, List.all_nil, Bool.and_true, beq_iff_eq]; omega⟩

/-- The fields of a word of this shape. -/
theorem shape20 (q : BitVec 5) (a : BitVec 5) (k : BitVec 3) (w : Bool) (M F : Nat) (_hM : M < 128) (_hF : F < 16) {iw : IWord}
    (hu : iw.toNat = q.toNat * 2 ^ 20 + (a.toNat * 2 ^ 15 + (k.toNat * 2 ^ 5 + (w.toNat * 2 ^ 4 + (F * 2 ^ 0 + M * 2 ^ 25))))) :
    iw.toNat / 2 ^ 25 % 128 = M ∧ iw.toNat / 2 ^ 0 % 16 = F ∧ bitsAt iw 20 5 = q ∧ bitsAt iw 15 5 = a ∧ bitsAt iw 5 3 = k ∧ flagAt iw 4 = w ∧ reservedZero iw [(8, 7)] = true := by
  have h_q := q.isLt; have h_a := a.isLt; have h_k := k.isLt; have h_w := Bool.toNat_le w
  exact ⟨by omega, by omega, bits_eq (by omega), bits_eq (by omega), bits_eq (by omega), flag_eq (by omega), by simp only [reservedZero, List.all_cons, List.all_nil, Bool.and_true, beq_iff_eq]; omega⟩

/-- The fields of a word of this shape. -/
theorem shape21 (d : BitVec 5) (M F : Nat) (_hM : M < 128) (_hF : F < 16) {iw : IWord}
    (hu : iw.toNat = d.toNat * 2 ^ 20 + (F * 2 ^ 0 + M * 2 ^ 25)) :
    iw.toNat / 2 ^ 25 % 128 = M ∧ iw.toNat / 2 ^ 0 % 16 = F ∧ bitsAt iw 20 5 = d ∧ reservedZero iw [(4, 16)] = true := by
  have h_d := d.isLt
  exact ⟨by omega, by omega, bits_eq (by omega), by simp only [reservedZero, List.all_cons, List.all_nil, Bool.and_true, beq_iff_eq]; omega⟩

/-- The fields of a word of this shape. -/
theorem shape22 (a : BitVec 5) (b : BitVec 5) (w : Bool) (M F : Nat) (_hM : M < 128) (_hF : F < 16) {iw : IWord}
    (hu : iw.toNat = a.toNat * 2 ^ 15 + (b.toNat * 2 ^ 10 + (w.toNat * 2 ^ 4 + (F * 2 ^ 0 + M * 2 ^ 25)))) :
    iw.toNat / 2 ^ 25 % 128 = M ∧ iw.toNat / 2 ^ 0 % 16 = F ∧ bitsAt iw 15 5 = a ∧ bitsAt iw 10 5 = b ∧ flagAt iw 4 = w ∧ reservedZero iw [(5, 5), (20, 5)] = true := by
  have h_a := a.isLt; have h_b := b.isLt; have h_w := Bool.toNat_le w
  exact ⟨by omega, by omega, bits_eq (by omega), bits_eq (by omega), flag_eq (by omega), by simp only [reservedZero, List.all_cons, List.all_nil, Bool.and_true, Bool.and_eq_true, beq_iff_eq]; omega⟩

/-- The fields of a word of this shape. -/
theorem shape23 (d : BitVec 5) (a : BitVec 5) (b : BitVec 5) (w : Bool) (s : BitVec 3) (M F : Nat) (_hM : M < 128) (_hF : F < 2) {iw : IWord}
    (hu : iw.toNat = d.toNat * 2 ^ 20 + (a.toNat * 2 ^ 15 + (b.toNat * 2 ^ 10 + (w.toNat * 2 ^ 4 + (s.toNat * 2 ^ 0 + (F * 2 ^ 3 + M * 2 ^ 25)))))) :
    iw.toNat / 2 ^ 25 % 128 = M ∧ iw.toNat / 2 ^ 3 % 2 = F ∧ bitsAt iw 20 5 = d ∧ bitsAt iw 15 5 = a ∧ bitsAt iw 10 5 = b ∧ flagAt iw 4 = w ∧ bitsAt iw 0 3 = s ∧ reservedZero iw [(5, 5)] = true := by
  have h_d := d.isLt; have h_a := a.isLt; have h_b := b.isLt; have h_w := Bool.toNat_le w; have h_s := s.isLt
  exact ⟨by omega, by omega, bits_eq (by omega), bits_eq (by omega), bits_eq (by omega), flag_eq (by omega), bits_eq (by omega), by simp only [reservedZero, List.all_cons, List.all_nil, Bool.and_true, beq_iff_eq]; omega⟩

/-- The fields of a word of this shape. -/
theorem shape24 (d : BitVec 5) (a : BitVec 5) (b : BitVec 5) (w : Bool) (s : BitVec 2) (M F : Nat) (_hM : M < 128) (_hF : F < 4) {iw : IWord}
    (hu : iw.toNat = d.toNat * 2 ^ 20 + (a.toNat * 2 ^ 15 + (b.toNat * 2 ^ 10 + (w.toNat * 2 ^ 4 + (s.toNat * 2 ^ 0 + (F * 2 ^ 2 + M * 2 ^ 25)))))) :
    iw.toNat / 2 ^ 25 % 128 = M ∧ iw.toNat / 2 ^ 2 % 4 = F ∧ bitsAt iw 20 5 = d ∧ bitsAt iw 15 5 = a ∧ bitsAt iw 10 5 = b ∧ flagAt iw 4 = w ∧ bitsAt iw 0 2 = s ∧ reservedZero iw [(5, 5)] = true := by
  have h_d := d.isLt; have h_a := a.isLt; have h_b := b.isLt; have h_w := Bool.toNat_le w; have h_s := s.isLt
  exact ⟨by omega, by omega, bits_eq (by omega), bits_eq (by omega), bits_eq (by omega), flag_eq (by omega), bits_eq (by omega), by simp only [reservedZero, List.all_cons, List.all_nil, Bool.and_true, beq_iff_eq]; omega⟩

/-- The fields of a word of this shape. -/
theorem shape25 (d : BitVec 5) (s : BitVec 3) (M F : Nat) (_hM : M < 128) (_hF : F < 2) {iw : IWord}
    (hu : iw.toNat = d.toNat * 2 ^ 20 + (s.toNat * 2 ^ 0 + (F * 2 ^ 3 + M * 2 ^ 25))) :
    iw.toNat / 2 ^ 25 % 128 = M ∧ iw.toNat / 2 ^ 3 % 2 = F ∧ bitsAt iw 20 5 = d ∧ bitsAt iw 0 3 = s ∧ reservedZero iw [(4, 16)] = true := by
  have h_d := d.isLt; have h_s := s.isLt
  exact ⟨by omega, by omega, bits_eq (by omega), bits_eq (by omega), by simp only [reservedZero, List.all_cons, List.all_nil, Bool.and_true, beq_iff_eq]; omega⟩

/-- The fields of a word of this shape. -/
theorem shape26 (d : BitVec 5) (a : BitVec 5) (b : BitVec 5) (k : BitVec 3) (z : Bool) (M F : Nat) (_hM : M < 128) (_hF : F < 32) {iw : IWord}
    (hu : iw.toNat = d.toNat * 2 ^ 20 + (a.toNat * 2 ^ 15 + (b.toNat * 2 ^ 10 + (k.toNat * 2 ^ 7 + (z.toNat * 2 ^ 6 + (F * 2 ^ 0 + M * 2 ^ 25)))))) :
    iw.toNat / 2 ^ 25 % 128 = M ∧ iw.toNat / 2 ^ 0 % 32 = F ∧ bitsAt iw 20 5 = d ∧ bitsAt iw 15 5 = a ∧ bitsAt iw 10 5 = b ∧ bitsAt iw 7 3 = k ∧ flagAt iw 6 = z ∧ reservedZero iw [(5, 1)] = true := by
  have h_d := d.isLt; have h_a := a.isLt; have h_b := b.isLt; have h_k := k.isLt; have h_z := Bool.toNat_le z
  exact ⟨by omega, by omega, bits_eq (by omega), bits_eq (by omega), bits_eq (by omega), bits_eq (by omega), flag_eq (by omega), by simp only [reservedZero, List.all_cons, List.all_nil, Bool.and_true, beq_iff_eq]; omega⟩

/-- The fields of a word of this shape. -/
theorem shape27 (d : BitVec 5) (a : BitVec 5) (k : BitVec 3) (z : Bool) (M F : Nat) (_hM : M < 128) (_hF : F < 32) {iw : IWord}
    (hu : iw.toNat = d.toNat * 2 ^ 20 + (a.toNat * 2 ^ 15 + (k.toNat * 2 ^ 7 + (z.toNat * 2 ^ 6 + (F * 2 ^ 0 + M * 2 ^ 25))))) :
    iw.toNat / 2 ^ 25 % 128 = M ∧ iw.toNat / 2 ^ 0 % 32 = F ∧ bitsAt iw 20 5 = d ∧ bitsAt iw 15 5 = a ∧ bitsAt iw 7 3 = k ∧ flagAt iw 6 = z ∧ reservedZero iw [(5, 1), (10, 5)] = true := by
  have h_d := d.isLt; have h_a := a.isLt; have h_k := k.isLt; have h_z := Bool.toNat_le z
  exact ⟨by omega, by omega, bits_eq (by omega), bits_eq (by omega), bits_eq (by omega), flag_eq (by omega), by simp only [reservedZero, List.all_cons, List.all_nil, Bool.and_true, Bool.and_eq_true, beq_iff_eq]; omega⟩

/-- The fields of a word of this shape. -/
theorem shape28 (d : BitVec 5) (a : BitVec 5) (b : BitVec 5) (k : BitVec 3) (M F : Nat) (_hM : M < 128) (_hF : F < 32) {iw : IWord}
    (hu : iw.toNat = d.toNat * 2 ^ 20 + (a.toNat * 2 ^ 15 + (b.toNat * 2 ^ 10 + (k.toNat * 2 ^ 7 + (F * 2 ^ 0 + M * 2 ^ 25))))) :
    iw.toNat / 2 ^ 25 % 128 = M ∧ iw.toNat / 2 ^ 0 % 32 = F ∧ bitsAt iw 20 5 = d ∧ bitsAt iw 15 5 = a ∧ bitsAt iw 10 5 = b ∧ bitsAt iw 7 3 = k ∧ reservedZero iw [(5, 2)] = true := by
  have h_d := d.isLt; have h_a := a.isLt; have h_b := b.isLt; have h_k := k.isLt
  exact ⟨by omega, by omega, bits_eq (by omega), bits_eq (by omega), bits_eq (by omega), bits_eq (by omega), by simp only [reservedZero, List.all_cons, List.all_nil, Bool.and_true, beq_iff_eq]; omega⟩

/-- The fields of a word of this shape. -/
theorem shape29 (d : BitVec 5) (a : BitVec 5) (n : BitVec 5) (k : BitVec 3) (z : Bool) (M F : Nat) (_hM : M < 128) (_hF : F < 32) {iw : IWord}
    (hu : iw.toNat = d.toNat * 2 ^ 20 + (a.toNat * 2 ^ 15 + (n.toNat * 2 ^ 10 + (k.toNat * 2 ^ 7 + (z.toNat * 2 ^ 6 + (F * 2 ^ 0 + M * 2 ^ 25)))))) :
    iw.toNat / 2 ^ 25 % 128 = M ∧ iw.toNat / 2 ^ 0 % 32 = F ∧ bitsAt iw 20 5 = d ∧ bitsAt iw 15 5 = a ∧ bitsAt iw 10 5 = n ∧ bitsAt iw 7 3 = k ∧ flagAt iw 6 = z ∧ reservedZero iw [(5, 1)] = true := by
  have h_d := d.isLt; have h_a := a.isLt; have h_n := n.isLt; have h_k := k.isLt; have h_z := Bool.toNat_le z
  exact ⟨by omega, by omega, bits_eq (by omega), bits_eq (by omega), bits_eq (by omega), bits_eq (by omega), flag_eq (by omega), by simp only [reservedZero, List.all_cons, List.all_nil, Bool.and_true, beq_iff_eq]; omega⟩

/-- The fields of a word of this shape. -/
theorem shape30 (d : BitVec 5) (a : BitVec 5) (k : BitVec 3) (z : Bool) (w : Bool) (M F : Nat) (_hM : M < 128) (_hF : F < 32) {iw : IWord}
    (hu : iw.toNat = d.toNat * 2 ^ 20 + (a.toNat * 2 ^ 15 + (k.toNat * 2 ^ 7 + (z.toNat * 2 ^ 6 + (w.toNat * 2 ^ 5 + (F * 2 ^ 0 + M * 2 ^ 25)))))) :
    iw.toNat / 2 ^ 25 % 128 = M ∧ iw.toNat / 2 ^ 0 % 32 = F ∧ bitsAt iw 20 5 = d ∧ bitsAt iw 15 5 = a ∧ bitsAt iw 7 3 = k ∧ flagAt iw 6 = z ∧ flagAt iw 5 = w ∧ reservedZero iw [(10, 5)] = true := by
  have h_d := d.isLt; have h_a := a.isLt; have h_k := k.isLt; have h_z := Bool.toNat_le z; have h_w := Bool.toNat_le w
  exact ⟨by omega, by omega, bits_eq (by omega), bits_eq (by omega), bits_eq (by omega), flag_eq (by omega), flag_eq (by omega), by simp only [reservedZero, List.all_cons, List.all_nil, Bool.and_true, beq_iff_eq]; omega⟩

/-- The fields of a word of this shape. -/
theorem shape31 (d : BitVec 5) (a : BitVec 5) (l : BitVec 5) (M F : Nat) (_hM : M < 128) (_hF : F < 32) {iw : IWord}
    (hu : iw.toNat = d.toNat * 2 ^ 20 + (a.toNat * 2 ^ 15 + (l.toNat * 2 ^ 10 + (F * 2 ^ 0 + M * 2 ^ 25)))) :
    iw.toNat / 2 ^ 25 % 128 = M ∧ iw.toNat / 2 ^ 0 % 32 = F ∧ bitsAt iw 20 5 = d ∧ bitsAt iw 15 5 = a ∧ bitsAt iw 10 5 = l ∧ reservedZero iw [(5, 5)] = true := by
  have h_d := d.isLt; have h_a := a.isLt; have h_l := l.isLt
  exact ⟨by omega, by omega, bits_eq (by omega), bits_eq (by omega), bits_eq (by omega), by simp only [reservedZero, List.all_cons, List.all_nil, Bool.and_true, beq_iff_eq]; omega⟩

/-- The fields of a word of this shape. -/
theorem shape32 (d : BitVec 5) (a : BitVec 5) (l : BitVec 5) (w : Bool) (M F : Nat) (_hM : M < 128) (_hF : F < 32) {iw : IWord}
    (hu : iw.toNat = d.toNat * 2 ^ 20 + (a.toNat * 2 ^ 15 + (l.toNat * 2 ^ 10 + (w.toNat * 2 ^ 5 + (F * 2 ^ 0 + M * 2 ^ 25))))) :
    iw.toNat / 2 ^ 25 % 128 = M ∧ iw.toNat / 2 ^ 0 % 32 = F ∧ bitsAt iw 20 5 = d ∧ bitsAt iw 15 5 = a ∧ bitsAt iw 10 5 = l ∧ flagAt iw 5 = w ∧ reservedZero iw [(6, 4)] = true := by
  have h_d := d.isLt; have h_a := a.isLt; have h_l := l.isLt; have h_w := Bool.toNat_le w
  exact ⟨by omega, by omega, bits_eq (by omega), bits_eq (by omega), bits_eq (by omega), flag_eq (by omega), by simp only [reservedZero, List.all_cons, List.all_nil, Bool.and_true, beq_iff_eq]; omega⟩

/-- The fields of a word of this shape. -/
theorem shape33 (d : BitVec 5) (a : BitVec 5) (k : BitVec 3) (M F : Nat) (_hM : M < 128) (_hF : F < 32) {iw : IWord}
    (hu : iw.toNat = d.toNat * 2 ^ 20 + (a.toNat * 2 ^ 15 + (k.toNat * 2 ^ 7 + (F * 2 ^ 0 + M * 2 ^ 25)))) :
    iw.toNat / 2 ^ 25 % 128 = M ∧ iw.toNat / 2 ^ 0 % 32 = F ∧ bitsAt iw 20 5 = d ∧ bitsAt iw 15 5 = a ∧ bitsAt iw 7 3 = k ∧ reservedZero iw [(5, 2), (10, 5)] = true := by
  have h_d := d.isLt; have h_a := a.isLt; have h_k := k.isLt
  exact ⟨by omega, by omega, bits_eq (by omega), bits_eq (by omega), bits_eq (by omega), by simp only [reservedZero, List.all_cons, List.all_nil, Bool.and_true, Bool.and_eq_true, beq_iff_eq]; omega⟩

/-- The fields of a word of this shape. -/
theorem shape34 (d : BitVec 5) (a : BitVec 5) (o : BitVec 5) (k : BitVec 3) (z : Bool) (w : Bool) (M F : Nat) (_hM : M < 128) (_hF : F < 32) {iw : IWord}
    (hu : iw.toNat = d.toNat * 2 ^ 20 + (a.toNat * 2 ^ 15 + (o.toNat * 2 ^ 10 + (k.toNat * 2 ^ 7 + (z.toNat * 2 ^ 6 + (w.toNat * 2 ^ 5 + (F * 2 ^ 0 + M * 2 ^ 25))))))) :
    iw.toNat / 2 ^ 25 % 128 = M ∧ iw.toNat / 2 ^ 0 % 32 = F ∧ bitsAt iw 20 5 = d ∧ bitsAt iw 15 5 = a ∧ bitsAt iw 10 5 = o ∧ bitsAt iw 7 3 = k ∧ flagAt iw 6 = z ∧ flagAt iw 5 = w := by
  have h_d := d.isLt; have h_a := a.isLt; have h_o := o.isLt; have h_k := k.isLt; have h_z := Bool.toNat_le z; have h_w := Bool.toNat_le w
  exact ⟨by omega, by omega, bits_eq (by omega), bits_eq (by omega), bits_eq (by omega), bits_eq (by omega), flag_eq (by omega), flag_eq (by omega)⟩

/-- The fields of a word of this shape. -/
theorem shape35 (d : BitVec 5) (a : BitVec 5) (o : BitVec 5) (k : BitVec 3) (w : Bool) (M F : Nat) (_hM : M < 128) (_hF : F < 32) {iw : IWord}
    (hu : iw.toNat = d.toNat * 2 ^ 20 + (a.toNat * 2 ^ 15 + (o.toNat * 2 ^ 10 + (k.toNat * 2 ^ 7 + (w.toNat * 2 ^ 5 + (F * 2 ^ 0 + M * 2 ^ 25)))))) :
    iw.toNat / 2 ^ 25 % 128 = M ∧ iw.toNat / 2 ^ 0 % 32 = F ∧ bitsAt iw 20 5 = d ∧ bitsAt iw 15 5 = a ∧ bitsAt iw 10 5 = o ∧ bitsAt iw 7 3 = k ∧ flagAt iw 5 = w ∧ reservedZero iw [(6, 1)] = true := by
  have h_d := d.isLt; have h_a := a.isLt; have h_o := o.isLt; have h_k := k.isLt; have h_w := Bool.toNat_le w
  exact ⟨by omega, by omega, bits_eq (by omega), bits_eq (by omega), bits_eq (by omega), bits_eq (by omega), flag_eq (by omega), by simp only [reservedZero, List.all_cons, List.all_nil, Bool.and_true, beq_iff_eq]; omega⟩

/-- The fields of a word of this shape. -/
theorem shape36 (d : BitVec 5) (a : BitVec 5) (b : BitVec 5) (k : BitVec 3) (z : Bool) (w : Bool) (M F : Nat) (_hM : M < 128) (_hF : F < 32) {iw : IWord}
    (hu : iw.toNat = d.toNat * 2 ^ 20 + (a.toNat * 2 ^ 15 + (b.toNat * 2 ^ 10 + (k.toNat * 2 ^ 7 + (z.toNat * 2 ^ 6 + (w.toNat * 2 ^ 5 + (F * 2 ^ 0 + M * 2 ^ 25))))))) :
    iw.toNat / 2 ^ 25 % 128 = M ∧ iw.toNat / 2 ^ 0 % 32 = F ∧ bitsAt iw 20 5 = d ∧ bitsAt iw 15 5 = a ∧ bitsAt iw 10 5 = b ∧ bitsAt iw 7 3 = k ∧ flagAt iw 6 = z ∧ flagAt iw 5 = w := by
  have h_d := d.isLt; have h_a := a.isLt; have h_b := b.isLt; have h_k := k.isLt; have h_z := Bool.toNat_le z; have h_w := Bool.toNat_le w
  exact ⟨by omega, by omega, bits_eq (by omega), bits_eq (by omega), bits_eq (by omega), bits_eq (by omega), flag_eq (by omega), flag_eq (by omega)⟩

/-- The fields of a word of this shape. -/
theorem shape37 (d : BitVec 5) (a : BitVec 5) (b : BitVec 5) (k : BitVec 3) (w : Bool) (M F : Nat) (_hM : M < 128) (_hF : F < 32) {iw : IWord}
    (hu : iw.toNat = d.toNat * 2 ^ 20 + (a.toNat * 2 ^ 15 + (b.toNat * 2 ^ 10 + (k.toNat * 2 ^ 7 + (w.toNat * 2 ^ 5 + (F * 2 ^ 0 + M * 2 ^ 25)))))) :
    iw.toNat / 2 ^ 25 % 128 = M ∧ iw.toNat / 2 ^ 0 % 32 = F ∧ bitsAt iw 20 5 = d ∧ bitsAt iw 15 5 = a ∧ bitsAt iw 10 5 = b ∧ bitsAt iw 7 3 = k ∧ flagAt iw 5 = w ∧ reservedZero iw [(6, 1)] = true := by
  have h_d := d.isLt; have h_a := a.isLt; have h_b := b.isLt; have h_k := k.isLt; have h_w := Bool.toNat_le w
  exact ⟨by omega, by omega, bits_eq (by omega), bits_eq (by omega), bits_eq (by omega), bits_eq (by omega), flag_eq (by omega), by simp only [reservedZero, List.all_cons, List.all_nil, Bool.and_true, beq_iff_eq]; omega⟩

/-- The fields of a word of this shape. -/
theorem shape38 (d : BitVec 5) (a : BitVec 5) (f : BitVec 5) (k : BitVec 3) (z : Bool) (M F : Nat) (_hM : M < 128) (_hF : F < 32) {iw : IWord}
    (hu : iw.toNat = d.toNat * 2 ^ 20 + (a.toNat * 2 ^ 15 + (f.toNat * 2 ^ 10 + (k.toNat * 2 ^ 7 + (z.toNat * 2 ^ 6 + (F * 2 ^ 0 + M * 2 ^ 25)))))) :
    iw.toNat / 2 ^ 25 % 128 = M ∧ iw.toNat / 2 ^ 0 % 32 = F ∧ bitsAt iw 20 5 = d ∧ bitsAt iw 15 5 = a ∧ bitsAt iw 10 5 = f ∧ bitsAt iw 7 3 = k ∧ flagAt iw 6 = z ∧ reservedZero iw [(5, 1)] = true := by
  have h_d := d.isLt; have h_a := a.isLt; have h_f := f.isLt; have h_k := k.isLt; have h_z := Bool.toNat_le z
  exact ⟨by omega, by omega, bits_eq (by omega), bits_eq (by omega), bits_eq (by omega), bits_eq (by omega), flag_eq (by omega), by simp only [reservedZero, List.all_cons, List.all_nil, Bool.and_true, beq_iff_eq]; omega⟩

/-- The fields of a word of this shape. -/
theorem shape39 (d : BitVec 5) (a : BitVec 5) (f : BitVec 5) (M F : Nat) (_hM : M < 128) (_hF : F < 32) {iw : IWord}
    (hu : iw.toNat = d.toNat * 2 ^ 20 + (a.toNat * 2 ^ 15 + (f.toNat * 2 ^ 10 + (F * 2 ^ 0 + M * 2 ^ 25)))) :
    iw.toNat / 2 ^ 25 % 128 = M ∧ iw.toNat / 2 ^ 0 % 32 = F ∧ bitsAt iw 20 5 = d ∧ bitsAt iw 15 5 = a ∧ bitsAt iw 10 5 = f ∧ reservedZero iw [(5, 5)] = true := by
  have h_d := d.isLt; have h_a := a.isLt; have h_f := f.isLt
  exact ⟨by omega, by omega, bits_eq (by omega), bits_eq (by omega), bits_eq (by omega), by simp only [reservedZero, List.all_cons, List.all_nil, Bool.and_true, beq_iff_eq]; omega⟩

/-- The fields of a word of this shape. -/
theorem shape40 (d : BitVec 5) (a : BitVec 5) (b : BitVec 5) (M F : Nat) (_hM : M < 128) (_hF : F < 32) {iw : IWord}
    (hu : iw.toNat = d.toNat * 2 ^ 20 + (a.toNat * 2 ^ 15 + (b.toNat * 2 ^ 10 + (F * 2 ^ 0 + M * 2 ^ 25)))) :
    iw.toNat / 2 ^ 25 % 128 = M ∧ iw.toNat / 2 ^ 0 % 32 = F ∧ bitsAt iw 20 5 = d ∧ bitsAt iw 15 5 = a ∧ bitsAt iw 10 5 = b ∧ reservedZero iw [(5, 5)] = true := by
  have h_d := d.isLt; have h_a := a.isLt; have h_b := b.isLt
  exact ⟨by omega, by omega, bits_eq (by omega), bits_eq (by omega), bits_eq (by omega), by simp only [reservedZero, List.all_cons, List.all_nil, Bool.and_true, beq_iff_eq]; omega⟩

/-- The fields of a word of this shape. -/
theorem shape41 (d : BitVec 5) (a : BitVec 5) (M F : Nat) (_hM : M < 128) (_hF : F < 32) {iw : IWord}
    (hu : iw.toNat = d.toNat * 2 ^ 20 + (a.toNat * 2 ^ 15 + (F * 2 ^ 0 + M * 2 ^ 25))) :
    iw.toNat / 2 ^ 25 % 128 = M ∧ iw.toNat / 2 ^ 0 % 32 = F ∧ bitsAt iw 20 5 = d ∧ bitsAt iw 15 5 = a ∧ reservedZero iw [(5, 10)] = true := by
  have h_d := d.isLt; have h_a := a.isLt
  exact ⟨by omega, by omega, bits_eq (by omega), bits_eq (by omega), by simp only [reservedZero, List.all_cons, List.all_nil, Bool.and_true, beq_iff_eq]; omega⟩

/-- The fields of a word of this shape. -/
theorem shape42 (d : BitVec 5) (a : BitVec 5) (w : Bool) (M F : Nat) (_hM : M < 128) (_hF : F < 32) {iw : IWord}
    (hu : iw.toNat = d.toNat * 2 ^ 20 + (a.toNat * 2 ^ 15 + (w.toNat * 2 ^ 5 + (F * 2 ^ 0 + M * 2 ^ 25)))) :
    iw.toNat / 2 ^ 25 % 128 = M ∧ iw.toNat / 2 ^ 0 % 32 = F ∧ bitsAt iw 20 5 = d ∧ bitsAt iw 15 5 = a ∧ flagAt iw 5 = w ∧ reservedZero iw [(6, 9)] = true := by
  have h_d := d.isLt; have h_a := a.isLt; have h_w := Bool.toNat_le w
  exact ⟨by omega, by omega, bits_eq (by omega), bits_eq (by omega), flag_eq (by omega), by simp only [reservedZero, List.all_cons, List.all_nil, Bool.and_true, beq_iff_eq]; omega⟩

/-- The fields of a word of this shape. -/
theorem shape43 (n : BitVec 5) (a : BitVec 5) (w : Bool) (M F : Nat) (_hM : M < 128) (_hF : F < 32) {iw : IWord}
    (hu : iw.toNat = n.toNat * 2 ^ 20 + (a.toNat * 2 ^ 15 + (w.toNat * 2 ^ 5 + (F * 2 ^ 0 + M * 2 ^ 25)))) :
    iw.toNat / 2 ^ 25 % 128 = M ∧ iw.toNat / 2 ^ 0 % 32 = F ∧ bitsAt iw 20 5 = n ∧ bitsAt iw 15 5 = a ∧ flagAt iw 5 = w ∧ reservedZero iw [(6, 9)] = true := by
  have h_n := n.isLt; have h_a := a.isLt; have h_w := Bool.toNat_le w
  exact ⟨by omega, by omega, bits_eq (by omega), bits_eq (by omega), flag_eq (by omega), by simp only [reservedZero, List.all_cons, List.all_nil, Bool.and_true, beq_iff_eq]; omega⟩

/-- The fields of a word of this shape. -/
theorem shape44 (b : BitVec 5) (k : BitVec 3) (z : Bool) (M F : Nat) (_hM : M < 128) (_hF : F < 32) {iw : IWord}
    (hu : iw.toNat = b.toNat * 2 ^ 10 + (k.toNat * 2 ^ 7 + (z.toNat * 2 ^ 6 + (F * 2 ^ 0 + M * 2 ^ 25)))) :
    iw.toNat / 2 ^ 25 % 128 = M ∧ iw.toNat / 2 ^ 0 % 32 = F ∧ bitsAt iw 10 5 = b ∧ bitsAt iw 7 3 = k ∧ flagAt iw 6 = z ∧ reservedZero iw [(5, 1), (15, 10)] = true := by
  have h_b := b.isLt; have h_k := k.isLt; have h_z := Bool.toNat_le z
  exact ⟨by omega, by omega, bits_eq (by omega), bits_eq (by omega), flag_eq (by omega), by simp only [reservedZero, List.all_cons, List.all_nil, Bool.and_true, Bool.and_eq_true, beq_iff_eq]; omega⟩

/-- The fields of a word of this shape. -/
theorem shape45 (d : BitVec 5) (a : BitVec 5) (k : BitVec 3) (w : Bool) (M F : Nat) (_hM : M < 128) (_hF : F < 32) {iw : IWord}
    (hu : iw.toNat = d.toNat * 2 ^ 20 + (a.toNat * 2 ^ 15 + (k.toNat * 2 ^ 7 + (w.toNat * 2 ^ 5 + (F * 2 ^ 0 + M * 2 ^ 25))))) :
    iw.toNat / 2 ^ 25 % 128 = M ∧ iw.toNat / 2 ^ 0 % 32 = F ∧ bitsAt iw 20 5 = d ∧ bitsAt iw 15 5 = a ∧ bitsAt iw 7 3 = k ∧ flagAt iw 5 = w ∧ reservedZero iw [(6, 1), (10, 5)] = true := by
  have h_d := d.isLt; have h_a := a.isLt; have h_k := k.isLt; have h_w := Bool.toNat_le w
  exact ⟨by omega, by omega, bits_eq (by omega), bits_eq (by omega), bits_eq (by omega), flag_eq (by omega), by simp only [reservedZero, List.all_cons, List.all_nil, Bool.and_true, Bool.and_eq_true, beq_iff_eq]; omega⟩

/-- The fields of a word of this shape. -/
theorem shape46 (a : BitVec 5) (M F : Nat) (_hM : M < 128) (_hF : F < 16) {iw : IWord}
    (hu : iw.toNat = a.toNat * 2 ^ 15 + (F * 2 ^ 0 + M * 2 ^ 25)) :
    iw.toNat / 2 ^ 25 % 128 = M ∧ iw.toNat / 2 ^ 0 % 16 = F ∧ bitsAt iw 15 5 = a ∧ reservedZero iw [(4, 11), (20, 5)] = true := by
  have h_a := a.isLt
  exact ⟨by omega, by omega, bits_eq (by omega), by simp only [reservedZero, List.all_cons, List.all_nil, Bool.and_true, Bool.and_eq_true, beq_iff_eq]; omega⟩

/-- The fields of a word of this shape. -/
theorem shape47 (d : BitVec 5) (a : BitVec 5) (b : BitVec 5) (z : Bool) (M F : Nat) (_hM : M < 128) (_hF : F < 16) {iw : IWord}
    (hu : iw.toNat = d.toNat * 2 ^ 20 + (a.toNat * 2 ^ 15 + (b.toNat * 2 ^ 10 + (z.toNat * 2 ^ 5 + (F * 2 ^ 0 + M * 2 ^ 25))))) :
    iw.toNat / 2 ^ 25 % 128 = M ∧ iw.toNat / 2 ^ 0 % 16 = F ∧ bitsAt iw 20 5 = d ∧ bitsAt iw 15 5 = a ∧ bitsAt iw 10 5 = b ∧ flagAt iw 5 = z ∧ reservedZero iw [(4, 1), (6, 4)] = true := by
  have h_d := d.isLt; have h_a := a.isLt; have h_b := b.isLt; have h_z := Bool.toNat_le z
  exact ⟨by omega, by omega, bits_eq (by omega), bits_eq (by omega), bits_eq (by omega), flag_eq (by omega), by simp only [reservedZero, List.all_cons, List.all_nil, Bool.and_true, Bool.and_eq_true, beq_iff_eq]; omega⟩

/-- The fields of a word of this shape. -/
theorem shape48 (d : BitVec 5) (a : BitVec 5) (l : BitVec 10) (M F : Nat) (_hM : M < 128) (_hF : F < 16) {iw : IWord}
    (hu : iw.toNat = d.toNat * 2 ^ 20 + (a.toNat * 2 ^ 15 + (l.toNat * 2 ^ 5 + (F * 2 ^ 0 + M * 2 ^ 25)))) :
    iw.toNat / 2 ^ 25 % 128 = M ∧ iw.toNat / 2 ^ 0 % 16 = F ∧ bitsAt iw 20 5 = d ∧ bitsAt iw 15 5 = a ∧ bitsAt iw 5 10 = l ∧ reservedZero iw [(4, 1)] = true := by
  have h_d := d.isLt; have h_a := a.isLt; have h_l := l.isLt
  exact ⟨by omega, by omega, bits_eq (by omega), bits_eq (by omega), bits_eq (by omega), by simp only [reservedZero, List.all_cons, List.all_nil, Bool.and_true, beq_iff_eq]; omega⟩

/-- The fields of a word of this shape. -/
theorem shape49 (d : BitVec 5) (a : BitVec 5) (u : Bool) (w : Bool) (M F : Nat) (_hM : M < 128) (_hF : F < 16) {iw : IWord}
    (hu : iw.toNat = d.toNat * 2 ^ 20 + (a.toNat * 2 ^ 15 + (u.toNat * 2 ^ 5 + (w.toNat * 2 ^ 4 + (F * 2 ^ 0 + M * 2 ^ 25))))) :
    iw.toNat / 2 ^ 25 % 128 = M ∧ iw.toNat / 2 ^ 0 % 16 = F ∧ bitsAt iw 20 5 = d ∧ bitsAt iw 15 5 = a ∧ flagAt iw 5 = u ∧ flagAt iw 4 = w ∧ reservedZero iw [(6, 9)] = true := by
  have h_d := d.isLt; have h_a := a.isLt; have h_u := Bool.toNat_le u; have h_w := Bool.toNat_le w
  exact ⟨by omega, by omega, bits_eq (by omega), bits_eq (by omega), flag_eq (by omega), flag_eq (by omega), by simp only [reservedZero, List.all_cons, List.all_nil, Bool.and_true, beq_iff_eq]; omega⟩

/-- The fields of a word of this shape. -/
theorem shape50 (d : BitVec 5) (a : BitVec 5) (u : Bool) (M F : Nat) (_hM : M < 128) (_hF : F < 16) {iw : IWord}
    (hu : iw.toNat = d.toNat * 2 ^ 20 + (a.toNat * 2 ^ 15 + (u.toNat * 2 ^ 5 + (F * 2 ^ 0 + M * 2 ^ 25)))) :
    iw.toNat / 2 ^ 25 % 128 = M ∧ iw.toNat / 2 ^ 0 % 16 = F ∧ bitsAt iw 20 5 = d ∧ bitsAt iw 15 5 = a ∧ flagAt iw 5 = u ∧ reservedZero iw [(4, 1), (6, 9)] = true := by
  have h_d := d.isLt; have h_a := a.isLt; have h_u := Bool.toNat_le u
  exact ⟨by omega, by omega, bits_eq (by omega), bits_eq (by omega), flag_eq (by omega), by simp only [reservedZero, List.all_cons, List.all_nil, Bool.and_true, Bool.and_eq_true, beq_iff_eq]; omega⟩

/-- The fields of a word of this shape. -/
theorem shape51 (h : BitVec 25) (M F : Nat) (_hM : M < 128) (_hF : F < 1) {iw : IWord}
    (hu : iw.toNat = h.toNat * 2 ^ 0 + (M * 2 ^ 25)) :
    iw.toNat / 2 ^ 25 % 128 = M ∧ bitsAt iw 0 25 = h := by
  have h_h := h.isLt
  exact ⟨by omega, bits_eq (by omega)⟩

/-- The fields of a word of this shape. -/
theorem shape52 (d : BitVec 5) (a : BitVec 5) (b : BitVec 5) (e : BitVec 3) (M F : Nat) (_hM : M < 128) (_hF : F < 1) {iw : IWord}
    (hu : iw.toNat = d.toNat * 2 ^ 20 + (a.toNat * 2 ^ 15 + (b.toNat * 2 ^ 10 + (e.toNat * 2 ^ 7 + (M * 2 ^ 25))))) :
    iw.toNat / 2 ^ 25 % 128 = M ∧ bitsAt iw 20 5 = d ∧ bitsAt iw 15 5 = a ∧ bitsAt iw 10 5 = b ∧ bitsAt iw 7 3 = e ∧ reservedZero iw [(0, 7)] = true := by
  have h_d := d.isLt; have h_a := a.isLt; have h_b := b.isLt; have h_e := e.isLt
  exact ⟨by omega, bits_eq (by omega), bits_eq (by omega), bits_eq (by omega), bits_eq (by omega), by simp only [reservedZero, List.all_cons, List.all_nil, Bool.and_true, beq_iff_eq]; omega⟩

/-- The fields of a word of this shape. -/
theorem shape53 (b : BitVec 5) (o : BitVec 10) (g : BitVec 2) (f : BitVec 5) (z : Bool) (M F : Nat) (_hM : M < 128) (_hF : F < 1) {iw : IWord}
    (hu : iw.toNat = b.toNat * 2 ^ 20 + (o.toNat * 2 ^ 10 + (g.toNat * 2 ^ 8 + (f.toNat * 2 ^ 3 + (z.toNat * 2 ^ 2 + (M * 2 ^ 25)))))) :
    iw.toNat / 2 ^ 25 % 128 = M ∧ bitsAt iw 20 5 = b ∧ bitsAt iw 10 10 = o ∧ bitsAt iw 8 2 = g ∧ bitsAt iw 3 5 = f ∧ flagAt iw 2 = z ∧ reservedZero iw [(0, 2)] = true := by
  have h_b := b.isLt; have h_o := o.isLt; have h_g := g.isLt; have h_f := f.isLt; have h_z := Bool.toNat_le z
  exact ⟨by omega, bits_eq (by omega), bits_eq (by omega), bits_eq (by omega), bits_eq (by omega), flag_eq (by omega), by simp only [reservedZero, List.all_cons, List.all_nil, Bool.and_true, beq_iff_eq]; omega⟩

/-- The fields of a word of this shape. -/
theorem shape54 (m : BitVec 3) (s : BitVec 2) (M F : Nat) (_hM : M < 128) (_hF : F < 1) {iw : IWord}
    (hu : iw.toNat = m.toNat * 2 ^ 22 + (s.toNat * 2 ^ 20 + (M * 2 ^ 25))) :
    iw.toNat / 2 ^ 25 % 128 = M ∧ bitsAt iw 22 3 = m ∧ bitsAt iw 20 2 = s ∧ reservedZero iw [(0, 20)] = true := by
  have h_m := m.isLt; have h_s := s.isLt
  exact ⟨by omega, bits_eq (by omega), bits_eq (by omega), by simp only [reservedZero, List.all_cons, List.all_nil, Bool.and_true, beq_iff_eq]; omega⟩

theorem RoundTrip.add (d : BitVec 5) (a : BitVec 5) (b : BitVec 5) (w : Bool) : RoundTrip.Statement (.add d a b w) := by
  have h_d := d.isLt; have h_a := a.isLt; have h_b := b.isLt; have h_w := Bool.toNat_le w
  refine roundTrip_of (d.toNat * 2 ^ 20 + (a.toNat * 2 ^ 15 + (b.toNat * 2 ^ 10 + (w.toNat * 2 ^ 4 + (0x00000000))))) rfl (by omega) (fun _ => ?_) fun iw hu => ?_
  · rename_i hf; intro e
    have e1 : d = 0 := by bv_omega
    have e2 : a = 0 := by bv_omega
    have e3 : b = 0 := by bv_omega
    have e4 : w = false := by cases w <;> simp_all
    subst e1 e2 e3 e4; exact absurd hf (by decide)
  · obtain ⟨h1, h2, f0, f1, f2, f3, r⟩ := shape00 d a b w 0x00 0 (by decide) (by decide) hu
    rw [decodeRaw_00 h1, decMajor00, h2]
    show (Except.ok (.add (bitsAt iw 20 5) (bitsAt iw 15 5) (bitsAt iw 10 5) (flagAt iw 4), reservedZero iw [(5, 5)]) : RawDecode) = _
    rw [f0, f1, f2, f3, r]

theorem RoundTrip.sub (d : BitVec 5) (a : BitVec 5) (b : BitVec 5) (w : Bool) : RoundTrip.Statement (.sub d a b w) := by
  have h_d := d.isLt; have h_a := a.isLt; have h_b := b.isLt; have h_w := Bool.toNat_le w
  refine roundTrip_of (d.toNat * 2 ^ 20 + (a.toNat * 2 ^ 15 + (b.toNat * 2 ^ 10 + (w.toNat * 2 ^ 4 + (0x00000001))))) rfl (by omega) (fun _ => by omega) fun iw hu => ?_
  obtain ⟨h1, h2, f0, f1, f2, f3, r⟩ := shape00 d a b w 0x00 1 (by decide) (by decide) hu
  rw [decodeRaw_00 h1, decMajor00, h2]
  show (Except.ok (.sub (bitsAt iw 20 5) (bitsAt iw 15 5) (bitsAt iw 10 5) (flagAt iw 4), reservedZero iw [(5, 5)]) : RawDecode) = _
  rw [f0, f1, f2, f3, r]

theorem RoundTrip.and (d : BitVec 5) (a : BitVec 5) (b : BitVec 5) (w : Bool) : RoundTrip.Statement (.and d a b w) := by
  have h_d := d.isLt; have h_a := a.isLt; have h_b := b.isLt; have h_w := Bool.toNat_le w
  refine roundTrip_of (d.toNat * 2 ^ 20 + (a.toNat * 2 ^ 15 + (b.toNat * 2 ^ 10 + (w.toNat * 2 ^ 4 + (0x00000002))))) rfl (by omega) (fun _ => by omega) fun iw hu => ?_
  obtain ⟨h1, h2, f0, f1, f2, f3, r⟩ := shape00 d a b w 0x00 2 (by decide) (by decide) hu
  rw [decodeRaw_00 h1, decMajor00, h2]
  show (Except.ok (.and (bitsAt iw 20 5) (bitsAt iw 15 5) (bitsAt iw 10 5) (flagAt iw 4), reservedZero iw [(5, 5)]) : RawDecode) = _
  rw [f0, f1, f2, f3, r]

theorem RoundTrip.or (d : BitVec 5) (a : BitVec 5) (b : BitVec 5) (w : Bool) : RoundTrip.Statement (.or d a b w) := by
  have h_d := d.isLt; have h_a := a.isLt; have h_b := b.isLt; have h_w := Bool.toNat_le w
  refine roundTrip_of (d.toNat * 2 ^ 20 + (a.toNat * 2 ^ 15 + (b.toNat * 2 ^ 10 + (w.toNat * 2 ^ 4 + (0x00000003))))) rfl (by omega) (fun _ => by omega) fun iw hu => ?_
  obtain ⟨h1, h2, f0, f1, f2, f3, r⟩ := shape00 d a b w 0x00 3 (by decide) (by decide) hu
  rw [decodeRaw_00 h1, decMajor00, h2]
  show (Except.ok (.or (bitsAt iw 20 5) (bitsAt iw 15 5) (bitsAt iw 10 5) (flagAt iw 4), reservedZero iw [(5, 5)]) : RawDecode) = _
  rw [f0, f1, f2, f3, r]

theorem RoundTrip.xor (d : BitVec 5) (a : BitVec 5) (b : BitVec 5) (w : Bool) : RoundTrip.Statement (.xor d a b w) := by
  have h_d := d.isLt; have h_a := a.isLt; have h_b := b.isLt; have h_w := Bool.toNat_le w
  refine roundTrip_of (d.toNat * 2 ^ 20 + (a.toNat * 2 ^ 15 + (b.toNat * 2 ^ 10 + (w.toNat * 2 ^ 4 + (0x00000004))))) rfl (by omega) (fun _ => by omega) fun iw hu => ?_
  obtain ⟨h1, h2, f0, f1, f2, f3, r⟩ := shape00 d a b w 0x00 4 (by decide) (by decide) hu
  rw [decodeRaw_00 h1, decMajor00, h2]
  show (Except.ok (.xor (bitsAt iw 20 5) (bitsAt iw 15 5) (bitsAt iw 10 5) (flagAt iw 4), reservedZero iw [(5, 5)]) : RawDecode) = _
  rw [f0, f1, f2, f3, r]

theorem RoundTrip.andn (d : BitVec 5) (a : BitVec 5) (b : BitVec 5) (w : Bool) : RoundTrip.Statement (.andn d a b w) := by
  have h_d := d.isLt; have h_a := a.isLt; have h_b := b.isLt; have h_w := Bool.toNat_le w
  refine roundTrip_of (d.toNat * 2 ^ 20 + (a.toNat * 2 ^ 15 + (b.toNat * 2 ^ 10 + (w.toNat * 2 ^ 4 + (0x00000005))))) rfl (by omega) (fun _ => by omega) fun iw hu => ?_
  obtain ⟨h1, h2, f0, f1, f2, f3, r⟩ := shape00 d a b w 0x00 5 (by decide) (by decide) hu
  rw [decodeRaw_00 h1, decMajor00, h2]
  show (Except.ok (.andn (bitsAt iw 20 5) (bitsAt iw 15 5) (bitsAt iw 10 5) (flagAt iw 4), reservedZero iw [(5, 5)]) : RawDecode) = _
  rw [f0, f1, f2, f3, r]

theorem RoundTrip.orn (d : BitVec 5) (a : BitVec 5) (b : BitVec 5) (w : Bool) : RoundTrip.Statement (.orn d a b w) := by
  have h_d := d.isLt; have h_a := a.isLt; have h_b := b.isLt; have h_w := Bool.toNat_le w
  refine roundTrip_of (d.toNat * 2 ^ 20 + (a.toNat * 2 ^ 15 + (b.toNat * 2 ^ 10 + (w.toNat * 2 ^ 4 + (0x00000006))))) rfl (by omega) (fun _ => by omega) fun iw hu => ?_
  obtain ⟨h1, h2, f0, f1, f2, f3, r⟩ := shape00 d a b w 0x00 6 (by decide) (by decide) hu
  rw [decodeRaw_00 h1, decMajor00, h2]
  show (Except.ok (.orn (bitsAt iw 20 5) (bitsAt iw 15 5) (bitsAt iw 10 5) (flagAt iw 4), reservedZero iw [(5, 5)]) : RawDecode) = _
  rw [f0, f1, f2, f3, r]

theorem RoundTrip.xnor (d : BitVec 5) (a : BitVec 5) (b : BitVec 5) (w : Bool) : RoundTrip.Statement (.xnor d a b w) := by
  have h_d := d.isLt; have h_a := a.isLt; have h_b := b.isLt; have h_w := Bool.toNat_le w
  refine roundTrip_of (d.toNat * 2 ^ 20 + (a.toNat * 2 ^ 15 + (b.toNat * 2 ^ 10 + (w.toNat * 2 ^ 4 + (0x00000007))))) rfl (by omega) (fun _ => by omega) fun iw hu => ?_
  obtain ⟨h1, h2, f0, f1, f2, f3, r⟩ := shape00 d a b w 0x00 7 (by decide) (by decide) hu
  rw [decodeRaw_00 h1, decMajor00, h2]
  show (Except.ok (.xnor (bitsAt iw 20 5) (bitsAt iw 15 5) (bitsAt iw 10 5) (flagAt iw 4), reservedZero iw [(5, 5)]) : RawDecode) = _
  rw [f0, f1, f2, f3, r]

theorem RoundTrip.sll (d : BitVec 5) (a : BitVec 5) (b : BitVec 5) (w : Bool) : RoundTrip.Statement (.sll d a b w) := by
  have h_d := d.isLt; have h_a := a.isLt; have h_b := b.isLt; have h_w := Bool.toNat_le w
  refine roundTrip_of (d.toNat * 2 ^ 20 + (a.toNat * 2 ^ 15 + (b.toNat * 2 ^ 10 + (w.toNat * 2 ^ 4 + (0x00000008))))) rfl (by omega) (fun _ => by omega) fun iw hu => ?_
  obtain ⟨h1, h2, f0, f1, f2, f3, r⟩ := shape00 d a b w 0x00 8 (by decide) (by decide) hu
  rw [decodeRaw_00 h1, decMajor00, h2]
  show (Except.ok (.sll (bitsAt iw 20 5) (bitsAt iw 15 5) (bitsAt iw 10 5) (flagAt iw 4), reservedZero iw [(5, 5)]) : RawDecode) = _
  rw [f0, f1, f2, f3, r]

theorem RoundTrip.srl (d : BitVec 5) (a : BitVec 5) (b : BitVec 5) (w : Bool) : RoundTrip.Statement (.srl d a b w) := by
  have h_d := d.isLt; have h_a := a.isLt; have h_b := b.isLt; have h_w := Bool.toNat_le w
  refine roundTrip_of (d.toNat * 2 ^ 20 + (a.toNat * 2 ^ 15 + (b.toNat * 2 ^ 10 + (w.toNat * 2 ^ 4 + (0x00000009))))) rfl (by omega) (fun _ => by omega) fun iw hu => ?_
  obtain ⟨h1, h2, f0, f1, f2, f3, r⟩ := shape00 d a b w 0x00 9 (by decide) (by decide) hu
  rw [decodeRaw_00 h1, decMajor00, h2]
  show (Except.ok (.srl (bitsAt iw 20 5) (bitsAt iw 15 5) (bitsAt iw 10 5) (flagAt iw 4), reservedZero iw [(5, 5)]) : RawDecode) = _
  rw [f0, f1, f2, f3, r]

theorem RoundTrip.sra (d : BitVec 5) (a : BitVec 5) (b : BitVec 5) (w : Bool) : RoundTrip.Statement (.sra d a b w) := by
  have h_d := d.isLt; have h_a := a.isLt; have h_b := b.isLt; have h_w := Bool.toNat_le w
  refine roundTrip_of (d.toNat * 2 ^ 20 + (a.toNat * 2 ^ 15 + (b.toNat * 2 ^ 10 + (w.toNat * 2 ^ 4 + (0x0000000A))))) rfl (by omega) (fun _ => by omega) fun iw hu => ?_
  obtain ⟨h1, h2, f0, f1, f2, f3, r⟩ := shape00 d a b w 0x00 10 (by decide) (by decide) hu
  rw [decodeRaw_00 h1, decMajor00, h2]
  show (Except.ok (.sra (bitsAt iw 20 5) (bitsAt iw 15 5) (bitsAt iw 10 5) (flagAt iw 4), reservedZero iw [(5, 5)]) : RawDecode) = _
  rw [f0, f1, f2, f3, r]

theorem RoundTrip.rol (d : BitVec 5) (a : BitVec 5) (b : BitVec 5) (w : Bool) : RoundTrip.Statement (.rol d a b w) := by
  have h_d := d.isLt; have h_a := a.isLt; have h_b := b.isLt; have h_w := Bool.toNat_le w
  refine roundTrip_of (d.toNat * 2 ^ 20 + (a.toNat * 2 ^ 15 + (b.toNat * 2 ^ 10 + (w.toNat * 2 ^ 4 + (0x0000000B))))) rfl (by omega) (fun _ => by omega) fun iw hu => ?_
  obtain ⟨h1, h2, f0, f1, f2, f3, r⟩ := shape00 d a b w 0x00 11 (by decide) (by decide) hu
  rw [decodeRaw_00 h1, decMajor00, h2]
  show (Except.ok (.rol (bitsAt iw 20 5) (bitsAt iw 15 5) (bitsAt iw 10 5) (flagAt iw 4), reservedZero iw [(5, 5)]) : RawDecode) = _
  rw [f0, f1, f2, f3, r]

theorem RoundTrip.ror (d : BitVec 5) (a : BitVec 5) (b : BitVec 5) (w : Bool) : RoundTrip.Statement (.ror d a b w) := by
  have h_d := d.isLt; have h_a := a.isLt; have h_b := b.isLt; have h_w := Bool.toNat_le w
  refine roundTrip_of (d.toNat * 2 ^ 20 + (a.toNat * 2 ^ 15 + (b.toNat * 2 ^ 10 + (w.toNat * 2 ^ 4 + (0x0000000C))))) rfl (by omega) (fun _ => by omega) fun iw hu => ?_
  obtain ⟨h1, h2, f0, f1, f2, f3, r⟩ := shape00 d a b w 0x00 12 (by decide) (by decide) hu
  rw [decodeRaw_00 h1, decMajor00, h2]
  show (Except.ok (.ror (bitsAt iw 20 5) (bitsAt iw 15 5) (bitsAt iw 10 5) (flagAt iw 4), reservedZero iw [(5, 5)]) : RawDecode) = _
  rw [f0, f1, f2, f3, r]

theorem RoundTrip.mul (d : BitVec 5) (a : BitVec 5) (b : BitVec 5) (w : Bool) : RoundTrip.Statement (.mul d a b w) := by
  have h_d := d.isLt; have h_a := a.isLt; have h_b := b.isLt; have h_w := Bool.toNat_le w
  refine roundTrip_of (d.toNat * 2 ^ 20 + (a.toNat * 2 ^ 15 + (b.toNat * 2 ^ 10 + (w.toNat * 2 ^ 4 + (0x02000000))))) rfl (by omega) (fun _ => by omega) fun iw hu => ?_
  obtain ⟨h1, h2, f0, f1, f2, f3, r⟩ := shape00 d a b w 0x01 0 (by decide) (by decide) hu
  rw [decodeRaw_01 h1, decMajor01, h2]
  show (Except.ok (.mul (bitsAt iw 20 5) (bitsAt iw 15 5) (bitsAt iw 10 5) (flagAt iw 4), reservedZero iw [(5, 5)]) : RawDecode) = _
  rw [f0, f1, f2, f3, r]

theorem RoundTrip.mulpS (d : BitVec 5) (a : BitVec 5) (b : BitVec 5) (w : Bool) : RoundTrip.Statement (.mulpS d a b w) := by
  have h_d := d.isLt; have h_a := a.isLt; have h_b := b.isLt; have h_w := Bool.toNat_le w
  refine roundTrip_of (d.toNat * 2 ^ 20 + (a.toNat * 2 ^ 15 + (b.toNat * 2 ^ 10 + (w.toNat * 2 ^ 4 + (0x02000001))))) rfl (by omega) (fun _ => by omega) fun iw hu => ?_
  obtain ⟨h1, h2, f0, f1, f2, f3, r⟩ := shape00 d a b w 0x01 1 (by decide) (by decide) hu
  rw [decodeRaw_01 h1, decMajor01, h2]
  show (Except.ok (.mulpS (bitsAt iw 20 5) (bitsAt iw 15 5) (bitsAt iw 10 5) (flagAt iw 4), reservedZero iw [(5, 5)]) : RawDecode) = _
  rw [f0, f1, f2, f3, r]

theorem RoundTrip.mulpU (d : BitVec 5) (a : BitVec 5) (b : BitVec 5) (w : Bool) : RoundTrip.Statement (.mulpU d a b w) := by
  have h_d := d.isLt; have h_a := a.isLt; have h_b := b.isLt; have h_w := Bool.toNat_le w
  refine roundTrip_of (d.toNat * 2 ^ 20 + (a.toNat * 2 ^ 15 + (b.toNat * 2 ^ 10 + (w.toNat * 2 ^ 4 + (0x02000002))))) rfl (by omega) (fun _ => by omega) fun iw hu => ?_
  obtain ⟨h1, h2, f0, f1, f2, f3, r⟩ := shape00 d a b w 0x01 2 (by decide) (by decide) hu
  rw [decodeRaw_01 h1, decMajor01, h2]
  show (Except.ok (.mulpU (bitsAt iw 20 5) (bitsAt iw 15 5) (bitsAt iw 10 5) (flagAt iw 4), reservedZero iw [(5, 5)]) : RawDecode) = _
  rw [f0, f1, f2, f3, r]

theorem RoundTrip.mulpSu (d : BitVec 5) (a : BitVec 5) (b : BitVec 5) (w : Bool) : RoundTrip.Statement (.mulpSu d a b w) := by
  have h_d := d.isLt; have h_a := a.isLt; have h_b := b.isLt; have h_w := Bool.toNat_le w
  refine roundTrip_of (d.toNat * 2 ^ 20 + (a.toNat * 2 ^ 15 + (b.toNat * 2 ^ 10 + (w.toNat * 2 ^ 4 + (0x02000003))))) rfl (by omega) (fun _ => by omega) fun iw hu => ?_
  obtain ⟨h1, h2, f0, f1, f2, f3, r⟩ := shape00 d a b w 0x01 3 (by decide) (by decide) hu
  rw [decodeRaw_01 h1, decMajor01, h2]
  show (Except.ok (.mulpSu (bitsAt iw 20 5) (bitsAt iw 15 5) (bitsAt iw 10 5) (flagAt iw 4), reservedZero iw [(5, 5)]) : RawDecode) = _
  rw [f0, f1, f2, f3, r]

theorem RoundTrip.divqS (d : BitVec 5) (a : BitVec 5) (b : BitVec 5) (w : Bool) : RoundTrip.Statement (.divqS d a b w) := by
  have h_d := d.isLt; have h_a := a.isLt; have h_b := b.isLt; have h_w := Bool.toNat_le w
  refine roundTrip_of (d.toNat * 2 ^ 20 + (a.toNat * 2 ^ 15 + (b.toNat * 2 ^ 10 + (w.toNat * 2 ^ 4 + (0x02000004))))) rfl (by omega) (fun _ => by omega) fun iw hu => ?_
  obtain ⟨h1, h2, f0, f1, f2, f3, r⟩ := shape00 d a b w 0x01 4 (by decide) (by decide) hu
  rw [decodeRaw_01 h1, decMajor01, h2]
  show (Except.ok (.divqS (bitsAt iw 20 5) (bitsAt iw 15 5) (bitsAt iw 10 5) (flagAt iw 4), reservedZero iw [(5, 5)]) : RawDecode) = _
  rw [f0, f1, f2, f3, r]

theorem RoundTrip.divqU (d : BitVec 5) (a : BitVec 5) (b : BitVec 5) (w : Bool) : RoundTrip.Statement (.divqU d a b w) := by
  have h_d := d.isLt; have h_a := a.isLt; have h_b := b.isLt; have h_w := Bool.toNat_le w
  refine roundTrip_of (d.toNat * 2 ^ 20 + (a.toNat * 2 ^ 15 + (b.toNat * 2 ^ 10 + (w.toNat * 2 ^ 4 + (0x02000005))))) rfl (by omega) (fun _ => by omega) fun iw hu => ?_
  obtain ⟨h1, h2, f0, f1, f2, f3, r⟩ := shape00 d a b w 0x01 5 (by decide) (by decide) hu
  rw [decodeRaw_01 h1, decMajor01, h2]
  show (Except.ok (.divqU (bitsAt iw 20 5) (bitsAt iw 15 5) (bitsAt iw 10 5) (flagAt iw 4), reservedZero iw [(5, 5)]) : RawDecode) = _
  rw [f0, f1, f2, f3, r]

theorem RoundTrip.divqF (d : BitVec 5) (a : BitVec 5) (b : BitVec 5) (w : Bool) : RoundTrip.Statement (.divqF d a b w) := by
  have h_d := d.isLt; have h_a := a.isLt; have h_b := b.isLt; have h_w := Bool.toNat_le w
  refine roundTrip_of (d.toNat * 2 ^ 20 + (a.toNat * 2 ^ 15 + (b.toNat * 2 ^ 10 + (w.toNat * 2 ^ 4 + (0x02000006))))) rfl (by omega) (fun _ => by omega) fun iw hu => ?_
  obtain ⟨h1, h2, f0, f1, f2, f3, r⟩ := shape00 d a b w 0x01 6 (by decide) (by decide) hu
  rw [decodeRaw_01 h1, decMajor01, h2]
  show (Except.ok (.divqF (bitsAt iw 20 5) (bitsAt iw 15 5) (bitsAt iw 10 5) (flagAt iw 4), reservedZero iw [(5, 5)]) : RawDecode) = _
  rw [f0, f1, f2, f3, r]

theorem RoundTrip.min (d : BitVec 5) (a : BitVec 5) (b : BitVec 5) (w : Bool) : RoundTrip.Statement (.min d a b w) := by
  have h_d := d.isLt; have h_a := a.isLt; have h_b := b.isLt; have h_w := Bool.toNat_le w
  refine roundTrip_of (d.toNat * 2 ^ 20 + (a.toNat * 2 ^ 15 + (b.toNat * 2 ^ 10 + (w.toNat * 2 ^ 4 + (0x02000008))))) rfl (by omega) (fun _ => by omega) fun iw hu => ?_
  obtain ⟨h1, h2, f0, f1, f2, f3, r⟩ := shape00 d a b w 0x01 8 (by decide) (by decide) hu
  rw [decodeRaw_01 h1, decMajor01, h2]
  show (Except.ok (.min (bitsAt iw 20 5) (bitsAt iw 15 5) (bitsAt iw 10 5) (flagAt iw 4), reservedZero iw [(5, 5)]) : RawDecode) = _
  rw [f0, f1, f2, f3, r]

theorem RoundTrip.max (d : BitVec 5) (a : BitVec 5) (b : BitVec 5) (w : Bool) : RoundTrip.Statement (.max d a b w) := by
  have h_d := d.isLt; have h_a := a.isLt; have h_b := b.isLt; have h_w := Bool.toNat_le w
  refine roundTrip_of (d.toNat * 2 ^ 20 + (a.toNat * 2 ^ 15 + (b.toNat * 2 ^ 10 + (w.toNat * 2 ^ 4 + (0x02000009))))) rfl (by omega) (fun _ => by omega) fun iw hu => ?_
  obtain ⟨h1, h2, f0, f1, f2, f3, r⟩ := shape00 d a b w 0x01 9 (by decide) (by decide) hu
  rw [decodeRaw_01 h1, decMajor01, h2]
  show (Except.ok (.max (bitsAt iw 20 5) (bitsAt iw 15 5) (bitsAt iw 10 5) (flagAt iw 4), reservedZero iw [(5, 5)]) : RawDecode) = _
  rw [f0, f1, f2, f3, r]

theorem RoundTrip.minu (d : BitVec 5) (a : BitVec 5) (b : BitVec 5) (w : Bool) : RoundTrip.Statement (.minu d a b w) := by
  have h_d := d.isLt; have h_a := a.isLt; have h_b := b.isLt; have h_w := Bool.toNat_le w
  refine roundTrip_of (d.toNat * 2 ^ 20 + (a.toNat * 2 ^ 15 + (b.toNat * 2 ^ 10 + (w.toNat * 2 ^ 4 + (0x0200000A))))) rfl (by omega) (fun _ => by omega) fun iw hu => ?_
  obtain ⟨h1, h2, f0, f1, f2, f3, r⟩ := shape00 d a b w 0x01 10 (by decide) (by decide) hu
  rw [decodeRaw_01 h1, decMajor01, h2]
  show (Except.ok (.minu (bitsAt iw 20 5) (bitsAt iw 15 5) (bitsAt iw 10 5) (flagAt iw 4), reservedZero iw [(5, 5)]) : RawDecode) = _
  rw [f0, f1, f2, f3, r]

theorem RoundTrip.maxu (d : BitVec 5) (a : BitVec 5) (b : BitVec 5) (w : Bool) : RoundTrip.Statement (.maxu d a b w) := by
  have h_d := d.isLt; have h_a := a.isLt; have h_b := b.isLt; have h_w := Bool.toNat_le w
  refine roundTrip_of (d.toNat * 2 ^ 20 + (a.toNat * 2 ^ 15 + (b.toNat * 2 ^ 10 + (w.toNat * 2 ^ 4 + (0x0200000B))))) rfl (by omega) (fun _ => by omega) fun iw hu => ?_
  obtain ⟨h1, h2, f0, f1, f2, f3, r⟩ := shape00 d a b w 0x01 11 (by decide) (by decide) hu
  rw [decodeRaw_01 h1, decMajor01, h2]
  show (Except.ok (.maxu (bitsAt iw 20 5) (bitsAt iw 15 5) (bitsAt iw 10 5) (flagAt iw 4), reservedZero iw [(5, 5)]) : RawDecode) = _
  rw [f0, f1, f2, f3, r]

theorem RoundTrip.bfx (d : BitVec 5) (a : BitVec 5) (b : BitVec 5) (w : Bool) : RoundTrip.Statement (.bfx d a b w) := by
  have h_d := d.isLt; have h_a := a.isLt; have h_b := b.isLt; have h_w := Bool.toNat_le w
  refine roundTrip_of (d.toNat * 2 ^ 20 + (a.toNat * 2 ^ 15 + (b.toNat * 2 ^ 10 + (w.toNat * 2 ^ 4 + (0x04000000))))) rfl (by omega) (fun _ => by omega) fun iw hu => ?_
  obtain ⟨h1, h2, f0, f1, f2, f3, r⟩ := shape00 d a b w 0x02 0 (by decide) (by decide) hu
  rw [decodeRaw_02 h1, decMajor02, h2]
  show (Except.ok (.bfx (bitsAt iw 20 5) (bitsAt iw 15 5) (bitsAt iw 10 5) (flagAt iw 4), reservedZero iw [(5, 5)]) : RawDecode) = _
  rw [f0, f1, f2, f3, r]

theorem RoundTrip.bfxu (d : BitVec 5) (a : BitVec 5) (b : BitVec 5) (w : Bool) : RoundTrip.Statement (.bfxu d a b w) := by
  have h_d := d.isLt; have h_a := a.isLt; have h_b := b.isLt; have h_w := Bool.toNat_le w
  refine roundTrip_of (d.toNat * 2 ^ 20 + (a.toNat * 2 ^ 15 + (b.toNat * 2 ^ 10 + (w.toNat * 2 ^ 4 + (0x04000001))))) rfl (by omega) (fun _ => by omega) fun iw hu => ?_
  obtain ⟨h1, h2, f0, f1, f2, f3, r⟩ := shape00 d a b w 0x02 1 (by decide) (by decide) hu
  rw [decodeRaw_02 h1, decMajor02, h2]
  show (Except.ok (.bfxu (bitsAt iw 20 5) (bitsAt iw 15 5) (bitsAt iw 10 5) (flagAt iw 4), reservedZero iw [(5, 5)]) : RawDecode) = _
  rw [f0, f1, f2, f3, r]

theorem RoundTrip.bfi (d : BitVec 5) (a : BitVec 5) (b : BitVec 5) (w : Bool) : RoundTrip.Statement (.bfi d a b w) := by
  have h_d := d.isLt; have h_a := a.isLt; have h_b := b.isLt; have h_w := Bool.toNat_le w
  refine roundTrip_of (d.toNat * 2 ^ 20 + (a.toNat * 2 ^ 15 + (b.toNat * 2 ^ 10 + (w.toNat * 2 ^ 4 + (0x04000002))))) rfl (by omega) (fun _ => by omega) fun iw hu => ?_
  obtain ⟨h1, h2, f0, f1, f2, f3, r⟩ := shape00 d a b w 0x02 2 (by decide) (by decide) hu
  rw [decodeRaw_02 h1, decMajor02, h2]
  show (Except.ok (.bfi (bitsAt iw 20 5) (bitsAt iw 15 5) (bitsAt iw 10 5) (flagAt iw 4), reservedZero iw [(5, 5)]) : RawDecode) = _
  rw [f0, f1, f2, f3, r]

theorem RoundTrip.clz (d : BitVec 5) (a : BitVec 5) (w : Bool) : RoundTrip.Statement (.clz d a w) := by
  have h_d := d.isLt; have h_a := a.isLt; have h_w := Bool.toNat_le w
  refine roundTrip_of (d.toNat * 2 ^ 20 + (a.toNat * 2 ^ 15 + (w.toNat * 2 ^ 4 + (0x04000003)))) rfl (by omega) (fun _ => by omega) fun iw hu => ?_
  obtain ⟨h1, h2, f0, f1, f2, r⟩ := shape01 d a w 0x02 3 (by decide) (by decide) hu
  rw [decodeRaw_02 h1, decMajor02, h2]
  show (Except.ok (.clz (bitsAt iw 20 5) (bitsAt iw 15 5) (flagAt iw 4), reservedZero iw [(5, 10)]) : RawDecode) = _
  rw [f0, f1, f2, r]

theorem RoundTrip.ctz (d : BitVec 5) (a : BitVec 5) (w : Bool) : RoundTrip.Statement (.ctz d a w) := by
  have h_d := d.isLt; have h_a := a.isLt; have h_w := Bool.toNat_le w
  refine roundTrip_of (d.toNat * 2 ^ 20 + (a.toNat * 2 ^ 15 + (w.toNat * 2 ^ 4 + (0x04000004)))) rfl (by omega) (fun _ => by omega) fun iw hu => ?_
  obtain ⟨h1, h2, f0, f1, f2, r⟩ := shape01 d a w 0x02 4 (by decide) (by decide) hu
  rw [decodeRaw_02 h1, decMajor02, h2]
  show (Except.ok (.ctz (bitsAt iw 20 5) (bitsAt iw 15 5) (flagAt iw 4), reservedZero iw [(5, 10)]) : RawDecode) = _
  rw [f0, f1, f2, r]

theorem RoundTrip.popc (d : BitVec 5) (a : BitVec 5) (w : Bool) : RoundTrip.Statement (.popc d a w) := by
  have h_d := d.isLt; have h_a := a.isLt; have h_w := Bool.toNat_le w
  refine roundTrip_of (d.toNat * 2 ^ 20 + (a.toNat * 2 ^ 15 + (w.toNat * 2 ^ 4 + (0x04000005)))) rfl (by omega) (fun _ => by omega) fun iw hu => ?_
  obtain ⟨h1, h2, f0, f1, f2, r⟩ := shape01 d a w 0x02 5 (by decide) (by decide) hu
  rw [decodeRaw_02 h1, decMajor02, h2]
  show (Except.ok (.popc (bitsAt iw 20 5) (bitsAt iw 15 5) (flagAt iw 4), reservedZero iw [(5, 10)]) : RawDecode) = _
  rw [f0, f1, f2, r]

theorem RoundTrip.brev (d : BitVec 5) (a : BitVec 5) (w : Bool) : RoundTrip.Statement (.brev d a w) := by
  have h_d := d.isLt; have h_a := a.isLt; have h_w := Bool.toNat_le w
  refine roundTrip_of (d.toNat * 2 ^ 20 + (a.toNat * 2 ^ 15 + (w.toNat * 2 ^ 4 + (0x04000006)))) rfl (by omega) (fun _ => by omega) fun iw hu => ?_
  obtain ⟨h1, h2, f0, f1, f2, r⟩ := shape01 d a w 0x02 6 (by decide) (by decide) hu
  rw [decodeRaw_02 h1, decMajor02, h2]
  show (Except.ok (.brev (bitsAt iw 20 5) (bitsAt iw 15 5) (flagAt iw 4), reservedZero iw [(5, 10)]) : RawDecode) = _
  rw [f0, f1, f2, r]

theorem RoundTrip.bswap (d : BitVec 5) (a : BitVec 5) (w : Bool) : RoundTrip.Statement (.bswap d a w) := by
  have h_d := d.isLt; have h_a := a.isLt; have h_w := Bool.toNat_le w
  refine roundTrip_of (d.toNat * 2 ^ 20 + (a.toNat * 2 ^ 15 + (w.toNat * 2 ^ 4 + (0x04000007)))) rfl (by omega) (fun _ => by omega) fun iw hu => ?_
  obtain ⟨h1, h2, f0, f1, f2, r⟩ := shape01 d a w 0x02 7 (by decide) (by decide) hu
  rw [decodeRaw_02 h1, decMajor02, h2]
  show (Except.ok (.bswap (bitsAt iw 20 5) (bitsAt iw 15 5) (flagAt iw 4), reservedZero iw [(5, 10)]) : RawDecode) = _
  rw [f0, f1, f2, r]

theorem RoundTrip.seq (d : BitVec 5) (a : BitVec 5) (b : BitVec 5) (w : Bool) : RoundTrip.Statement (.seq d a b w) := by
  have h_d := d.isLt; have h_a := a.isLt; have h_b := b.isLt; have h_w := Bool.toNat_le w
  refine roundTrip_of (d.toNat * 2 ^ 20 + (a.toNat * 2 ^ 15 + (b.toNat * 2 ^ 10 + (w.toNat * 2 ^ 4 + (0x06000000))))) rfl (by omega) (fun _ => by omega) fun iw hu => ?_
  obtain ⟨h1, h2, f0, f1, f2, f3, r⟩ := shape00 d a b w 0x03 0 (by decide) (by decide) hu
  rw [decodeRaw_03 h1, decMajor03, h2]
  show (Except.ok (.seq (bitsAt iw 20 5) (bitsAt iw 15 5) (bitsAt iw 10 5) (flagAt iw 4), reservedZero iw [(5, 5)]) : RawDecode) = _
  rw [f0, f1, f2, f3, r]

theorem RoundTrip.sne (d : BitVec 5) (a : BitVec 5) (b : BitVec 5) (w : Bool) : RoundTrip.Statement (.sne d a b w) := by
  have h_d := d.isLt; have h_a := a.isLt; have h_b := b.isLt; have h_w := Bool.toNat_le w
  refine roundTrip_of (d.toNat * 2 ^ 20 + (a.toNat * 2 ^ 15 + (b.toNat * 2 ^ 10 + (w.toNat * 2 ^ 4 + (0x06000001))))) rfl (by omega) (fun _ => by omega) fun iw hu => ?_
  obtain ⟨h1, h2, f0, f1, f2, f3, r⟩ := shape00 d a b w 0x03 1 (by decide) (by decide) hu
  rw [decodeRaw_03 h1, decMajor03, h2]
  show (Except.ok (.sne (bitsAt iw 20 5) (bitsAt iw 15 5) (bitsAt iw 10 5) (flagAt iw 4), reservedZero iw [(5, 5)]) : RawDecode) = _
  rw [f0, f1, f2, f3, r]

theorem RoundTrip.slt (d : BitVec 5) (a : BitVec 5) (b : BitVec 5) (w : Bool) : RoundTrip.Statement (.slt d a b w) := by
  have h_d := d.isLt; have h_a := a.isLt; have h_b := b.isLt; have h_w := Bool.toNat_le w
  refine roundTrip_of (d.toNat * 2 ^ 20 + (a.toNat * 2 ^ 15 + (b.toNat * 2 ^ 10 + (w.toNat * 2 ^ 4 + (0x06000002))))) rfl (by omega) (fun _ => by omega) fun iw hu => ?_
  obtain ⟨h1, h2, f0, f1, f2, f3, r⟩ := shape00 d a b w 0x03 2 (by decide) (by decide) hu
  rw [decodeRaw_03 h1, decMajor03, h2]
  show (Except.ok (.slt (bitsAt iw 20 5) (bitsAt iw 15 5) (bitsAt iw 10 5) (flagAt iw 4), reservedZero iw [(5, 5)]) : RawDecode) = _
  rw [f0, f1, f2, f3, r]

theorem RoundTrip.sge (d : BitVec 5) (a : BitVec 5) (b : BitVec 5) (w : Bool) : RoundTrip.Statement (.sge d a b w) := by
  have h_d := d.isLt; have h_a := a.isLt; have h_b := b.isLt; have h_w := Bool.toNat_le w
  refine roundTrip_of (d.toNat * 2 ^ 20 + (a.toNat * 2 ^ 15 + (b.toNat * 2 ^ 10 + (w.toNat * 2 ^ 4 + (0x06000003))))) rfl (by omega) (fun _ => by omega) fun iw hu => ?_
  obtain ⟨h1, h2, f0, f1, f2, f3, r⟩ := shape00 d a b w 0x03 3 (by decide) (by decide) hu
  rw [decodeRaw_03 h1, decMajor03, h2]
  show (Except.ok (.sge (bitsAt iw 20 5) (bitsAt iw 15 5) (bitsAt iw 10 5) (flagAt iw 4), reservedZero iw [(5, 5)]) : RawDecode) = _
  rw [f0, f1, f2, f3, r]

theorem RoundTrip.sltu (d : BitVec 5) (a : BitVec 5) (b : BitVec 5) (w : Bool) : RoundTrip.Statement (.sltu d a b w) := by
  have h_d := d.isLt; have h_a := a.isLt; have h_b := b.isLt; have h_w := Bool.toNat_le w
  refine roundTrip_of (d.toNat * 2 ^ 20 + (a.toNat * 2 ^ 15 + (b.toNat * 2 ^ 10 + (w.toNat * 2 ^ 4 + (0x06000004))))) rfl (by omega) (fun _ => by omega) fun iw hu => ?_
  obtain ⟨h1, h2, f0, f1, f2, f3, r⟩ := shape00 d a b w 0x03 4 (by decide) (by decide) hu
  rw [decodeRaw_03 h1, decMajor03, h2]
  show (Except.ok (.sltu (bitsAt iw 20 5) (bitsAt iw 15 5) (bitsAt iw 10 5) (flagAt iw 4), reservedZero iw [(5, 5)]) : RawDecode) = _
  rw [f0, f1, f2, f3, r]

theorem RoundTrip.sgeu (d : BitVec 5) (a : BitVec 5) (b : BitVec 5) (w : Bool) : RoundTrip.Statement (.sgeu d a b w) := by
  have h_d := d.isLt; have h_a := a.isLt; have h_b := b.isLt; have h_w := Bool.toNat_le w
  refine roundTrip_of (d.toNat * 2 ^ 20 + (a.toNat * 2 ^ 15 + (b.toNat * 2 ^ 10 + (w.toNat * 2 ^ 4 + (0x06000005))))) rfl (by omega) (fun _ => by omega) fun iw hu => ?_
  obtain ⟨h1, h2, f0, f1, f2, f3, r⟩ := shape00 d a b w 0x03 5 (by decide) (by decide) hu
  rw [decodeRaw_03 h1, decMajor03, h2]
  show (Except.ok (.sgeu (bitsAt iw 20 5) (bitsAt iw 15 5) (bitsAt iw 10 5) (flagAt iw 4), reservedZero iw [(5, 5)]) : RawDecode) = _
  rw [f0, f1, f2, f3, r]

theorem RoundTrip.sel (d : BitVec 5) (a : BitVec 5) (b : BitVec 5) (c : BitVec 5) (w : Bool) : RoundTrip.Statement (.sel d a b c w) := by
  have h_d := d.isLt; have h_a := a.isLt; have h_b := b.isLt; have h_c := c.isLt; have h_w := Bool.toNat_le w
  refine roundTrip_of (d.toNat * 2 ^ 20 + (a.toNat * 2 ^ 15 + (b.toNat * 2 ^ 10 + (c.toNat * 2 ^ 5 + (w.toNat * 2 ^ 4 + (0x06000008)))))) rfl (by omega) (fun _ => by omega) fun iw hu => ?_
  obtain ⟨h1, h2, f0, f1, f2, f3, f4⟩ := shape02 d a b c w 0x03 8 (by decide) (by decide) hu
  rw [decodeRaw_03 h1, decMajor03, h2]
  show (Except.ok (.sel (bitsAt iw 20 5) (bitsAt iw 15 5) (bitsAt iw 10 5) (bitsAt iw 5 5) (flagAt iw 4), true) : RawDecode) = _
  rw [f0, f1, f2, f3, f4]

theorem RoundTrip.addi (w : Bool) (d : BitVec 5) (a : BitVec 5) (i : BitVec 15) : RoundTrip.Statement (.addi w d a i) := by
  have h_w := Bool.toNat_le w; have h_d := d.isLt; have h_a := a.isLt; have h_i := i.isLt
  refine roundTrip_of (w.toNat * 2 ^ 25 + (d.toNat * 2 ^ 20 + (a.toNat * 2 ^ 15 + (i.toNat * 2 ^ 0 + (0x08000000))))) rfl (by omega) (fun _ => by omega) fun iw hu => ?_
  cases w <;> simp only [Bool.toNat_true, Bool.toNat_false] at hu h_w
  · have h1 : iw.toNat / 2 ^ 25 % 128 = 0x04 := by omega
    have f0 : flagAt iw 25 = false := flag_eq (by show _ = 0; omega)
    have f1 : bitsAt iw 20 5 = d := bits_eq (by omega)
    have f2 : bitsAt iw 15 5 = a := bits_eq (by omega)
    have f3 : bitsAt iw 0 15 = i := bits_eq (by omega)
    rw [decodeRaw_04 h1, decMajor04]
    show (Except.ok (.addi (flagAt iw 25) (bitsAt iw 20 5) (bitsAt iw 15 5) (bitsAt iw 0 15), true) : RawDecode) = _
    rw [f0, f1, f2, f3]
  · have h1 : iw.toNat / 2 ^ 25 % 128 = 0x05 := by omega
    have f0 : flagAt iw 25 = true := flag_eq (by show _ = 1; omega)
    have f1 : bitsAt iw 20 5 = d := bits_eq (by omega)
    have f2 : bitsAt iw 15 5 = a := bits_eq (by omega)
    have f3 : bitsAt iw 0 15 = i := bits_eq (by omega)
    rw [decodeRaw_05 h1, decMajor04]
    show (Except.ok (.addi (flagAt iw 25) (bitsAt iw 20 5) (bitsAt iw 15 5) (bitsAt iw 0 15), true) : RawDecode) = _
    rw [f0, f1, f2, f3]

theorem RoundTrip.andi (w : Bool) (d : BitVec 5) (a : BitVec 5) (i : BitVec 15) : RoundTrip.Statement (.andi w d a i) := by
  have h_w := Bool.toNat_le w; have h_d := d.isLt; have h_a := a.isLt; have h_i := i.isLt
  refine roundTrip_of (w.toNat * 2 ^ 25 + (d.toNat * 2 ^ 20 + (a.toNat * 2 ^ 15 + (i.toNat * 2 ^ 0 + (0x0C000000))))) rfl (by omega) (fun _ => by omega) fun iw hu => ?_
  cases w <;> simp only [Bool.toNat_true, Bool.toNat_false] at hu h_w
  · have h1 : iw.toNat / 2 ^ 25 % 128 = 0x06 := by omega
    have f0 : flagAt iw 25 = false := flag_eq (by show _ = 0; omega)
    have f1 : bitsAt iw 20 5 = d := bits_eq (by omega)
    have f2 : bitsAt iw 15 5 = a := bits_eq (by omega)
    have f3 : bitsAt iw 0 15 = i := bits_eq (by omega)
    rw [decodeRaw_06 h1, decMajor06]
    show (Except.ok (.andi (flagAt iw 25) (bitsAt iw 20 5) (bitsAt iw 15 5) (bitsAt iw 0 15), true) : RawDecode) = _
    rw [f0, f1, f2, f3]
  · have h1 : iw.toNat / 2 ^ 25 % 128 = 0x07 := by omega
    have f0 : flagAt iw 25 = true := flag_eq (by show _ = 1; omega)
    have f1 : bitsAt iw 20 5 = d := bits_eq (by omega)
    have f2 : bitsAt iw 15 5 = a := bits_eq (by omega)
    have f3 : bitsAt iw 0 15 = i := bits_eq (by omega)
    rw [decodeRaw_07 h1, decMajor06]
    show (Except.ok (.andi (flagAt iw 25) (bitsAt iw 20 5) (bitsAt iw 15 5) (bitsAt iw 0 15), true) : RawDecode) = _
    rw [f0, f1, f2, f3]

theorem RoundTrip.ori (w : Bool) (d : BitVec 5) (a : BitVec 5) (i : BitVec 15) : RoundTrip.Statement (.ori w d a i) := by
  have h_w := Bool.toNat_le w; have h_d := d.isLt; have h_a := a.isLt; have h_i := i.isLt
  refine roundTrip_of (w.toNat * 2 ^ 25 + (d.toNat * 2 ^ 20 + (a.toNat * 2 ^ 15 + (i.toNat * 2 ^ 0 + (0x10000000))))) rfl (by omega) (fun _ => by omega) fun iw hu => ?_
  cases w <;> simp only [Bool.toNat_true, Bool.toNat_false] at hu h_w
  · have h1 : iw.toNat / 2 ^ 25 % 128 = 0x08 := by omega
    have f0 : flagAt iw 25 = false := flag_eq (by show _ = 0; omega)
    have f1 : bitsAt iw 20 5 = d := bits_eq (by omega)
    have f2 : bitsAt iw 15 5 = a := bits_eq (by omega)
    have f3 : bitsAt iw 0 15 = i := bits_eq (by omega)
    rw [decodeRaw_08 h1, decMajor08]
    show (Except.ok (.ori (flagAt iw 25) (bitsAt iw 20 5) (bitsAt iw 15 5) (bitsAt iw 0 15), true) : RawDecode) = _
    rw [f0, f1, f2, f3]
  · have h1 : iw.toNat / 2 ^ 25 % 128 = 0x09 := by omega
    have f0 : flagAt iw 25 = true := flag_eq (by show _ = 1; omega)
    have f1 : bitsAt iw 20 5 = d := bits_eq (by omega)
    have f2 : bitsAt iw 15 5 = a := bits_eq (by omega)
    have f3 : bitsAt iw 0 15 = i := bits_eq (by omega)
    rw [decodeRaw_09 h1, decMajor08]
    show (Except.ok (.ori (flagAt iw 25) (bitsAt iw 20 5) (bitsAt iw 15 5) (bitsAt iw 0 15), true) : RawDecode) = _
    rw [f0, f1, f2, f3]

theorem RoundTrip.xori (w : Bool) (d : BitVec 5) (a : BitVec 5) (i : BitVec 15) : RoundTrip.Statement (.xori w d a i) := by
  have h_w := Bool.toNat_le w; have h_d := d.isLt; have h_a := a.isLt; have h_i := i.isLt
  refine roundTrip_of (w.toNat * 2 ^ 25 + (d.toNat * 2 ^ 20 + (a.toNat * 2 ^ 15 + (i.toNat * 2 ^ 0 + (0x14000000))))) rfl (by omega) (fun _ => by omega) fun iw hu => ?_
  cases w <;> simp only [Bool.toNat_true, Bool.toNat_false] at hu h_w
  · have h1 : iw.toNat / 2 ^ 25 % 128 = 0x0A := by omega
    have f0 : flagAt iw 25 = false := flag_eq (by show _ = 0; omega)
    have f1 : bitsAt iw 20 5 = d := bits_eq (by omega)
    have f2 : bitsAt iw 15 5 = a := bits_eq (by omega)
    have f3 : bitsAt iw 0 15 = i := bits_eq (by omega)
    rw [decodeRaw_0A h1, decMajor0A]
    show (Except.ok (.xori (flagAt iw 25) (bitsAt iw 20 5) (bitsAt iw 15 5) (bitsAt iw 0 15), true) : RawDecode) = _
    rw [f0, f1, f2, f3]
  · have h1 : iw.toNat / 2 ^ 25 % 128 = 0x0B := by omega
    have f0 : flagAt iw 25 = true := flag_eq (by show _ = 1; omega)
    have f1 : bitsAt iw 20 5 = d := bits_eq (by omega)
    have f2 : bitsAt iw 15 5 = a := bits_eq (by omega)
    have f3 : bitsAt iw 0 15 = i := bits_eq (by omega)
    rw [decodeRaw_0B h1, decMajor0A]
    show (Except.ok (.xori (flagAt iw 25) (bitsAt iw 20 5) (bitsAt iw 15 5) (bitsAt iw 0 15), true) : RawDecode) = _
    rw [f0, f1, f2, f3]

theorem RoundTrip.slli (w : Bool) (d : BitVec 5) (a : BitVec 5) (s : BitVec 6) : RoundTrip.Statement (.slli w d a s) := by
  have h_w := Bool.toNat_le w; have h_d := d.isLt; have h_a := a.isLt; have h_s := s.isLt
  refine roundTrip_of (w.toNat * 2 ^ 25 + (d.toNat * 2 ^ 20 + (a.toNat * 2 ^ 15 + (s.toNat * 2 ^ 0 + (0x18000000))))) rfl (by omega) (fun _ => by omega) fun iw hu => ?_
  cases w <;> simp only [Bool.toNat_true, Bool.toNat_false] at hu h_w
  · have h1 : iw.toNat / 2 ^ 25 % 128 = 0x0C := by omega
    have h2 : iw.toNat / 2 ^ 13 % 4 = 0 := by omega
    have f0 : flagAt iw 25 = false := flag_eq (by show _ = 0; omega)
    have f1 : bitsAt iw 20 5 = d := bits_eq (by omega)
    have f2 : bitsAt iw 15 5 = a := bits_eq (by omega)
    have f3 : bitsAt iw 0 6 = s := bits_eq (by omega)
    have r : reservedZero iw [(6, 7)] = true := by simp only [reservedZero, List.all_cons, List.all_nil, Bool.and_true, beq_iff_eq]; omega
    rw [decodeRaw_0C h1, decMajor0C, h2]
    show (Except.ok (.slli (flagAt iw 25) (bitsAt iw 20 5) (bitsAt iw 15 5) (bitsAt iw 0 6), reservedZero iw [(6, 7)]) : RawDecode) = _
    rw [f0, f1, f2, f3, r]
  · have h1 : iw.toNat / 2 ^ 25 % 128 = 0x0D := by omega
    have h2 : iw.toNat / 2 ^ 13 % 4 = 0 := by omega
    have f0 : flagAt iw 25 = true := flag_eq (by show _ = 1; omega)
    have f1 : bitsAt iw 20 5 = d := bits_eq (by omega)
    have f2 : bitsAt iw 15 5 = a := bits_eq (by omega)
    have f3 : bitsAt iw 0 6 = s := bits_eq (by omega)
    have r : reservedZero iw [(6, 7)] = true := by simp only [reservedZero, List.all_cons, List.all_nil, Bool.and_true, beq_iff_eq]; omega
    rw [decodeRaw_0D h1, decMajor0C, h2]
    show (Except.ok (.slli (flagAt iw 25) (bitsAt iw 20 5) (bitsAt iw 15 5) (bitsAt iw 0 6), reservedZero iw [(6, 7)]) : RawDecode) = _
    rw [f0, f1, f2, f3, r]

theorem RoundTrip.srli (w : Bool) (d : BitVec 5) (a : BitVec 5) (s : BitVec 6) : RoundTrip.Statement (.srli w d a s) := by
  have h_w := Bool.toNat_le w; have h_d := d.isLt; have h_a := a.isLt; have h_s := s.isLt
  refine roundTrip_of (w.toNat * 2 ^ 25 + (d.toNat * 2 ^ 20 + (a.toNat * 2 ^ 15 + (s.toNat * 2 ^ 0 + (0x18002000))))) rfl (by omega) (fun _ => by omega) fun iw hu => ?_
  cases w <;> simp only [Bool.toNat_true, Bool.toNat_false] at hu h_w
  · have h1 : iw.toNat / 2 ^ 25 % 128 = 0x0C := by omega
    have h2 : iw.toNat / 2 ^ 13 % 4 = 1 := by omega
    have f0 : flagAt iw 25 = false := flag_eq (by show _ = 0; omega)
    have f1 : bitsAt iw 20 5 = d := bits_eq (by omega)
    have f2 : bitsAt iw 15 5 = a := bits_eq (by omega)
    have f3 : bitsAt iw 0 6 = s := bits_eq (by omega)
    have r : reservedZero iw [(6, 7)] = true := by simp only [reservedZero, List.all_cons, List.all_nil, Bool.and_true, beq_iff_eq]; omega
    rw [decodeRaw_0C h1, decMajor0C, h2]
    show (Except.ok (.srli (flagAt iw 25) (bitsAt iw 20 5) (bitsAt iw 15 5) (bitsAt iw 0 6), reservedZero iw [(6, 7)]) : RawDecode) = _
    rw [f0, f1, f2, f3, r]
  · have h1 : iw.toNat / 2 ^ 25 % 128 = 0x0D := by omega
    have h2 : iw.toNat / 2 ^ 13 % 4 = 1 := by omega
    have f0 : flagAt iw 25 = true := flag_eq (by show _ = 1; omega)
    have f1 : bitsAt iw 20 5 = d := bits_eq (by omega)
    have f2 : bitsAt iw 15 5 = a := bits_eq (by omega)
    have f3 : bitsAt iw 0 6 = s := bits_eq (by omega)
    have r : reservedZero iw [(6, 7)] = true := by simp only [reservedZero, List.all_cons, List.all_nil, Bool.and_true, beq_iff_eq]; omega
    rw [decodeRaw_0D h1, decMajor0C, h2]
    show (Except.ok (.srli (flagAt iw 25) (bitsAt iw 20 5) (bitsAt iw 15 5) (bitsAt iw 0 6), reservedZero iw [(6, 7)]) : RawDecode) = _
    rw [f0, f1, f2, f3, r]

theorem RoundTrip.srai (w : Bool) (d : BitVec 5) (a : BitVec 5) (s : BitVec 6) : RoundTrip.Statement (.srai w d a s) := by
  have h_w := Bool.toNat_le w; have h_d := d.isLt; have h_a := a.isLt; have h_s := s.isLt
  refine roundTrip_of (w.toNat * 2 ^ 25 + (d.toNat * 2 ^ 20 + (a.toNat * 2 ^ 15 + (s.toNat * 2 ^ 0 + (0x18004000))))) rfl (by omega) (fun _ => by omega) fun iw hu => ?_
  cases w <;> simp only [Bool.toNat_true, Bool.toNat_false] at hu h_w
  · have h1 : iw.toNat / 2 ^ 25 % 128 = 0x0C := by omega
    have h2 : iw.toNat / 2 ^ 13 % 4 = 2 := by omega
    have f0 : flagAt iw 25 = false := flag_eq (by show _ = 0; omega)
    have f1 : bitsAt iw 20 5 = d := bits_eq (by omega)
    have f2 : bitsAt iw 15 5 = a := bits_eq (by omega)
    have f3 : bitsAt iw 0 6 = s := bits_eq (by omega)
    have r : reservedZero iw [(6, 7)] = true := by simp only [reservedZero, List.all_cons, List.all_nil, Bool.and_true, beq_iff_eq]; omega
    rw [decodeRaw_0C h1, decMajor0C, h2]
    show (Except.ok (.srai (flagAt iw 25) (bitsAt iw 20 5) (bitsAt iw 15 5) (bitsAt iw 0 6), reservedZero iw [(6, 7)]) : RawDecode) = _
    rw [f0, f1, f2, f3, r]
  · have h1 : iw.toNat / 2 ^ 25 % 128 = 0x0D := by omega
    have h2 : iw.toNat / 2 ^ 13 % 4 = 2 := by omega
    have f0 : flagAt iw 25 = true := flag_eq (by show _ = 1; omega)
    have f1 : bitsAt iw 20 5 = d := bits_eq (by omega)
    have f2 : bitsAt iw 15 5 = a := bits_eq (by omega)
    have f3 : bitsAt iw 0 6 = s := bits_eq (by omega)
    have r : reservedZero iw [(6, 7)] = true := by simp only [reservedZero, List.all_cons, List.all_nil, Bool.and_true, beq_iff_eq]; omega
    rw [decodeRaw_0D h1, decMajor0C, h2]
    show (Except.ok (.srai (flagAt iw 25) (bitsAt iw 20 5) (bitsAt iw 15 5) (bitsAt iw 0 6), reservedZero iw [(6, 7)]) : RawDecode) = _
    rw [f0, f1, f2, f3, r]

theorem RoundTrip.slti (w : Bool) (d : BitVec 5) (a : BitVec 5) (i : BitVec 15) : RoundTrip.Statement (.slti w d a i) := by
  have h_w := Bool.toNat_le w; have h_d := d.isLt; have h_a := a.isLt; have h_i := i.isLt
  refine roundTrip_of (w.toNat * 2 ^ 25 + (d.toNat * 2 ^ 20 + (a.toNat * 2 ^ 15 + (i.toNat * 2 ^ 0 + (0x1C000000))))) rfl (by omega) (fun _ => by omega) fun iw hu => ?_
  cases w <;> simp only [Bool.toNat_true, Bool.toNat_false] at hu h_w
  · have h1 : iw.toNat / 2 ^ 25 % 128 = 0x0E := by omega
    have f0 : flagAt iw 25 = false := flag_eq (by show _ = 0; omega)
    have f1 : bitsAt iw 20 5 = d := bits_eq (by omega)
    have f2 : bitsAt iw 15 5 = a := bits_eq (by omega)
    have f3 : bitsAt iw 0 15 = i := bits_eq (by omega)
    rw [decodeRaw_0E h1, decMajor0E]
    show (Except.ok (.slti (flagAt iw 25) (bitsAt iw 20 5) (bitsAt iw 15 5) (bitsAt iw 0 15), true) : RawDecode) = _
    rw [f0, f1, f2, f3]
  · have h1 : iw.toNat / 2 ^ 25 % 128 = 0x0F := by omega
    have f0 : flagAt iw 25 = true := flag_eq (by show _ = 1; omega)
    have f1 : bitsAt iw 20 5 = d := bits_eq (by omega)
    have f2 : bitsAt iw 15 5 = a := bits_eq (by omega)
    have f3 : bitsAt iw 0 15 = i := bits_eq (by omega)
    rw [decodeRaw_0F h1, decMajor0E]
    show (Except.ok (.slti (flagAt iw 25) (bitsAt iw 20 5) (bitsAt iw 15 5) (bitsAt iw 0 15), true) : RawDecode) = _
    rw [f0, f1, f2, f3]

theorem RoundTrip.sltiu (w : Bool) (d : BitVec 5) (a : BitVec 5) (i : BitVec 15) : RoundTrip.Statement (.sltiu w d a i) := by
  have h_w := Bool.toNat_le w; have h_d := d.isLt; have h_a := a.isLt; have h_i := i.isLt
  refine roundTrip_of (w.toNat * 2 ^ 25 + (d.toNat * 2 ^ 20 + (a.toNat * 2 ^ 15 + (i.toNat * 2 ^ 0 + (0x20000000))))) rfl (by omega) (fun _ => by omega) fun iw hu => ?_
  cases w <;> simp only [Bool.toNat_true, Bool.toNat_false] at hu h_w
  · have h1 : iw.toNat / 2 ^ 25 % 128 = 0x10 := by omega
    have f0 : flagAt iw 25 = false := flag_eq (by show _ = 0; omega)
    have f1 : bitsAt iw 20 5 = d := bits_eq (by omega)
    have f2 : bitsAt iw 15 5 = a := bits_eq (by omega)
    have f3 : bitsAt iw 0 15 = i := bits_eq (by omega)
    rw [decodeRaw_10 h1, decMajor10]
    show (Except.ok (.sltiu (flagAt iw 25) (bitsAt iw 20 5) (bitsAt iw 15 5) (bitsAt iw 0 15), true) : RawDecode) = _
    rw [f0, f1, f2, f3]
  · have h1 : iw.toNat / 2 ^ 25 % 128 = 0x11 := by omega
    have f0 : flagAt iw 25 = true := flag_eq (by show _ = 1; omega)
    have f1 : bitsAt iw 20 5 = d := bits_eq (by omega)
    have f2 : bitsAt iw 15 5 = a := bits_eq (by omega)
    have f3 : bitsAt iw 0 15 = i := bits_eq (by omega)
    rw [decodeRaw_11 h1, decMajor10]
    show (Except.ok (.sltiu (flagAt iw 25) (bitsAt iw 20 5) (bitsAt iw 15 5) (bitsAt iw 0 15), true) : RawDecode) = _
    rw [f0, f1, f2, f3]

theorem RoundTrip.li (d : BitVec 5) (i : BitVec 15) : RoundTrip.Statement (.li d i) := by
  have h_d := d.isLt; have h_i := i.isLt
  refine roundTrip_of (d.toNat * 2 ^ 20 + (i.toNat * 2 ^ 0 + (0x24000000))) rfl (by omega) (fun _ => by omega) fun iw hu => ?_
  obtain ⟨h1, f0, f1, r⟩ := shape03 d i 0x12 0 (by decide) (by decide) hu
  rw [decodeRaw_12 h1, decMajor12]
  show (Except.ok (.li (bitsAt iw 20 5) (bitsAt iw 0 15), reservedZero iw [(15, 5)]) : RawDecode) = _
  rw [f0, f1, r]

theorem RoundTrip.liu (d : BitVec 5) (i : BitVec 15) : RoundTrip.Statement (.liu d i) := by
  have h_d := d.isLt; have h_i := i.isLt
  refine roundTrip_of (d.toNat * 2 ^ 20 + (i.toNat * 2 ^ 0 + (0x26000000))) rfl (by omega) (fun _ => by omega) fun iw hu => ?_
  obtain ⟨h1, f0, f1, r⟩ := shape03 d i 0x13 0 (by decide) (by decide) hu
  rw [decodeRaw_13 h1, decMajor13]
  show (Except.ok (.liu (bitsAt iw 20 5) (bitsAt iw 0 15), reservedZero iw [(15, 5)]) : RawDecode) = _
  rw [f0, f1, r]

theorem RoundTrip.fadd (d : BitVec 5) (a : BitVec 5) (b : BitVec 5) : RoundTrip.Statement (.fadd d a b) := by
  have h_d := d.isLt; have h_a := a.isLt; have h_b := b.isLt
  refine roundTrip_of (d.toNat * 2 ^ 20 + (a.toNat * 2 ^ 15 + (b.toNat * 2 ^ 10 + (0x28000000)))) rfl (by omega) (fun _ => by omega) fun iw hu => ?_
  obtain ⟨h1, h2, f0, f1, f2, r⟩ := shape04 d a b 0x14 0 (by decide) (by decide) hu
  rw [decodeRaw_14 h1, decMajor14, h2]
  show (Except.ok (.fadd (bitsAt iw 20 5) (bitsAt iw 15 5) (bitsAt iw 10 5), reservedZero iw [(4, 6)]) : RawDecode) = _
  rw [f0, f1, f2, r]

theorem RoundTrip.fsub (d : BitVec 5) (a : BitVec 5) (b : BitVec 5) : RoundTrip.Statement (.fsub d a b) := by
  have h_d := d.isLt; have h_a := a.isLt; have h_b := b.isLt
  refine roundTrip_of (d.toNat * 2 ^ 20 + (a.toNat * 2 ^ 15 + (b.toNat * 2 ^ 10 + (0x28000001)))) rfl (by omega) (fun _ => by omega) fun iw hu => ?_
  obtain ⟨h1, h2, f0, f1, f2, r⟩ := shape04 d a b 0x14 1 (by decide) (by decide) hu
  rw [decodeRaw_14 h1, decMajor14, h2]
  show (Except.ok (.fsub (bitsAt iw 20 5) (bitsAt iw 15 5) (bitsAt iw 10 5), reservedZero iw [(4, 6)]) : RawDecode) = _
  rw [f0, f1, f2, r]

theorem RoundTrip.fmul (d : BitVec 5) (a : BitVec 5) (b : BitVec 5) : RoundTrip.Statement (.fmul d a b) := by
  have h_d := d.isLt; have h_a := a.isLt; have h_b := b.isLt
  refine roundTrip_of (d.toNat * 2 ^ 20 + (a.toNat * 2 ^ 15 + (b.toNat * 2 ^ 10 + (0x28000002)))) rfl (by omega) (fun _ => by omega) fun iw hu => ?_
  obtain ⟨h1, h2, f0, f1, f2, r⟩ := shape04 d a b 0x14 2 (by decide) (by decide) hu
  rw [decodeRaw_14 h1, decMajor14, h2]
  show (Except.ok (.fmul (bitsAt iw 20 5) (bitsAt iw 15 5) (bitsAt iw 10 5), reservedZero iw [(4, 6)]) : RawDecode) = _
  rw [f0, f1, f2, r]

theorem RoundTrip.ffma (d : BitVec 5) (a : BitVec 5) (b : BitVec 5) (c : BitVec 5) : RoundTrip.Statement (.ffma d a b c) := by
  have h_d := d.isLt; have h_a := a.isLt; have h_b := b.isLt; have h_c := c.isLt
  refine roundTrip_of (d.toNat * 2 ^ 20 + (a.toNat * 2 ^ 15 + (b.toNat * 2 ^ 10 + (c.toNat * 2 ^ 5 + (0x28000003))))) rfl (by omega) (fun _ => by omega) fun iw hu => ?_
  obtain ⟨h1, h2, f0, f1, f2, f3, r⟩ := shape05 d a b c 0x14 3 (by decide) (by decide) hu
  rw [decodeRaw_14 h1, decMajor14, h2]
  show (Except.ok (.ffma (bitsAt iw 20 5) (bitsAt iw 15 5) (bitsAt iw 10 5) (bitsAt iw 5 5), reservedZero iw [(4, 1)]) : RawDecode) = _
  rw [f0, f1, f2, f3, r]

theorem RoundTrip.fmin (d : BitVec 5) (a : BitVec 5) (b : BitVec 5) : RoundTrip.Statement (.fmin d a b) := by
  have h_d := d.isLt; have h_a := a.isLt; have h_b := b.isLt
  refine roundTrip_of (d.toNat * 2 ^ 20 + (a.toNat * 2 ^ 15 + (b.toNat * 2 ^ 10 + (0x28000004)))) rfl (by omega) (fun _ => by omega) fun iw hu => ?_
  obtain ⟨h1, h2, f0, f1, f2, r⟩ := shape04 d a b 0x14 4 (by decide) (by decide) hu
  rw [decodeRaw_14 h1, decMajor14, h2]
  show (Except.ok (.fmin (bitsAt iw 20 5) (bitsAt iw 15 5) (bitsAt iw 10 5), reservedZero iw [(4, 6)]) : RawDecode) = _
  rw [f0, f1, f2, r]

theorem RoundTrip.fmax (d : BitVec 5) (a : BitVec 5) (b : BitVec 5) : RoundTrip.Statement (.fmax d a b) := by
  have h_d := d.isLt; have h_a := a.isLt; have h_b := b.isLt
  refine roundTrip_of (d.toNat * 2 ^ 20 + (a.toNat * 2 ^ 15 + (b.toNat * 2 ^ 10 + (0x28000005)))) rfl (by omega) (fun _ => by omega) fun iw hu => ?_
  obtain ⟨h1, h2, f0, f1, f2, r⟩ := shape04 d a b 0x14 5 (by decide) (by decide) hu
  rw [decodeRaw_14 h1, decMajor14, h2]
  show (Except.ok (.fmax (bitsAt iw 20 5) (bitsAt iw 15 5) (bitsAt iw 10 5), reservedZero iw [(4, 6)]) : RawDecode) = _
  rw [f0, f1, f2, r]

theorem RoundTrip.fneg (d : BitVec 5) (a : BitVec 5) : RoundTrip.Statement (.fneg d a) := by
  have h_d := d.isLt; have h_a := a.isLt
  refine roundTrip_of (d.toNat * 2 ^ 20 + (a.toNat * 2 ^ 15 + (0x28000006))) rfl (by omega) (fun _ => by omega) fun iw hu => ?_
  obtain ⟨h1, h2, f0, f1, r⟩ := shape06 d a 0x14 6 (by decide) (by decide) hu
  rw [decodeRaw_14 h1, decMajor14, h2]
  show (Except.ok (.fneg (bitsAt iw 20 5) (bitsAt iw 15 5), reservedZero iw [(4, 11)]) : RawDecode) = _
  rw [f0, f1, r]

theorem RoundTrip.fabs (d : BitVec 5) (a : BitVec 5) : RoundTrip.Statement (.fabs d a) := by
  have h_d := d.isLt; have h_a := a.isLt
  refine roundTrip_of (d.toNat * 2 ^ 20 + (a.toNat * 2 ^ 15 + (0x28000007))) rfl (by omega) (fun _ => by omega) fun iw hu => ?_
  obtain ⟨h1, h2, f0, f1, r⟩ := shape06 d a 0x14 7 (by decide) (by decide) hu
  rw [decodeRaw_14 h1, decMajor14, h2]
  show (Except.ok (.fabs (bitsAt iw 20 5) (bitsAt iw 15 5), reservedZero iw [(4, 11)]) : RawDecode) = _
  rw [f0, f1, r]

theorem RoundTrip.fmov (d : BitVec 5) (a : BitVec 5) : RoundTrip.Statement (.fmov d a) := by
  have h_d := d.isLt; have h_a := a.isLt
  refine roundTrip_of (d.toNat * 2 ^ 20 + (a.toNat * 2 ^ 15 + (0x28000008))) rfl (by omega) (fun _ => by omega) fun iw hu => ?_
  obtain ⟨h1, h2, f0, f1, r⟩ := shape06 d a 0x14 8 (by decide) (by decide) hu
  rw [decodeRaw_14 h1, decMajor14, h2]
  show (Except.ok (.fmov (bitsAt iw 20 5) (bitsAt iw 15 5), reservedZero iw [(4, 11)]) : RawDecode) = _
  rw [f0, f1, r]

theorem RoundTrip.fcvtSF (d : BitVec 5) (a : BitVec 5) : RoundTrip.Statement (.fcvtSF d a) := by
  have h_d := d.isLt; have h_a := a.isLt
  refine roundTrip_of (d.toNat * 2 ^ 20 + (a.toNat * 2 ^ 15 + (0x28000009))) rfl (by omega) (fun _ => by omega) fun iw hu => ?_
  obtain ⟨h1, h2, f0, f1, r⟩ := shape06 d a 0x14 9 (by decide) (by decide) hu
  rw [decodeRaw_14 h1, decMajor14, h2]
  show (Except.ok (.fcvtSF (bitsAt iw 20 5) (bitsAt iw 15 5), reservedZero iw [(4, 11)]) : RawDecode) = _
  rw [f0, f1, r]

theorem RoundTrip.fcvtFS (d : BitVec 5) (a : BitVec 5) (w : Bool) : RoundTrip.Statement (.fcvtFS d a w) := by
  have h_d := d.isLt; have h_a := a.isLt; have h_w := Bool.toNat_le w
  refine roundTrip_of (d.toNat * 2 ^ 20 + (a.toNat * 2 ^ 15 + (w.toNat * 2 ^ 4 + (0x2800000A)))) rfl (by omega) (fun _ => by omega) fun iw hu => ?_
  obtain ⟨h1, h2, f0, f1, f2, r⟩ := shape01 d a w 0x14 10 (by decide) (by decide) hu
  rw [decodeRaw_14 h1, decMajor14, h2]
  show (Except.ok (.fcvtFS (bitsAt iw 20 5) (bitsAt iw 15 5) (flagAt iw 4), reservedZero iw [(5, 10)]) : RawDecode) = _
  rw [f0, f1, f2, r]

theorem RoundTrip.feq (d : BitVec 5) (a : BitVec 5) (b : BitVec 5) : RoundTrip.Statement (.feq d a b) := by
  have h_d := d.isLt; have h_a := a.isLt; have h_b := b.isLt
  refine roundTrip_of (d.toNat * 2 ^ 20 + (a.toNat * 2 ^ 15 + (b.toNat * 2 ^ 10 + (0x2800000B)))) rfl (by omega) (fun _ => by omega) fun iw hu => ?_
  obtain ⟨h1, h2, f0, f1, f2, r⟩ := shape04 d a b 0x14 11 (by decide) (by decide) hu
  rw [decodeRaw_14 h1, decMajor14, h2]
  show (Except.ok (.feq (bitsAt iw 20 5) (bitsAt iw 15 5) (bitsAt iw 10 5), reservedZero iw [(4, 6)]) : RawDecode) = _
  rw [f0, f1, f2, r]

theorem RoundTrip.flt (d : BitVec 5) (a : BitVec 5) (b : BitVec 5) : RoundTrip.Statement (.flt d a b) := by
  have h_d := d.isLt; have h_a := a.isLt; have h_b := b.isLt
  refine roundTrip_of (d.toNat * 2 ^ 20 + (a.toNat * 2 ^ 15 + (b.toNat * 2 ^ 10 + (0x2800000C)))) rfl (by omega) (fun _ => by omega) fun iw hu => ?_
  obtain ⟨h1, h2, f0, f1, f2, r⟩ := shape04 d a b 0x14 12 (by decide) (by decide) hu
  rw [decodeRaw_14 h1, decMajor14, h2]
  show (Except.ok (.flt (bitsAt iw 20 5) (bitsAt iw 15 5) (bitsAt iw 10 5), reservedZero iw [(4, 6)]) : RawDecode) = _
  rw [f0, f1, f2, r]

theorem RoundTrip.fle (d : BitVec 5) (a : BitVec 5) (b : BitVec 5) : RoundTrip.Statement (.fle d a b) := by
  have h_d := d.isLt; have h_a := a.isLt; have h_b := b.isLt
  refine roundTrip_of (d.toNat * 2 ^ 20 + (a.toNat * 2 ^ 15 + (b.toNat * 2 ^ 10 + (0x2800000D)))) rfl (by omega) (fun _ => by omega) fun iw hu => ?_
  obtain ⟨h1, h2, f0, f1, f2, r⟩ := shape04 d a b 0x14 13 (by decide) (by decide) hu
  rw [decodeRaw_14 h1, decMajor14, h2]
  show (Except.ok (.fle (bitsAt iw 20 5) (bitsAt iw 15 5) (bitsAt iw 10 5), reservedZero iw [(4, 6)]) : RawDecode) = _
  rw [f0, f1, f2, r]

theorem RoundTrip.fmvSF (d : BitVec 5) (a : BitVec 5) : RoundTrip.Statement (.fmvSF d a) := by
  have h_d := d.isLt; have h_a := a.isLt
  refine roundTrip_of (d.toNat * 2 ^ 20 + (a.toNat * 2 ^ 15 + (0x2800000E))) rfl (by omega) (fun _ => by omega) fun iw hu => ?_
  obtain ⟨h1, h2, f0, f1, r⟩ := shape06 d a 0x14 14 (by decide) (by decide) hu
  rw [decodeRaw_14 h1, decMajor14, h2]
  show (Except.ok (.fmvSF (bitsAt iw 20 5) (bitsAt iw 15 5), reservedZero iw [(4, 11)]) : RawDecode) = _
  rw [f0, f1, r]

theorem RoundTrip.fmvFS (d : BitVec 5) (a : BitVec 5) (w : Bool) : RoundTrip.Statement (.fmvFS d a w) := by
  have h_d := d.isLt; have h_a := a.isLt; have h_w := Bool.toNat_le w
  refine roundTrip_of (d.toNat * 2 ^ 20 + (a.toNat * 2 ^ 15 + (w.toNat * 2 ^ 4 + (0x2800000F)))) rfl (by omega) (fun _ => by omega) fun iw hu => ?_
  obtain ⟨h1, h2, f0, f1, f2, r⟩ := shape01 d a w 0x14 15 (by decide) (by decide) hu
  rw [decodeRaw_14 h1, decMajor14, h2]
  show (Except.ok (.fmvFS (bitsAt iw 20 5) (bitsAt iw 15 5) (flagAt iw 4), reservedZero iw [(5, 10)]) : RawDecode) = _
  rw [f0, f1, f2, r]

theorem RoundTrip.bCond (a : BitVec 5) (b : BitVec 5) (c : BitVec 3) (t : BitVec 6) (w : Bool) (p : Bool) : RoundTrip.Statement (.bCond a b c t w p) := by
  have h_a := a.isLt; have h_b := b.isLt; have h_c := c.isLt; have h_t := t.isLt; have h_w := Bool.toNat_le w; have h_p := Bool.toNat_le p
  refine roundTrip_of (a.toNat * 2 ^ 20 + (b.toNat * 2 ^ 15 + (c.toNat * 2 ^ 12 + (t.toNat * 2 ^ 6 + (w.toNat * 2 ^ 5 + (p.toNat * 2 ^ 4 + (0x40000000))))))) rfl (by omega) (fun _ => by omega) fun iw hu => ?_
  obtain ⟨h1, f0, f1, f2, f3, f4, f5, r⟩ := shape07 a b c t w p 0x20 0 (by decide) (by decide) hu
  rw [decodeRaw_20 h1, decMajor20]
  show (Except.ok (.bCond (bitsAt iw 20 5) (bitsAt iw 15 5) (bitsAt iw 12 3) (bitsAt iw 6 6) (flagAt iw 5) (flagAt iw 4), reservedZero iw [(0, 4)]) : RawDecode) = _
  rw [f0, f1, f2, f3, f4, f5, r]

theorem RoundTrip.loop (a : BitVec 5) (t : BitVec 6) (w : Bool) (p : Bool) : RoundTrip.Statement (.loop a t w p) := by
  have h_a := a.isLt; have h_t := t.isLt; have h_w := Bool.toNat_le w; have h_p := Bool.toNat_le p
  refine roundTrip_of (a.toNat * 2 ^ 20 + (t.toNat * 2 ^ 6 + (w.toNat * 2 ^ 5 + (p.toNat * 2 ^ 4 + (0x42000000))))) rfl (by omega) (fun _ => by omega) fun iw hu => ?_
  obtain ⟨h1, f0, f1, f2, f3, r⟩ := shape08 a t w p 0x21 0 (by decide) (by decide) hu
  rw [decodeRaw_21 h1, decMajor21]
  show (Except.ok (.loop (bitsAt iw 20 5) (bitsAt iw 6 6) (flagAt iw 5) (flagAt iw 4), reservedZero iw [(0, 4), (12, 8)]) : RawDecode) = _
  rw [f0, f1, f2, f3, r]

theorem RoundTrip.jmp (t : BitVec 6) (p : Bool) : RoundTrip.Statement (.jmp t p) := by
  have h_t := t.isLt; have h_p := Bool.toNat_le p
  refine roundTrip_of (t.toNat * 2 ^ 6 + (p.toNat * 2 ^ 4 + (0x44000000))) rfl (by omega) (fun _ => by omega) fun iw hu => ?_
  obtain ⟨h1, f0, f1, r⟩ := shape09 t p 0x22 0 (by decide) (by decide) hu
  rw [decodeRaw_22 h1, decMajor22]
  show (Except.ok (.jmp (bitsAt iw 6 6) (flagAt iw 4), reservedZero iw [(0, 4), (5, 1), (12, 13)]) : RawDecode) = _
  rw [f0, f1, r]

theorem RoundTrip.next (h : BitVec 15) : RoundTrip.Statement (.next h) := by
  have h_h := h.isLt
  refine roundTrip_of (h.toNat * 2 ^ 0 + (0x46000000)) rfl (by omega) (fun _ => by omega) fun iw hu => ?_
  obtain ⟨h1, f0, r⟩ := shape10 h 0x23 0 (by decide) (by decide) hu
  rw [decodeRaw_23 h1, decMajor23]
  show (Except.ok (.next (bitsAt iw 0 15), reservedZero iw [(15, 10)]) : RawDecode) = _
  rw [f0, r]

theorem RoundTrip.call (d : BitVec 5) (h : BitVec 15) : RoundTrip.Statement (.call d h) := by
  have h_d := d.isLt; have h_h := h.isLt
  refine roundTrip_of (d.toNat * 2 ^ 20 + (h.toNat * 2 ^ 0 + (0x48000000))) rfl (by omega) (fun _ => by omega) fun iw hu => ?_
  obtain ⟨h1, f0, f1, r⟩ := shape11 d h 0x24 0 (by decide) (by decide) hu
  rw [decodeRaw_24 h1, decMajor24]
  show (Except.ok (.call (bitsAt iw 20 5) (bitsAt iw 0 15), reservedZero iw [(15, 5)]) : RawDecode) = _
  rw [f0, f1, r]

theorem RoundTrip.ret (a : BitVec 5) (w : Bool) : RoundTrip.Statement (.ret a w) := by
  have h_a := a.isLt; have h_w := Bool.toNat_le w
  refine roundTrip_of (a.toNat * 2 ^ 15 + (w.toNat * 2 ^ 4 + (0x4A000000))) rfl (by omega) (fun _ => by omega) fun iw hu => ?_
  obtain ⟨h1, h2, f0, f1, r⟩ := shape12 a w 0x25 0 (by decide) (by decide) hu
  rw [decodeRaw_25 h1, decMajor25, h2]
  show (Except.ok (.ret (bitsAt iw 15 5) (flagAt iw 4), reservedZero iw [(5, 10), (20, 5)]) : RawDecode) = _
  rw [f0, f1, r]

theorem RoundTrip.done  : RoundTrip.Statement (.done) := by
  refine roundTrip_of (0x4A000001) rfl (by omega) (fun _ => by omega) fun iw hu => ?_
  obtain ⟨h1, h2, r⟩ := shape13 0x25 1 (by decide) (by decide) hu
  rw [decodeRaw_25 h1, decMajor25, h2]
  show (Except.ok (.done, reservedZero iw [(4, 21)]) : RawDecode) = _
  rw [r]

theorem RoundTrip.yield  : RoundTrip.Statement (.yield) := by
  refine roundTrip_of (0x4A000002) rfl (by omega) (fun _ => by omega) fun iw hu => ?_
  obtain ⟨h1, h2, r⟩ := shape13 0x25 2 (by decide) (by decide) hu
  rw [decodeRaw_25 h1, decMajor25, h2]
  show (Except.ok (.yield, reservedZero iw [(4, 21)]) : RawDecode) = _
  rw [r]

theorem RoundTrip.tret  : RoundTrip.Statement (.tret) := by
  refine roundTrip_of (0x4A000003) rfl (by omega) (fun _ => by omega) fun iw hu => ?_
  obtain ⟨h1, h2, r⟩ := shape13 0x25 3 (by decide) (by decide) hu
  rw [decodeRaw_25 h1, decMajor25, h2]
  show (Except.ok (.tret, reservedZero iw [(4, 21)]) : RawDecode) = _
  rw [r]

theorem RoundTrip.nop  : RoundTrip.Statement (.nop) := by
  refine roundTrip_of (0x4A000004) rfl (by omega) (fun _ => by omega) fun iw hu => ?_
  obtain ⟨h1, h2, r⟩ := shape13 0x25 4 (by decide) (by decide) hu
  rw [decodeRaw_25 h1, decMajor25, h2]
  show (Except.ok (.nop, reservedZero iw [(4, 21)]) : RawDecode) = _
  rw [r]

theorem RoundTrip.trap (n : BitVec 10) : RoundTrip.Statement (.trap n) := by
  have h_n := n.isLt
  refine roundTrip_of (n.toNat * 2 ^ 5 + (0x4A000005)) rfl (by omega) (fun _ => by omega) fun iw hu => ?_
  obtain ⟨h1, h2, f0, r⟩ := shape14 n 0x25 5 (by decide) (by decide) hu
  rw [decodeRaw_25 h1, decMajor25, h2]
  show (Except.ok (.trap (bitsAt iw 5 10), reservedZero iw [(4, 1), (15, 10)]) : RawDecode) = _
  rw [f0, r]

theorem RoundTrip.barr (b : BitVec 5) : RoundTrip.Statement (.barr b) := by
  have h_b := b.isLt
  refine roundTrip_of (b.toNat * 2 ^ 10 + (0x4A000006)) rfl (by omega) (fun _ => by omega) fun iw hu => ?_
  obtain ⟨h1, h2, f0, r⟩ := shape15 b 0x25 6 (by decide) (by decide) hu
  rw [decodeRaw_25 h1, decMajor25, h2]
  show (Except.ok (.barr (bitsAt iw 10 5), reservedZero iw [(4, 6), (15, 10)]) : RawDecode) = _
  rw [f0, r]

theorem RoundTrip.evrd (d : BitVec 5) (n : BitVec 10) : RoundTrip.Statement (.evrd d n) := by
  have h_d := d.isLt; have h_n := n.isLt
  refine roundTrip_of (d.toNat * 2 ^ 20 + (n.toNat * 2 ^ 5 + (0x4A000007))) rfl (by omega) (fun _ => by omega) fun iw hu => ?_
  obtain ⟨h1, h2, f0, f1, r⟩ := shape16 d n 0x25 7 (by decide) (by decide) hu
  rw [decodeRaw_25 h1, decMajor25, h2]
  show (Except.ok (.evrd (bitsAt iw 20 5) (bitsAt iw 5 10), reservedZero iw [(4, 1), (15, 5)]) : RawDecode) = _
  rw [f0, f1, r]

theorem RoundTrip.csrr (d : BitVec 5) (n : BitVec 12) : RoundTrip.Statement (.csrr d n) := by
  have h_d := d.isLt; have h_n := n.isLt
  refine roundTrip_of (d.toNat * 2 ^ 20 + (n.toNat * 2 ^ 0 + (0x4C000000))) rfl (by omega) (fun _ => by omega) fun iw hu => ?_
  obtain ⟨h1, h2, f0, f1, r⟩ := shape17 d n 0x26 0 (by decide) (by decide) hu
  rw [decodeRaw_26 h1, decMajor26, h2]
  show (Except.ok (.csrr (bitsAt iw 20 5) (bitsAt iw 0 12), reservedZero iw [(14, 6), (25, 1)]) : RawDecode) = _
  rw [f0, f1, r]

theorem RoundTrip.csrw (w : Bool) (a : BitVec 5) (n : BitVec 12) : RoundTrip.Statement (.csrw w a n) := by
  have h_w := Bool.toNat_le w; have h_a := a.isLt; have h_n := n.isLt
  refine roundTrip_of (w.toNat * 2 ^ 25 + (a.toNat * 2 ^ 15 + (n.toNat * 2 ^ 0 + (0x4C001000)))) rfl (by omega) (fun _ => by omega) fun iw hu => ?_
  cases w <;> simp only [Bool.toNat_true, Bool.toNat_false] at hu h_w
  · have h1 : iw.toNat / 2 ^ 25 % 128 = 0x26 := by omega
    have h2 : iw.toNat / 2 ^ 12 % 4 = 1 := by omega
    have f0 : flagAt iw 25 = false := flag_eq (by show _ = 0; omega)
    have f1 : bitsAt iw 15 5 = a := bits_eq (by omega)
    have f2 : bitsAt iw 0 12 = n := bits_eq (by omega)
    have r : reservedZero iw [(14, 1), (20, 5)] = true := by simp only [reservedZero, List.all_cons, List.all_nil, Bool.and_true, Bool.and_eq_true, beq_iff_eq]; omega
    rw [decodeRaw_26 h1, decMajor26, h2]
    show (Except.ok (.csrw (flagAt iw 25) (bitsAt iw 15 5) (bitsAt iw 0 12), reservedZero iw [(14, 1), (20, 5)]) : RawDecode) = _
    rw [f0, f1, f2, r]
  · have h1 : iw.toNat / 2 ^ 25 % 128 = 0x27 := by omega
    have h2 : iw.toNat / 2 ^ 12 % 4 = 1 := by omega
    have f0 : flagAt iw 25 = true := flag_eq (by show _ = 1; omega)
    have f1 : bitsAt iw 15 5 = a := bits_eq (by omega)
    have f2 : bitsAt iw 0 12 = n := bits_eq (by omega)
    have r : reservedZero iw [(14, 1), (20, 5)] = true := by simp only [reservedZero, List.all_cons, List.all_nil, Bool.and_true, Bool.and_eq_true, beq_iff_eq]; omega
    rw [decodeRaw_27 h1, decMajor26, h2]
    show (Except.ok (.csrw (flagAt iw 25) (bitsAt iw 15 5) (bitsAt iw 0 12), reservedZero iw [(14, 1), (20, 5)]) : RawDecode) = _
    rw [f0, f1, f2, r]

theorem RoundTrip.csrx (w : Bool) (d : BitVec 5) (a : BitVec 5) (n : BitVec 12) : RoundTrip.Statement (.csrx w d a n) := by
  have h_w := Bool.toNat_le w; have h_d := d.isLt; have h_a := a.isLt; have h_n := n.isLt
  refine roundTrip_of (w.toNat * 2 ^ 25 + (d.toNat * 2 ^ 20 + (a.toNat * 2 ^ 15 + (n.toNat * 2 ^ 0 + (0x4C002000))))) rfl (by omega) (fun _ => by omega) fun iw hu => ?_
  cases w <;> simp only [Bool.toNat_true, Bool.toNat_false] at hu h_w
  · have h1 : iw.toNat / 2 ^ 25 % 128 = 0x26 := by omega
    have h2 : iw.toNat / 2 ^ 12 % 4 = 2 := by omega
    have f0 : flagAt iw 25 = false := flag_eq (by show _ = 0; omega)
    have f1 : bitsAt iw 20 5 = d := bits_eq (by omega)
    have f2 : bitsAt iw 15 5 = a := bits_eq (by omega)
    have f3 : bitsAt iw 0 12 = n := bits_eq (by omega)
    have r : reservedZero iw [(14, 1)] = true := by simp only [reservedZero, List.all_cons, List.all_nil, Bool.and_true, beq_iff_eq]; omega
    rw [decodeRaw_26 h1, decMajor26, h2]
    show (Except.ok (.csrx (flagAt iw 25) (bitsAt iw 20 5) (bitsAt iw 15 5) (bitsAt iw 0 12), reservedZero iw [(14, 1)]) : RawDecode) = _
    rw [f0, f1, f2, f3, r]
  · have h1 : iw.toNat / 2 ^ 25 % 128 = 0x27 := by omega
    have h2 : iw.toNat / 2 ^ 12 % 4 = 2 := by omega
    have f0 : flagAt iw 25 = true := flag_eq (by show _ = 1; omega)
    have f1 : bitsAt iw 20 5 = d := bits_eq (by omega)
    have f2 : bitsAt iw 15 5 = a := bits_eq (by omega)
    have f3 : bitsAt iw 0 12 = n := bits_eq (by omega)
    have r : reservedZero iw [(14, 1)] = true := by simp only [reservedZero, List.all_cons, List.all_nil, Bool.and_true, beq_iff_eq]; omega
    rw [decodeRaw_27 h1, decMajor26, h2]
    show (Except.ok (.csrx (flagAt iw 25) (bitsAt iw 20 5) (bitsAt iw 15 5) (bitsAt iw 0 12), reservedZero iw [(14, 1)]) : RawDecode) = _
    rw [f0, f1, f2, f3, r]

theorem RoundTrip.ld (w : Bool) (d : BitVec 5) (a : BitVec 5) (z : BitVec 3) (o : BitVec 12) : RoundTrip.Statement (.ld w d a z o) := by
  have h_w := Bool.toNat_le w; have h_d := d.isLt; have h_a := a.isLt; have h_z := z.isLt; have h_o := o.isLt
  refine roundTrip_of (w.toNat * 2 ^ 25 + (d.toNat * 2 ^ 20 + (a.toNat * 2 ^ 15 + (z.toNat * 2 ^ 12 + (o.toNat * 2 ^ 0 + (0x60000000)))))) rfl (by omega) (fun _ => by omega) fun iw hu => ?_
  cases w <;> simp only [Bool.toNat_true, Bool.toNat_false] at hu h_w
  · have h1 : iw.toNat / 2 ^ 25 % 128 = 0x30 := by omega
    have f0 : flagAt iw 25 = false := flag_eq (by show _ = 0; omega)
    have f1 : bitsAt iw 20 5 = d := bits_eq (by omega)
    have f2 : bitsAt iw 15 5 = a := bits_eq (by omega)
    have f3 : bitsAt iw 12 3 = z := bits_eq (by omega)
    have f4 : bitsAt iw 0 12 = o := bits_eq (by omega)
    rw [decodeRaw_30 h1, decMajor30]
    show (Except.ok (.ld (flagAt iw 25) (bitsAt iw 20 5) (bitsAt iw 15 5) (bitsAt iw 12 3) (bitsAt iw 0 12), true) : RawDecode) = _
    rw [f0, f1, f2, f3, f4]
  · have h1 : iw.toNat / 2 ^ 25 % 128 = 0x31 := by omega
    have f0 : flagAt iw 25 = true := flag_eq (by show _ = 1; omega)
    have f1 : bitsAt iw 20 5 = d := bits_eq (by omega)
    have f2 : bitsAt iw 15 5 = a := bits_eq (by omega)
    have f3 : bitsAt iw 12 3 = z := bits_eq (by omega)
    have f4 : bitsAt iw 0 12 = o := bits_eq (by omega)
    rw [decodeRaw_31 h1, decMajor30]
    show (Except.ok (.ld (flagAt iw 25) (bitsAt iw 20 5) (bitsAt iw 15 5) (bitsAt iw 12 3) (bitsAt iw 0 12), true) : RawDecode) = _
    rw [f0, f1, f2, f3, f4]

theorem RoundTrip.st (w : Bool) (d : BitVec 5) (a : BitVec 5) (z : BitVec 2) (o : BitVec 12) : RoundTrip.Statement (.st w d a z o) := by
  have h_w := Bool.toNat_le w; have h_d := d.isLt; have h_a := a.isLt; have h_z := z.isLt; have h_o := o.isLt
  refine roundTrip_of (w.toNat * 2 ^ 25 + (d.toNat * 2 ^ 20 + (a.toNat * 2 ^ 15 + (z.toNat * 2 ^ 12 + (o.toNat * 2 ^ 0 + (0x64000000)))))) rfl (by omega) (fun _ => by omega) fun iw hu => ?_
  cases w <;> simp only [Bool.toNat_true, Bool.toNat_false] at hu h_w
  · have h1 : iw.toNat / 2 ^ 25 % 128 = 0x32 := by omega
    have h2 : iw.toNat / 2 ^ 14 % 2 = 0 := by omega
    have f0 : flagAt iw 25 = false := flag_eq (by show _ = 0; omega)
    have f1 : bitsAt iw 20 5 = d := bits_eq (by omega)
    have f2 : bitsAt iw 15 5 = a := bits_eq (by omega)
    have f3 : bitsAt iw 12 2 = z := bits_eq (by omega)
    have f4 : bitsAt iw 0 12 = o := bits_eq (by omega)
    rw [decodeRaw_32 h1, decMajor32, h2]
    show (Except.ok (.st (flagAt iw 25) (bitsAt iw 20 5) (bitsAt iw 15 5) (bitsAt iw 12 2) (bitsAt iw 0 12), true) : RawDecode) = _
    rw [f0, f1, f2, f3, f4]
  · have h1 : iw.toNat / 2 ^ 25 % 128 = 0x33 := by omega
    have h2 : iw.toNat / 2 ^ 14 % 2 = 0 := by omega
    have f0 : flagAt iw 25 = true := flag_eq (by show _ = 1; omega)
    have f1 : bitsAt iw 20 5 = d := bits_eq (by omega)
    have f2 : bitsAt iw 15 5 = a := bits_eq (by omega)
    have f3 : bitsAt iw 12 2 = z := bits_eq (by omega)
    have f4 : bitsAt iw 0 12 = o := bits_eq (by omega)
    rw [decodeRaw_33 h1, decMajor32, h2]
    show (Except.ok (.st (flagAt iw 25) (bitsAt iw 20 5) (bitsAt iw 15 5) (bitsAt iw 12 2) (bitsAt iw 0 12), true) : RawDecode) = _
    rw [f0, f1, f2, f3, f4]

theorem RoundTrip.pin (d : BitVec 5) (p : BitVec 5) : RoundTrip.Statement (.pin d p) := by
  have h_d := d.isLt; have h_p := p.isLt
  refine roundTrip_of (d.toNat * 2 ^ 20 + (p.toNat * 2 ^ 15 + (0x68000000))) rfl (by omega) (fun _ => by omega) fun iw hu => ?_
  obtain ⟨h1, h2, f0, f1, r⟩ := shape18 d p 0x34 0 (by decide) (by decide) hu
  rw [decodeRaw_34 h1, decMajor34, h2]
  show (Except.ok (.pin (bitsAt iw 20 5) (bitsAt iw 15 5), reservedZero iw [(4, 11)]) : RawDecode) = _
  rw [f0, f1, r]

theorem RoundTrip.pout (q : BitVec 5) (a : BitVec 5) (w : Bool) : RoundTrip.Statement (.pout q a w) := by
  have h_q := q.isLt; have h_a := a.isLt; have h_w := Bool.toNat_le w
  refine roundTrip_of (q.toNat * 2 ^ 20 + (a.toNat * 2 ^ 15 + (w.toNat * 2 ^ 4 + (0x68000001)))) rfl (by omega) (fun _ => by omega) fun iw hu => ?_
  obtain ⟨h1, h2, f0, f1, f2, r⟩ := shape19 q a w 0x34 1 (by decide) (by decide) hu
  rw [decodeRaw_34 h1, decMajor34, h2]
  show (Except.ok (.pout (bitsAt iw 20 5) (bitsAt iw 15 5) (flagAt iw 4), reservedZero iw [(5, 10)]) : RawDecode) = _
  rw [f0, f1, f2, r]

theorem RoundTrip.poutc (q : BitVec 5) (a : BitVec 5) (k : BitVec 3) (w : Bool) : RoundTrip.Statement (.poutc q a k w) := by
  have h_q := q.isLt; have h_a := a.isLt; have h_k := k.isLt; have h_w := Bool.toNat_le w
  refine roundTrip_of (q.toNat * 2 ^ 20 + (a.toNat * 2 ^ 15 + (k.toNat * 2 ^ 5 + (w.toNat * 2 ^ 4 + (0x68000002))))) rfl (by omega) (fun _ => by omega) fun iw hu => ?_
  obtain ⟨h1, h2, f0, f1, f2, f3, r⟩ := shape20 q a k w 0x34 2 (by decide) (by decide) hu
  rw [decodeRaw_34 h1, decMajor34, h2]
  show (Except.ok (.poutc (bitsAt iw 20 5) (bitsAt iw 15 5) (bitsAt iw 5 3) (flagAt iw 4), reservedZero iw [(8, 7)]) : RawDecode) = _
  rw [f0, f1, f2, f3, r]

theorem RoundTrip.pstat (d : BitVec 5) (p : BitVec 5) : RoundTrip.Statement (.pstat d p) := by
  have h_d := d.isLt; have h_p := p.isLt
  refine roundTrip_of (d.toNat * 2 ^ 20 + (p.toNat * 2 ^ 15 + (0x68000003))) rfl (by omega) (fun _ => by omega) fun iw hu => ?_
  obtain ⟨h1, h2, f0, f1, r⟩ := shape18 d p 0x34 3 (by decide) (by decide) hu
  rw [decodeRaw_34 h1, decMajor34, h2]
  show (Except.ok (.pstat (bitsAt iw 20 5) (bitsAt iw 15 5), reservedZero iw [(4, 11)]) : RawDecode) = _
  rw [f0, f1, r]

theorem RoundTrip.qstat (d : BitVec 5) (p : BitVec 5) : RoundTrip.Statement (.qstat d p) := by
  have h_d := d.isLt; have h_p := p.isLt
  refine roundTrip_of (d.toNat * 2 ^ 20 + (p.toNat * 2 ^ 15 + (0x68000004))) rfl (by omega) (fun _ => by omega) fun iw hu => ?_
  obtain ⟨h1, h2, f0, f1, r⟩ := shape18 d p 0x34 4 (by decide) (by decide) hu
  rw [decodeRaw_34 h1, decMajor34, h2]
  show (Except.ok (.qstat (bitsAt iw 20 5) (bitsAt iw 15 5), reservedZero iw [(4, 11)]) : RawDecode) = _
  rw [f0, f1, r]

theorem RoundTrip.feClr (d : BitVec 5) : RoundTrip.Statement (.feClr d) := by
  have h_d := d.isLt
  refine roundTrip_of (d.toNat * 2 ^ 20 + (0x6A000000)) rfl (by omega) (fun _ => by omega) fun iw hu => ?_
  obtain ⟨h1, h2, f0, r⟩ := shape21 d 0x35 0 (by decide) (by decide) hu
  rw [decodeRaw_35 h1, decMajor35, h2]
  show (Except.ok (.feClr (bitsAt iw 20 5), reservedZero iw [(4, 16)]) : RawDecode) = _
  rw [f0, r]

theorem RoundTrip.feSet (d : BitVec 5) : RoundTrip.Statement (.feSet d) := by
  have h_d := d.isLt
  refine roundTrip_of (d.toNat * 2 ^ 20 + (0x6A000001)) rfl (by omega) (fun _ => by omega) fun iw hu => ?_
  obtain ⟨h1, h2, f0, r⟩ := shape21 d 0x35 1 (by decide) (by decide) hu
  rw [decodeRaw_35 h1, decMajor35, h2]
  show (Except.ok (.feSet (bitsAt iw 20 5), reservedZero iw [(4, 16)]) : RawDecode) = _
  rw [f0, r]

theorem RoundTrip.feTst (d : BitVec 5) (a : BitVec 5) : RoundTrip.Statement (.feTst d a) := by
  have h_d := d.isLt; have h_a := a.isLt
  refine roundTrip_of (d.toNat * 2 ^ 20 + (a.toNat * 2 ^ 15 + (0x6A000002))) rfl (by omega) (fun _ => by omega) fun iw hu => ?_
  obtain ⟨h1, h2, f0, f1, r⟩ := shape06 d a 0x35 2 (by decide) (by decide) hu
  rw [decodeRaw_35 h1, decMajor35, h2]
  show (Except.ok (.feTst (bitsAt iw 20 5) (bitsAt iw 15 5), reservedZero iw [(4, 11)]) : RawDecode) = _
  rw [f0, f1, r]

theorem RoundTrip.sndCurd (d : BitVec 5) (a : BitVec 5) (b : BitVec 5) (w : Bool) : RoundTrip.Statement (.sndCurd d a b w) := by
  have h_d := d.isLt; have h_a := a.isLt; have h_b := b.isLt; have h_w := Bool.toNat_le w
  refine roundTrip_of (d.toNat * 2 ^ 20 + (a.toNat * 2 ^ 15 + (b.toNat * 2 ^ 10 + (w.toNat * 2 ^ 4 + (0x80000000))))) rfl (by omega) (fun _ => by omega) fun iw hu => ?_
  obtain ⟨h1, h2, f0, f1, f2, f3, r⟩ := shape00 d a b w 0x40 0 (by decide) (by decide) hu
  rw [decodeRaw_40 h1, decMajor40, h2]
  show (Except.ok (.sndCurd (bitsAt iw 20 5) (bitsAt iw 15 5) (bitsAt iw 10 5) (flagAt iw 4), reservedZero iw [(5, 5)]) : RawDecode) = _
  rw [f0, f1, f2, f3, r]

theorem RoundTrip.rplWhey (a : BitVec 5) (b : BitVec 5) (w : Bool) : RoundTrip.Statement (.rplWhey a b w) := by
  have h_a := a.isLt; have h_b := b.isLt; have h_w := Bool.toNat_le w
  refine roundTrip_of (a.toNat * 2 ^ 15 + (b.toNat * 2 ^ 10 + (w.toNat * 2 ^ 4 + (0x82000000)))) rfl (by omega) (fun _ => by omega) fun iw hu => ?_
  obtain ⟨h1, h2, f0, f1, f2, r⟩ := shape22 a b w 0x41 0 (by decide) (by decide) hu
  rw [decodeRaw_41 h1, decMajor41, h2]
  show (Except.ok (.rplWhey (bitsAt iw 15 5) (bitsAt iw 10 5) (flagAt iw 4), reservedZero iw [(5, 5), (20, 5)]) : RawDecode) = _
  rw [f0, f1, f2, r]

theorem RoundTrip.fld (d : BitVec 5) (a : BitVec 5) (b : BitVec 5) (w : Bool) (s : BitVec 3) : RoundTrip.Statement (.fld d a b w s) := by
  have h_d := d.isLt; have h_a := a.isLt; have h_b := b.isLt; have h_w := Bool.toNat_le w; have h_s := s.isLt
  refine roundTrip_of (d.toNat * 2 ^ 20 + (a.toNat * 2 ^ 15 + (b.toNat * 2 ^ 10 + (w.toNat * 2 ^ 4 + (s.toNat * 2 ^ 0 + (0x84000000)))))) rfl (by omega) (fun _ => by omega) fun iw hu => ?_
  obtain ⟨h1, h2, f0, f1, f2, f3, f4, r⟩ := shape23 d a b w s 0x42 0 (by decide) (by decide) hu
  rw [decodeRaw_42 h1, decMajor42, h2]
  show (Except.ok (.fld (bitsAt iw 20 5) (bitsAt iw 15 5) (bitsAt iw 10 5) (flagAt iw 4) (bitsAt iw 0 3), reservedZero iw [(5, 5)]) : RawDecode) = _
  rw [f0, f1, f2, f3, f4, r]

theorem RoundTrip.fst (d : BitVec 5) (a : BitVec 5) (b : BitVec 5) (w : Bool) (s : BitVec 2) : RoundTrip.Statement (.fst d a b w s) := by
  have h_d := d.isLt; have h_a := a.isLt; have h_b := b.isLt; have h_w := Bool.toNat_le w; have h_s := s.isLt
  refine roundTrip_of (d.toNat * 2 ^ 20 + (a.toNat * 2 ^ 15 + (b.toNat * 2 ^ 10 + (w.toNat * 2 ^ 4 + (s.toNat * 2 ^ 0 + (0x86000000)))))) rfl (by omega) (fun _ => by omega) fun iw hu => ?_
  obtain ⟨h1, h2, f0, f1, f2, f3, f4, r⟩ := shape24 d a b w s 0x43 0 (by decide) (by decide) hu
  rw [decodeRaw_43 h1, decMajor43, h2]
  show (Except.ok (.fst (bitsAt iw 20 5) (bitsAt iw 15 5) (bitsAt iw 10 5) (flagAt iw 4) (bitsAt iw 0 2), reservedZero iw [(5, 5)]) : RawDecode) = _
  rw [f0, f1, f2, f3, f4, r]

theorem RoundTrip.fstbN4 (d : BitVec 5) (a : BitVec 5) (b : BitVec 5) (w : Bool) : RoundTrip.Statement (.fstbN4 d a b w) := by
  have h_d := d.isLt; have h_a := a.isLt; have h_b := b.isLt; have h_w := Bool.toNat_le w
  refine roundTrip_of (d.toNat * 2 ^ 20 + (a.toNat * 2 ^ 15 + (b.toNat * 2 ^ 10 + (w.toNat * 2 ^ 4 + (0x88000000))))) rfl (by omega) (fun _ => by omega) fun iw hu => ?_
  obtain ⟨h1, h2, f0, f1, f2, f3, r⟩ := shape00 d a b w 0x44 0 (by decide) (by decide) hu
  rw [decodeRaw_44 h1, decMajor44, h2]
  show (Except.ok (.fstbN4 (bitsAt iw 20 5) (bitsAt iw 15 5) (bitsAt iw 10 5) (flagAt iw 4), reservedZero iw [(5, 5)]) : RawDecode) = _
  rw [f0, f1, f2, f3, r]

theorem RoundTrip.fstbN2 (d : BitVec 5) (a : BitVec 5) (b : BitVec 5) (w : Bool) : RoundTrip.Statement (.fstbN2 d a b w) := by
  have h_d := d.isLt; have h_a := a.isLt; have h_b := b.isLt; have h_w := Bool.toNat_le w
  refine roundTrip_of (d.toNat * 2 ^ 20 + (a.toNat * 2 ^ 15 + (b.toNat * 2 ^ 10 + (w.toNat * 2 ^ 4 + (0x88000001))))) rfl (by omega) (fun _ => by omega) fun iw hu => ?_
  obtain ⟨h1, h2, f0, f1, f2, f3, r⟩ := shape00 d a b w 0x44 1 (by decide) (by decide) hu
  rw [decodeRaw_44 h1, decMajor44, h2]
  show (Except.ok (.fstbN2 (bitsAt iw 20 5) (bitsAt iw 15 5) (bitsAt iw 10 5) (flagAt iw 4), reservedZero iw [(5, 5)]) : RawDecode) = _
  rw [f0, f1, f2, f3, r]

theorem RoundTrip.amoAdd (d : BitVec 5) (a : BitVec 5) (b : BitVec 5) (w : Bool) : RoundTrip.Statement (.amoAdd d a b w) := by
  have h_d := d.isLt; have h_a := a.isLt; have h_b := b.isLt; have h_w := Bool.toNat_le w
  refine roundTrip_of (d.toNat * 2 ^ 20 + (a.toNat * 2 ^ 15 + (b.toNat * 2 ^ 10 + (w.toNat * 2 ^ 4 + (0x8A000000))))) rfl (by omega) (fun _ => by omega) fun iw hu => ?_
  obtain ⟨h1, h2, f0, f1, f2, f3, r⟩ := shape00 d a b w 0x45 0 (by decide) (by decide) hu
  rw [decodeRaw_45 h1, decMajor45, h2]
  show (Except.ok (.amoAdd (bitsAt iw 20 5) (bitsAt iw 15 5) (bitsAt iw 10 5) (flagAt iw 4), reservedZero iw [(5, 5)]) : RawDecode) = _
  rw [f0, f1, f2, f3, r]

theorem RoundTrip.amoAnd (d : BitVec 5) (a : BitVec 5) (b : BitVec 5) (w : Bool) : RoundTrip.Statement (.amoAnd d a b w) := by
  have h_d := d.isLt; have h_a := a.isLt; have h_b := b.isLt; have h_w := Bool.toNat_le w
  refine roundTrip_of (d.toNat * 2 ^ 20 + (a.toNat * 2 ^ 15 + (b.toNat * 2 ^ 10 + (w.toNat * 2 ^ 4 + (0x8A000001))))) rfl (by omega) (fun _ => by omega) fun iw hu => ?_
  obtain ⟨h1, h2, f0, f1, f2, f3, r⟩ := shape00 d a b w 0x45 1 (by decide) (by decide) hu
  rw [decodeRaw_45 h1, decMajor45, h2]
  show (Except.ok (.amoAnd (bitsAt iw 20 5) (bitsAt iw 15 5) (bitsAt iw 10 5) (flagAt iw 4), reservedZero iw [(5, 5)]) : RawDecode) = _
  rw [f0, f1, f2, f3, r]

theorem RoundTrip.amoOr (d : BitVec 5) (a : BitVec 5) (b : BitVec 5) (w : Bool) : RoundTrip.Statement (.amoOr d a b w) := by
  have h_d := d.isLt; have h_a := a.isLt; have h_b := b.isLt; have h_w := Bool.toNat_le w
  refine roundTrip_of (d.toNat * 2 ^ 20 + (a.toNat * 2 ^ 15 + (b.toNat * 2 ^ 10 + (w.toNat * 2 ^ 4 + (0x8A000002))))) rfl (by omega) (fun _ => by omega) fun iw hu => ?_
  obtain ⟨h1, h2, f0, f1, f2, f3, r⟩ := shape00 d a b w 0x45 2 (by decide) (by decide) hu
  rw [decodeRaw_45 h1, decMajor45, h2]
  show (Except.ok (.amoOr (bitsAt iw 20 5) (bitsAt iw 15 5) (bitsAt iw 10 5) (flagAt iw 4), reservedZero iw [(5, 5)]) : RawDecode) = _
  rw [f0, f1, f2, f3, r]

theorem RoundTrip.amoXor (d : BitVec 5) (a : BitVec 5) (b : BitVec 5) (w : Bool) : RoundTrip.Statement (.amoXor d a b w) := by
  have h_d := d.isLt; have h_a := a.isLt; have h_b := b.isLt; have h_w := Bool.toNat_le w
  refine roundTrip_of (d.toNat * 2 ^ 20 + (a.toNat * 2 ^ 15 + (b.toNat * 2 ^ 10 + (w.toNat * 2 ^ 4 + (0x8A000003))))) rfl (by omega) (fun _ => by omega) fun iw hu => ?_
  obtain ⟨h1, h2, f0, f1, f2, f3, r⟩ := shape00 d a b w 0x45 3 (by decide) (by decide) hu
  rw [decodeRaw_45 h1, decMajor45, h2]
  show (Except.ok (.amoXor (bitsAt iw 20 5) (bitsAt iw 15 5) (bitsAt iw 10 5) (flagAt iw 4), reservedZero iw [(5, 5)]) : RawDecode) = _
  rw [f0, f1, f2, f3, r]

theorem RoundTrip.amoMin (d : BitVec 5) (a : BitVec 5) (b : BitVec 5) (w : Bool) : RoundTrip.Statement (.amoMin d a b w) := by
  have h_d := d.isLt; have h_a := a.isLt; have h_b := b.isLt; have h_w := Bool.toNat_le w
  refine roundTrip_of (d.toNat * 2 ^ 20 + (a.toNat * 2 ^ 15 + (b.toNat * 2 ^ 10 + (w.toNat * 2 ^ 4 + (0x8A000004))))) rfl (by omega) (fun _ => by omega) fun iw hu => ?_
  obtain ⟨h1, h2, f0, f1, f2, f3, r⟩ := shape00 d a b w 0x45 4 (by decide) (by decide) hu
  rw [decodeRaw_45 h1, decMajor45, h2]
  show (Except.ok (.amoMin (bitsAt iw 20 5) (bitsAt iw 15 5) (bitsAt iw 10 5) (flagAt iw 4), reservedZero iw [(5, 5)]) : RawDecode) = _
  rw [f0, f1, f2, f3, r]

theorem RoundTrip.amoMax (d : BitVec 5) (a : BitVec 5) (b : BitVec 5) (w : Bool) : RoundTrip.Statement (.amoMax d a b w) := by
  have h_d := d.isLt; have h_a := a.isLt; have h_b := b.isLt; have h_w := Bool.toNat_le w
  refine roundTrip_of (d.toNat * 2 ^ 20 + (a.toNat * 2 ^ 15 + (b.toNat * 2 ^ 10 + (w.toNat * 2 ^ 4 + (0x8A000005))))) rfl (by omega) (fun _ => by omega) fun iw hu => ?_
  obtain ⟨h1, h2, f0, f1, f2, f3, r⟩ := shape00 d a b w 0x45 5 (by decide) (by decide) hu
  rw [decodeRaw_45 h1, decMajor45, h2]
  show (Except.ok (.amoMax (bitsAt iw 20 5) (bitsAt iw 15 5) (bitsAt iw 10 5) (flagAt iw 4), reservedZero iw [(5, 5)]) : RawDecode) = _
  rw [f0, f1, f2, f3, r]

theorem RoundTrip.amoMinu (d : BitVec 5) (a : BitVec 5) (b : BitVec 5) (w : Bool) : RoundTrip.Statement (.amoMinu d a b w) := by
  have h_d := d.isLt; have h_a := a.isLt; have h_b := b.isLt; have h_w := Bool.toNat_le w
  refine roundTrip_of (d.toNat * 2 ^ 20 + (a.toNat * 2 ^ 15 + (b.toNat * 2 ^ 10 + (w.toNat * 2 ^ 4 + (0x8A000006))))) rfl (by omega) (fun _ => by omega) fun iw hu => ?_
  obtain ⟨h1, h2, f0, f1, f2, f3, r⟩ := shape00 d a b w 0x45 6 (by decide) (by decide) hu
  rw [decodeRaw_45 h1, decMajor45, h2]
  show (Except.ok (.amoMinu (bitsAt iw 20 5) (bitsAt iw 15 5) (bitsAt iw 10 5) (flagAt iw 4), reservedZero iw [(5, 5)]) : RawDecode) = _
  rw [f0, f1, f2, f3, r]

theorem RoundTrip.amoMaxu (d : BitVec 5) (a : BitVec 5) (b : BitVec 5) (w : Bool) : RoundTrip.Statement (.amoMaxu d a b w) := by
  have h_d := d.isLt; have h_a := a.isLt; have h_b := b.isLt; have h_w := Bool.toNat_le w
  refine roundTrip_of (d.toNat * 2 ^ 20 + (a.toNat * 2 ^ 15 + (b.toNat * 2 ^ 10 + (w.toNat * 2 ^ 4 + (0x8A000007))))) rfl (by omega) (fun _ => by omega) fun iw hu => ?_
  obtain ⟨h1, h2, f0, f1, f2, f3, r⟩ := shape00 d a b w 0x45 7 (by decide) (by decide) hu
  rw [decodeRaw_45 h1, decMajor45, h2]
  show (Except.ok (.amoMaxu (bitsAt iw 20 5) (bitsAt iw 15 5) (bitsAt iw 10 5) (flagAt iw 4), reservedZero iw [(5, 5)]) : RawDecode) = _
  rw [f0, f1, f2, f3, r]

theorem RoundTrip.amoSwap (d : BitVec 5) (a : BitVec 5) (b : BitVec 5) (w : Bool) : RoundTrip.Statement (.amoSwap d a b w) := by
  have h_d := d.isLt; have h_a := a.isLt; have h_b := b.isLt; have h_w := Bool.toNat_le w
  refine roundTrip_of (d.toNat * 2 ^ 20 + (a.toNat * 2 ^ 15 + (b.toNat * 2 ^ 10 + (w.toNat * 2 ^ 4 + (0x8A000008))))) rfl (by omega) (fun _ => by omega) fun iw hu => ?_
  obtain ⟨h1, h2, f0, f1, f2, f3, r⟩ := shape00 d a b w 0x45 8 (by decide) (by decide) hu
  rw [decodeRaw_45 h1, decMajor45, h2]
  show (Except.ok (.amoSwap (bitsAt iw 20 5) (bitsAt iw 15 5) (bitsAt iw 10 5) (flagAt iw 4), reservedZero iw [(5, 5)]) : RawDecode) = _
  rw [f0, f1, f2, f3, r]

theorem RoundTrip.amoCas (d : BitVec 5) (a : BitVec 5) (b : BitVec 5) (c : BitVec 5) (w : Bool) : RoundTrip.Statement (.amoCas d a b c w) := by
  have h_d := d.isLt; have h_a := a.isLt; have h_b := b.isLt; have h_c := c.isLt; have h_w := Bool.toNat_le w
  refine roundTrip_of (d.toNat * 2 ^ 20 + (a.toNat * 2 ^ 15 + (b.toNat * 2 ^ 10 + (c.toNat * 2 ^ 5 + (w.toNat * 2 ^ 4 + (0x8A000009)))))) rfl (by omega) (fun _ => by omega) fun iw hu => ?_
  obtain ⟨h1, h2, f0, f1, f2, f3, f4⟩ := shape02 d a b c w 0x45 9 (by decide) (by decide) hu
  rw [decodeRaw_45 h1, decMajor45, h2]
  show (Except.ok (.amoCas (bitsAt iw 20 5) (bitsAt iw 15 5) (bitsAt iw 10 5) (bitsAt iw 5 5) (flagAt iw 4), true) : RawDecode) = _
  rw [f0, f1, f2, f3, f4]

theorem RoundTrip.amoFaddF32 (d : BitVec 5) (a : BitVec 5) (b : BitVec 5) (w : Bool) : RoundTrip.Statement (.amoFaddF32 d a b w) := by
  have h_d := d.isLt; have h_a := a.isLt; have h_b := b.isLt; have h_w := Bool.toNat_le w
  refine roundTrip_of (d.toNat * 2 ^ 20 + (a.toNat * 2 ^ 15 + (b.toNat * 2 ^ 10 + (w.toNat * 2 ^ 4 + (0x8A00000A))))) rfl (by omega) (fun _ => by omega) fun iw hu => ?_
  obtain ⟨h1, h2, f0, f1, f2, f3, r⟩ := shape00 d a b w 0x45 10 (by decide) (by decide) hu
  rw [decodeRaw_45 h1, decMajor45, h2]
  show (Except.ok (.amoFaddF32 (bitsAt iw 20 5) (bitsAt iw 15 5) (bitsAt iw 10 5) (flagAt iw 4), reservedZero iw [(5, 5)]) : RawDecode) = _
  rw [f0, f1, f2, f3, r]

theorem RoundTrip.amoFaddBf16 (d : BitVec 5) (a : BitVec 5) (b : BitVec 5) (w : Bool) : RoundTrip.Statement (.amoFaddBf16 d a b w) := by
  have h_d := d.isLt; have h_a := a.isLt; have h_b := b.isLt; have h_w := Bool.toNat_le w
  refine roundTrip_of (d.toNat * 2 ^ 20 + (a.toNat * 2 ^ 15 + (b.toNat * 2 ^ 10 + (w.toNat * 2 ^ 4 + (0x8A00000B))))) rfl (by omega) (fun _ => by omega) fun iw hu => ?_
  obtain ⟨h1, h2, f0, f1, f2, f3, r⟩ := shape00 d a b w 0x45 11 (by decide) (by decide) hu
  rw [decodeRaw_45 h1, decMajor45, h2]
  show (Except.ok (.amoFaddBf16 (bitsAt iw 20 5) (bitsAt iw 15 5) (bitsAt iw 10 5) (flagAt iw 4), reservedZero iw [(5, 5)]) : RawDecode) = _
  rw [f0, f1, f2, f3, r]

theorem RoundTrip.ocall (d : BitVec 5) (a : BitVec 5) (b : BitVec 5) (w : Bool) : RoundTrip.Statement (.ocall d a b w) := by
  have h_d := d.isLt; have h_a := a.isLt; have h_b := b.isLt; have h_w := Bool.toNat_le w
  refine roundTrip_of (d.toNat * 2 ^ 20 + (a.toNat * 2 ^ 15 + (b.toNat * 2 ^ 10 + (w.toNat * 2 ^ 4 + (0x8C000000))))) rfl (by omega) (fun _ => by omega) fun iw hu => ?_
  obtain ⟨h1, h2, f0, f1, f2, f3, r⟩ := shape00 d a b w 0x46 0 (by decide) (by decide) hu
  rw [decodeRaw_46 h1, decMajor46, h2]
  show (Except.ok (.ocall (bitsAt iw 20 5) (bitsAt iw 15 5) (bitsAt iw 10 5) (flagAt iw 4), reservedZero iw [(5, 5)]) : RawDecode) = _
  rw [f0, f1, f2, f3, r]

theorem RoundTrip.mcast (a : BitVec 5) (b : BitVec 5) (w : Bool) : RoundTrip.Statement (.mcast a b w) := by
  have h_a := a.isLt; have h_b := b.isLt; have h_w := Bool.toNat_le w
  refine roundTrip_of (a.toNat * 2 ^ 15 + (b.toNat * 2 ^ 10 + (w.toNat * 2 ^ 4 + (0x8E000000)))) rfl (by omega) (fun _ => by omega) fun iw hu => ?_
  obtain ⟨h1, h2, f0, f1, f2, r⟩ := shape22 a b w 0x47 0 (by decide) (by decide) hu
  rw [decodeRaw_47 h1, decMajor47, h2]
  show (Except.ok (.mcast (bitsAt iw 15 5) (bitsAt iw 10 5) (flagAt iw 4), reservedZero iw [(5, 5), (20, 5)]) : RawDecode) = _
  rw [f0, f1, f2, r]

theorem RoundTrip.chase (d : BitVec 5) (a : BitVec 5) (b : BitVec 5) (w : Bool) : RoundTrip.Statement (.chase d a b w) := by
  have h_d := d.isLt; have h_a := a.isLt; have h_b := b.isLt; have h_w := Bool.toNat_le w
  refine roundTrip_of (d.toNat * 2 ^ 20 + (a.toNat * 2 ^ 15 + (b.toNat * 2 ^ 10 + (w.toNat * 2 ^ 4 + (0x90000000))))) rfl (by omega) (fun _ => by omega) fun iw hu => ?_
  obtain ⟨h1, h2, f0, f1, f2, f3, r⟩ := shape00 d a b w 0x48 0 (by decide) (by decide) hu
  rw [decodeRaw_48 h1, decMajor48, h2]
  show (Except.ok (.chase (bitsAt iw 20 5) (bitsAt iw 15 5) (bitsAt iw 10 5) (flagAt iw 4), reservedZero iw [(5, 5)]) : RawDecode) = _
  rw [f0, f1, f2, f3, r]

theorem RoundTrip.fenceAcc (d : BitVec 5) (s : BitVec 3) : RoundTrip.Statement (.fenceAcc d s) := by
  have h_d := d.isLt; have h_s := s.isLt
  refine roundTrip_of (d.toNat * 2 ^ 20 + (s.toNat * 2 ^ 0 + (0x92000000))) rfl (by omega) (fun _ => by omega) fun iw hu => ?_
  obtain ⟨h1, h2, f0, f1, r⟩ := shape25 d s 0x49 0 (by decide) (by decide) hu
  rw [decodeRaw_49 h1, decMajor49, h2]
  show (Except.ok (.fenceAcc (bitsAt iw 20 5) (bitsAt iw 0 3), reservedZero iw [(4, 16)]) : RawDecode) = _
  rw [f0, f1, r]

theorem RoundTrip.fenceVis (d : BitVec 5) (s : BitVec 3) : RoundTrip.Statement (.fenceVis d s) := by
  have h_d := d.isLt; have h_s := s.isLt
  refine roundTrip_of (d.toNat * 2 ^ 20 + (s.toNat * 2 ^ 0 + (0x92000008))) rfl (by omega) (fun _ => by omega) fun iw hu => ?_
  obtain ⟨h1, h2, f0, f1, r⟩ := shape25 d s 0x49 1 (by decide) (by decide) hu
  rw [decodeRaw_49 h1, decMajor49, h2]
  show (Except.ok (.fenceVis (bitsAt iw 20 5) (bitsAt iw 0 3), reservedZero iw [(4, 16)]) : RawDecode) = _
  rw [f0, f1, r]

theorem RoundTrip.vadd (d : BitVec 5) (a : BitVec 5) (b : BitVec 5) (k : BitVec 3) (z : Bool) : RoundTrip.Statement (.vadd d a b k z) := by
  have h_d := d.isLt; have h_a := a.isLt; have h_b := b.isLt; have h_k := k.isLt; have h_z := Bool.toNat_le z
  refine roundTrip_of (d.toNat * 2 ^ 20 + (a.toNat * 2 ^ 15 + (b.toNat * 2 ^ 10 + (k.toNat * 2 ^ 7 + (z.toNat * 2 ^ 6 + (0xA0000000)))))) rfl (by omega) (fun _ => by omega) fun iw hu => ?_
  obtain ⟨h1, h2, f0, f1, f2, f3, f4, r⟩ := shape26 d a b k z 0x50 0 (by decide) (by decide) hu
  rw [decodeRaw_50 h1, decMajor50, h2]
  show (Except.ok (.vadd (bitsAt iw 20 5) (bitsAt iw 15 5) (bitsAt iw 10 5) (bitsAt iw 7 3) (flagAt iw 6), reservedZero iw [(5, 1)]) : RawDecode) = _
  rw [f0, f1, f2, f3, f4, r]

theorem RoundTrip.vsub (d : BitVec 5) (a : BitVec 5) (b : BitVec 5) (k : BitVec 3) (z : Bool) : RoundTrip.Statement (.vsub d a b k z) := by
  have h_d := d.isLt; have h_a := a.isLt; have h_b := b.isLt; have h_k := k.isLt; have h_z := Bool.toNat_le z
  refine roundTrip_of (d.toNat * 2 ^ 20 + (a.toNat * 2 ^ 15 + (b.toNat * 2 ^ 10 + (k.toNat * 2 ^ 7 + (z.toNat * 2 ^ 6 + (0xA0000001)))))) rfl (by omega) (fun _ => by omega) fun iw hu => ?_
  obtain ⟨h1, h2, f0, f1, f2, f3, f4, r⟩ := shape26 d a b k z 0x50 1 (by decide) (by decide) hu
  rw [decodeRaw_50 h1, decMajor50, h2]
  show (Except.ok (.vsub (bitsAt iw 20 5) (bitsAt iw 15 5) (bitsAt iw 10 5) (bitsAt iw 7 3) (flagAt iw 6), reservedZero iw [(5, 1)]) : RawDecode) = _
  rw [f0, f1, f2, f3, f4, r]

theorem RoundTrip.vmul (d : BitVec 5) (a : BitVec 5) (b : BitVec 5) (k : BitVec 3) (z : Bool) : RoundTrip.Statement (.vmul d a b k z) := by
  have h_d := d.isLt; have h_a := a.isLt; have h_b := b.isLt; have h_k := k.isLt; have h_z := Bool.toNat_le z
  refine roundTrip_of (d.toNat * 2 ^ 20 + (a.toNat * 2 ^ 15 + (b.toNat * 2 ^ 10 + (k.toNat * 2 ^ 7 + (z.toNat * 2 ^ 6 + (0xA0000002)))))) rfl (by omega) (fun _ => by omega) fun iw hu => ?_
  obtain ⟨h1, h2, f0, f1, f2, f3, f4, r⟩ := shape26 d a b k z 0x50 2 (by decide) (by decide) hu
  rw [decodeRaw_50 h1, decMajor50, h2]
  show (Except.ok (.vmul (bitsAt iw 20 5) (bitsAt iw 15 5) (bitsAt iw 10 5) (bitsAt iw 7 3) (flagAt iw 6), reservedZero iw [(5, 1)]) : RawDecode) = _
  rw [f0, f1, f2, f3, f4, r]

theorem RoundTrip.vmulh (d : BitVec 5) (a : BitVec 5) (b : BitVec 5) (k : BitVec 3) (z : Bool) : RoundTrip.Statement (.vmulh d a b k z) := by
  have h_d := d.isLt; have h_a := a.isLt; have h_b := b.isLt; have h_k := k.isLt; have h_z := Bool.toNat_le z
  refine roundTrip_of (d.toNat * 2 ^ 20 + (a.toNat * 2 ^ 15 + (b.toNat * 2 ^ 10 + (k.toNat * 2 ^ 7 + (z.toNat * 2 ^ 6 + (0xA0000003)))))) rfl (by omega) (fun _ => by omega) fun iw hu => ?_
  obtain ⟨h1, h2, f0, f1, f2, f3, f4, r⟩ := shape26 d a b k z 0x50 3 (by decide) (by decide) hu
  rw [decodeRaw_50 h1, decMajor50, h2]
  show (Except.ok (.vmulh (bitsAt iw 20 5) (bitsAt iw 15 5) (bitsAt iw 10 5) (bitsAt iw 7 3) (flagAt iw 6), reservedZero iw [(5, 1)]) : RawDecode) = _
  rw [f0, f1, f2, f3, f4, r]

theorem RoundTrip.vmin (d : BitVec 5) (a : BitVec 5) (b : BitVec 5) (k : BitVec 3) (z : Bool) : RoundTrip.Statement (.vmin d a b k z) := by
  have h_d := d.isLt; have h_a := a.isLt; have h_b := b.isLt; have h_k := k.isLt; have h_z := Bool.toNat_le z
  refine roundTrip_of (d.toNat * 2 ^ 20 + (a.toNat * 2 ^ 15 + (b.toNat * 2 ^ 10 + (k.toNat * 2 ^ 7 + (z.toNat * 2 ^ 6 + (0xA0000004)))))) rfl (by omega) (fun _ => by omega) fun iw hu => ?_
  obtain ⟨h1, h2, f0, f1, f2, f3, f4, r⟩ := shape26 d a b k z 0x50 4 (by decide) (by decide) hu
  rw [decodeRaw_50 h1, decMajor50, h2]
  show (Except.ok (.vmin (bitsAt iw 20 5) (bitsAt iw 15 5) (bitsAt iw 10 5) (bitsAt iw 7 3) (flagAt iw 6), reservedZero iw [(5, 1)]) : RawDecode) = _
  rw [f0, f1, f2, f3, f4, r]

theorem RoundTrip.vmax (d : BitVec 5) (a : BitVec 5) (b : BitVec 5) (k : BitVec 3) (z : Bool) : RoundTrip.Statement (.vmax d a b k z) := by
  have h_d := d.isLt; have h_a := a.isLt; have h_b := b.isLt; have h_k := k.isLt; have h_z := Bool.toNat_le z
  refine roundTrip_of (d.toNat * 2 ^ 20 + (a.toNat * 2 ^ 15 + (b.toNat * 2 ^ 10 + (k.toNat * 2 ^ 7 + (z.toNat * 2 ^ 6 + (0xA0000005)))))) rfl (by omega) (fun _ => by omega) fun iw hu => ?_
  obtain ⟨h1, h2, f0, f1, f2, f3, f4, r⟩ := shape26 d a b k z 0x50 5 (by decide) (by decide) hu
  rw [decodeRaw_50 h1, decMajor50, h2]
  show (Except.ok (.vmax (bitsAt iw 20 5) (bitsAt iw 15 5) (bitsAt iw 10 5) (bitsAt iw 7 3) (flagAt iw 6), reservedZero iw [(5, 1)]) : RawDecode) = _
  rw [f0, f1, f2, f3, f4, r]

theorem RoundTrip.vminu (d : BitVec 5) (a : BitVec 5) (b : BitVec 5) (k : BitVec 3) (z : Bool) : RoundTrip.Statement (.vminu d a b k z) := by
  have h_d := d.isLt; have h_a := a.isLt; have h_b := b.isLt; have h_k := k.isLt; have h_z := Bool.toNat_le z
  refine roundTrip_of (d.toNat * 2 ^ 20 + (a.toNat * 2 ^ 15 + (b.toNat * 2 ^ 10 + (k.toNat * 2 ^ 7 + (z.toNat * 2 ^ 6 + (0xA0000006)))))) rfl (by omega) (fun _ => by omega) fun iw hu => ?_
  obtain ⟨h1, h2, f0, f1, f2, f3, f4, r⟩ := shape26 d a b k z 0x50 6 (by decide) (by decide) hu
  rw [decodeRaw_50 h1, decMajor50, h2]
  show (Except.ok (.vminu (bitsAt iw 20 5) (bitsAt iw 15 5) (bitsAt iw 10 5) (bitsAt iw 7 3) (flagAt iw 6), reservedZero iw [(5, 1)]) : RawDecode) = _
  rw [f0, f1, f2, f3, f4, r]

theorem RoundTrip.vmaxu (d : BitVec 5) (a : BitVec 5) (b : BitVec 5) (k : BitVec 3) (z : Bool) : RoundTrip.Statement (.vmaxu d a b k z) := by
  have h_d := d.isLt; have h_a := a.isLt; have h_b := b.isLt; have h_k := k.isLt; have h_z := Bool.toNat_le z
  refine roundTrip_of (d.toNat * 2 ^ 20 + (a.toNat * 2 ^ 15 + (b.toNat * 2 ^ 10 + (k.toNat * 2 ^ 7 + (z.toNat * 2 ^ 6 + (0xA0000007)))))) rfl (by omega) (fun _ => by omega) fun iw hu => ?_
  obtain ⟨h1, h2, f0, f1, f2, f3, f4, r⟩ := shape26 d a b k z 0x50 7 (by decide) (by decide) hu
  rw [decodeRaw_50 h1, decMajor50, h2]
  show (Except.ok (.vmaxu (bitsAt iw 20 5) (bitsAt iw 15 5) (bitsAt iw 10 5) (bitsAt iw 7 3) (flagAt iw 6), reservedZero iw [(5, 1)]) : RawDecode) = _
  rw [f0, f1, f2, f3, f4, r]

theorem RoundTrip.vabs (d : BitVec 5) (a : BitVec 5) (k : BitVec 3) (z : Bool) : RoundTrip.Statement (.vabs d a k z) := by
  have h_d := d.isLt; have h_a := a.isLt; have h_k := k.isLt; have h_z := Bool.toNat_le z
  refine roundTrip_of (d.toNat * 2 ^ 20 + (a.toNat * 2 ^ 15 + (k.toNat * 2 ^ 7 + (z.toNat * 2 ^ 6 + (0xA0000008))))) rfl (by omega) (fun _ => by omega) fun iw hu => ?_
  obtain ⟨h1, h2, f0, f1, f2, f3, r⟩ := shape27 d a k z 0x50 8 (by decide) (by decide) hu
  rw [decodeRaw_50 h1, decMajor50, h2]
  show (Except.ok (.vabs (bitsAt iw 20 5) (bitsAt iw 15 5) (bitsAt iw 7 3) (flagAt iw 6), reservedZero iw [(5, 1), (10, 5)]) : RawDecode) = _
  rw [f0, f1, f2, f3, r]

theorem RoundTrip.vneg (d : BitVec 5) (a : BitVec 5) (k : BitVec 3) (z : Bool) : RoundTrip.Statement (.vneg d a k z) := by
  have h_d := d.isLt; have h_a := a.isLt; have h_k := k.isLt; have h_z := Bool.toNat_le z
  refine roundTrip_of (d.toNat * 2 ^ 20 + (a.toNat * 2 ^ 15 + (k.toNat * 2 ^ 7 + (z.toNat * 2 ^ 6 + (0xA0000009))))) rfl (by omega) (fun _ => by omega) fun iw hu => ?_
  obtain ⟨h1, h2, f0, f1, f2, f3, r⟩ := shape27 d a k z 0x50 9 (by decide) (by decide) hu
  rw [decodeRaw_50 h1, decMajor50, h2]
  show (Except.ok (.vneg (bitsAt iw 20 5) (bitsAt iw 15 5) (bitsAt iw 7 3) (flagAt iw 6), reservedZero iw [(5, 1), (10, 5)]) : RawDecode) = _
  rw [f0, f1, f2, f3, r]

theorem RoundTrip.vsll (d : BitVec 5) (a : BitVec 5) (b : BitVec 5) (k : BitVec 3) (z : Bool) : RoundTrip.Statement (.vsll d a b k z) := by
  have h_d := d.isLt; have h_a := a.isLt; have h_b := b.isLt; have h_k := k.isLt; have h_z := Bool.toNat_le z
  refine roundTrip_of (d.toNat * 2 ^ 20 + (a.toNat * 2 ^ 15 + (b.toNat * 2 ^ 10 + (k.toNat * 2 ^ 7 + (z.toNat * 2 ^ 6 + (0xA000000A)))))) rfl (by omega) (fun _ => by omega) fun iw hu => ?_
  obtain ⟨h1, h2, f0, f1, f2, f3, f4, r⟩ := shape26 d a b k z 0x50 10 (by decide) (by decide) hu
  rw [decodeRaw_50 h1, decMajor50, h2]
  show (Except.ok (.vsll (bitsAt iw 20 5) (bitsAt iw 15 5) (bitsAt iw 10 5) (bitsAt iw 7 3) (flagAt iw 6), reservedZero iw [(5, 1)]) : RawDecode) = _
  rw [f0, f1, f2, f3, f4, r]

theorem RoundTrip.vsrl (d : BitVec 5) (a : BitVec 5) (b : BitVec 5) (k : BitVec 3) (z : Bool) : RoundTrip.Statement (.vsrl d a b k z) := by
  have h_d := d.isLt; have h_a := a.isLt; have h_b := b.isLt; have h_k := k.isLt; have h_z := Bool.toNat_le z
  refine roundTrip_of (d.toNat * 2 ^ 20 + (a.toNat * 2 ^ 15 + (b.toNat * 2 ^ 10 + (k.toNat * 2 ^ 7 + (z.toNat * 2 ^ 6 + (0xA000000B)))))) rfl (by omega) (fun _ => by omega) fun iw hu => ?_
  obtain ⟨h1, h2, f0, f1, f2, f3, f4, r⟩ := shape26 d a b k z 0x50 11 (by decide) (by decide) hu
  rw [decodeRaw_50 h1, decMajor50, h2]
  show (Except.ok (.vsrl (bitsAt iw 20 5) (bitsAt iw 15 5) (bitsAt iw 10 5) (bitsAt iw 7 3) (flagAt iw 6), reservedZero iw [(5, 1)]) : RawDecode) = _
  rw [f0, f1, f2, f3, f4, r]

theorem RoundTrip.vsra (d : BitVec 5) (a : BitVec 5) (b : BitVec 5) (k : BitVec 3) (z : Bool) : RoundTrip.Statement (.vsra d a b k z) := by
  have h_d := d.isLt; have h_a := a.isLt; have h_b := b.isLt; have h_k := k.isLt; have h_z := Bool.toNat_le z
  refine roundTrip_of (d.toNat * 2 ^ 20 + (a.toNat * 2 ^ 15 + (b.toNat * 2 ^ 10 + (k.toNat * 2 ^ 7 + (z.toNat * 2 ^ 6 + (0xA000000C)))))) rfl (by omega) (fun _ => by omega) fun iw hu => ?_
  obtain ⟨h1, h2, f0, f1, f2, f3, f4, r⟩ := shape26 d a b k z 0x50 12 (by decide) (by decide) hu
  rw [decodeRaw_50 h1, decMajor50, h2]
  show (Except.ok (.vsra (bitsAt iw 20 5) (bitsAt iw 15 5) (bitsAt iw 10 5) (bitsAt iw 7 3) (flagAt iw 6), reservedZero iw [(5, 1)]) : RawDecode) = _
  rw [f0, f1, f2, f3, f4, r]

theorem RoundTrip.vadds (d : BitVec 5) (a : BitVec 5) (b : BitVec 5) (k : BitVec 3) (z : Bool) : RoundTrip.Statement (.vadds d a b k z) := by
  have h_d := d.isLt; have h_a := a.isLt; have h_b := b.isLt; have h_k := k.isLt; have h_z := Bool.toNat_le z
  refine roundTrip_of (d.toNat * 2 ^ 20 + (a.toNat * 2 ^ 15 + (b.toNat * 2 ^ 10 + (k.toNat * 2 ^ 7 + (z.toNat * 2 ^ 6 + (0xA000000D)))))) rfl (by omega) (fun _ => by omega) fun iw hu => ?_
  obtain ⟨h1, h2, f0, f1, f2, f3, f4, r⟩ := shape26 d a b k z 0x50 13 (by decide) (by decide) hu
  rw [decodeRaw_50 h1, decMajor50, h2]
  show (Except.ok (.vadds (bitsAt iw 20 5) (bitsAt iw 15 5) (bitsAt iw 10 5) (bitsAt iw 7 3) (flagAt iw 6), reservedZero iw [(5, 1)]) : RawDecode) = _
  rw [f0, f1, f2, f3, f4, r]

theorem RoundTrip.vsubs (d : BitVec 5) (a : BitVec 5) (b : BitVec 5) (k : BitVec 3) (z : Bool) : RoundTrip.Statement (.vsubs d a b k z) := by
  have h_d := d.isLt; have h_a := a.isLt; have h_b := b.isLt; have h_k := k.isLt; have h_z := Bool.toNat_le z
  refine roundTrip_of (d.toNat * 2 ^ 20 + (a.toNat * 2 ^ 15 + (b.toNat * 2 ^ 10 + (k.toNat * 2 ^ 7 + (z.toNat * 2 ^ 6 + (0xA000000E)))))) rfl (by omega) (fun _ => by omega) fun iw hu => ?_
  obtain ⟨h1, h2, f0, f1, f2, f3, f4, r⟩ := shape26 d a b k z 0x50 14 (by decide) (by decide) hu
  rw [decodeRaw_50 h1, decMajor50, h2]
  show (Except.ok (.vsubs (bitsAt iw 20 5) (bitsAt iw 15 5) (bitsAt iw 10 5) (bitsAt iw 7 3) (flagAt iw 6), reservedZero iw [(5, 1)]) : RawDecode) = _
  rw [f0, f1, f2, f3, f4, r]

theorem RoundTrip.vfadd (d : BitVec 5) (a : BitVec 5) (b : BitVec 5) (k : BitVec 3) (z : Bool) : RoundTrip.Statement (.vfadd d a b k z) := by
  have h_d := d.isLt; have h_a := a.isLt; have h_b := b.isLt; have h_k := k.isLt; have h_z := Bool.toNat_le z
  refine roundTrip_of (d.toNat * 2 ^ 20 + (a.toNat * 2 ^ 15 + (b.toNat * 2 ^ 10 + (k.toNat * 2 ^ 7 + (z.toNat * 2 ^ 6 + (0xA2000000)))))) rfl (by omega) (fun _ => by omega) fun iw hu => ?_
  obtain ⟨h1, h2, f0, f1, f2, f3, f4, r⟩ := shape26 d a b k z 0x51 0 (by decide) (by decide) hu
  rw [decodeRaw_51 h1, decMajor51, h2]
  show (Except.ok (.vfadd (bitsAt iw 20 5) (bitsAt iw 15 5) (bitsAt iw 10 5) (bitsAt iw 7 3) (flagAt iw 6), reservedZero iw [(5, 1)]) : RawDecode) = _
  rw [f0, f1, f2, f3, f4, r]

theorem RoundTrip.vfsub (d : BitVec 5) (a : BitVec 5) (b : BitVec 5) (k : BitVec 3) (z : Bool) : RoundTrip.Statement (.vfsub d a b k z) := by
  have h_d := d.isLt; have h_a := a.isLt; have h_b := b.isLt; have h_k := k.isLt; have h_z := Bool.toNat_le z
  refine roundTrip_of (d.toNat * 2 ^ 20 + (a.toNat * 2 ^ 15 + (b.toNat * 2 ^ 10 + (k.toNat * 2 ^ 7 + (z.toNat * 2 ^ 6 + (0xA2000001)))))) rfl (by omega) (fun _ => by omega) fun iw hu => ?_
  obtain ⟨h1, h2, f0, f1, f2, f3, f4, r⟩ := shape26 d a b k z 0x51 1 (by decide) (by decide) hu
  rw [decodeRaw_51 h1, decMajor51, h2]
  show (Except.ok (.vfsub (bitsAt iw 20 5) (bitsAt iw 15 5) (bitsAt iw 10 5) (bitsAt iw 7 3) (flagAt iw 6), reservedZero iw [(5, 1)]) : RawDecode) = _
  rw [f0, f1, f2, f3, f4, r]

theorem RoundTrip.vfmul (d : BitVec 5) (a : BitVec 5) (b : BitVec 5) (k : BitVec 3) (z : Bool) : RoundTrip.Statement (.vfmul d a b k z) := by
  have h_d := d.isLt; have h_a := a.isLt; have h_b := b.isLt; have h_k := k.isLt; have h_z := Bool.toNat_le z
  refine roundTrip_of (d.toNat * 2 ^ 20 + (a.toNat * 2 ^ 15 + (b.toNat * 2 ^ 10 + (k.toNat * 2 ^ 7 + (z.toNat * 2 ^ 6 + (0xA2000002)))))) rfl (by omega) (fun _ => by omega) fun iw hu => ?_
  obtain ⟨h1, h2, f0, f1, f2, f3, f4, r⟩ := shape26 d a b k z 0x51 2 (by decide) (by decide) hu
  rw [decodeRaw_51 h1, decMajor51, h2]
  show (Except.ok (.vfmul (bitsAt iw 20 5) (bitsAt iw 15 5) (bitsAt iw 10 5) (bitsAt iw 7 3) (flagAt iw 6), reservedZero iw [(5, 1)]) : RawDecode) = _
  rw [f0, f1, f2, f3, f4, r]

theorem RoundTrip.vfma (d : BitVec 5) (a : BitVec 5) (b : BitVec 5) (k : BitVec 3) (z : Bool) : RoundTrip.Statement (.vfma d a b k z) := by
  have h_d := d.isLt; have h_a := a.isLt; have h_b := b.isLt; have h_k := k.isLt; have h_z := Bool.toNat_le z
  refine roundTrip_of (d.toNat * 2 ^ 20 + (a.toNat * 2 ^ 15 + (b.toNat * 2 ^ 10 + (k.toNat * 2 ^ 7 + (z.toNat * 2 ^ 6 + (0xA2000003)))))) rfl (by omega) (fun _ => by omega) fun iw hu => ?_
  obtain ⟨h1, h2, f0, f1, f2, f3, f4, r⟩ := shape26 d a b k z 0x51 3 (by decide) (by decide) hu
  rw [decodeRaw_51 h1, decMajor51, h2]
  show (Except.ok (.vfma (bitsAt iw 20 5) (bitsAt iw 15 5) (bitsAt iw 10 5) (bitsAt iw 7 3) (flagAt iw 6), reservedZero iw [(5, 1)]) : RawDecode) = _
  rw [f0, f1, f2, f3, f4, r]

theorem RoundTrip.vfmin (d : BitVec 5) (a : BitVec 5) (b : BitVec 5) (k : BitVec 3) (z : Bool) : RoundTrip.Statement (.vfmin d a b k z) := by
  have h_d := d.isLt; have h_a := a.isLt; have h_b := b.isLt; have h_k := k.isLt; have h_z := Bool.toNat_le z
  refine roundTrip_of (d.toNat * 2 ^ 20 + (a.toNat * 2 ^ 15 + (b.toNat * 2 ^ 10 + (k.toNat * 2 ^ 7 + (z.toNat * 2 ^ 6 + (0xA2000004)))))) rfl (by omega) (fun _ => by omega) fun iw hu => ?_
  obtain ⟨h1, h2, f0, f1, f2, f3, f4, r⟩ := shape26 d a b k z 0x51 4 (by decide) (by decide) hu
  rw [decodeRaw_51 h1, decMajor51, h2]
  show (Except.ok (.vfmin (bitsAt iw 20 5) (bitsAt iw 15 5) (bitsAt iw 10 5) (bitsAt iw 7 3) (flagAt iw 6), reservedZero iw [(5, 1)]) : RawDecode) = _
  rw [f0, f1, f2, f3, f4, r]

theorem RoundTrip.vfmax (d : BitVec 5) (a : BitVec 5) (b : BitVec 5) (k : BitVec 3) (z : Bool) : RoundTrip.Statement (.vfmax d a b k z) := by
  have h_d := d.isLt; have h_a := a.isLt; have h_b := b.isLt; have h_k := k.isLt; have h_z := Bool.toNat_le z
  refine roundTrip_of (d.toNat * 2 ^ 20 + (a.toNat * 2 ^ 15 + (b.toNat * 2 ^ 10 + (k.toNat * 2 ^ 7 + (z.toNat * 2 ^ 6 + (0xA2000005)))))) rfl (by omega) (fun _ => by omega) fun iw hu => ?_
  obtain ⟨h1, h2, f0, f1, f2, f3, f4, r⟩ := shape26 d a b k z 0x51 5 (by decide) (by decide) hu
  rw [decodeRaw_51 h1, decMajor51, h2]
  show (Except.ok (.vfmax (bitsAt iw 20 5) (bitsAt iw 15 5) (bitsAt iw 10 5) (bitsAt iw 7 3) (flagAt iw 6), reservedZero iw [(5, 1)]) : RawDecode) = _
  rw [f0, f1, f2, f3, f4, r]

theorem RoundTrip.vfabs (d : BitVec 5) (a : BitVec 5) (k : BitVec 3) (z : Bool) : RoundTrip.Statement (.vfabs d a k z) := by
  have h_d := d.isLt; have h_a := a.isLt; have h_k := k.isLt; have h_z := Bool.toNat_le z
  refine roundTrip_of (d.toNat * 2 ^ 20 + (a.toNat * 2 ^ 15 + (k.toNat * 2 ^ 7 + (z.toNat * 2 ^ 6 + (0xA2000006))))) rfl (by omega) (fun _ => by omega) fun iw hu => ?_
  obtain ⟨h1, h2, f0, f1, f2, f3, r⟩ := shape27 d a k z 0x51 6 (by decide) (by decide) hu
  rw [decodeRaw_51 h1, decMajor51, h2]
  show (Except.ok (.vfabs (bitsAt iw 20 5) (bitsAt iw 15 5) (bitsAt iw 7 3) (flagAt iw 6), reservedZero iw [(5, 1), (10, 5)]) : RawDecode) = _
  rw [f0, f1, f2, f3, r]

theorem RoundTrip.vfneg (d : BitVec 5) (a : BitVec 5) (k : BitVec 3) (z : Bool) : RoundTrip.Statement (.vfneg d a k z) := by
  have h_d := d.isLt; have h_a := a.isLt; have h_k := k.isLt; have h_z := Bool.toNat_le z
  refine roundTrip_of (d.toNat * 2 ^ 20 + (a.toNat * 2 ^ 15 + (k.toNat * 2 ^ 7 + (z.toNat * 2 ^ 6 + (0xA2000007))))) rfl (by omega) (fun _ => by omega) fun iw hu => ?_
  obtain ⟨h1, h2, f0, f1, f2, f3, r⟩ := shape27 d a k z 0x51 7 (by decide) (by decide) hu
  rw [decodeRaw_51 h1, decMajor51, h2]
  show (Except.ok (.vfneg (bitsAt iw 20 5) (bitsAt iw 15 5) (bitsAt iw 7 3) (flagAt iw 6), reservedZero iw [(5, 1), (10, 5)]) : RawDecode) = _
  rw [f0, f1, f2, f3, r]

theorem RoundTrip.vand (d : BitVec 5) (a : BitVec 5) (b : BitVec 5) (k : BitVec 3) (z : Bool) : RoundTrip.Statement (.vand d a b k z) := by
  have h_d := d.isLt; have h_a := a.isLt; have h_b := b.isLt; have h_k := k.isLt; have h_z := Bool.toNat_le z
  refine roundTrip_of (d.toNat * 2 ^ 20 + (a.toNat * 2 ^ 15 + (b.toNat * 2 ^ 10 + (k.toNat * 2 ^ 7 + (z.toNat * 2 ^ 6 + (0xA4000000)))))) rfl (by omega) (fun _ => by omega) fun iw hu => ?_
  obtain ⟨h1, h2, f0, f1, f2, f3, f4, r⟩ := shape26 d a b k z 0x52 0 (by decide) (by decide) hu
  rw [decodeRaw_52 h1, decMajor52, h2]
  show (Except.ok (.vand (bitsAt iw 20 5) (bitsAt iw 15 5) (bitsAt iw 10 5) (bitsAt iw 7 3) (flagAt iw 6), reservedZero iw [(5, 1)]) : RawDecode) = _
  rw [f0, f1, f2, f3, f4, r]

theorem RoundTrip.vor (d : BitVec 5) (a : BitVec 5) (b : BitVec 5) (k : BitVec 3) (z : Bool) : RoundTrip.Statement (.vor d a b k z) := by
  have h_d := d.isLt; have h_a := a.isLt; have h_b := b.isLt; have h_k := k.isLt; have h_z := Bool.toNat_le z
  refine roundTrip_of (d.toNat * 2 ^ 20 + (a.toNat * 2 ^ 15 + (b.toNat * 2 ^ 10 + (k.toNat * 2 ^ 7 + (z.toNat * 2 ^ 6 + (0xA4000001)))))) rfl (by omega) (fun _ => by omega) fun iw hu => ?_
  obtain ⟨h1, h2, f0, f1, f2, f3, f4, r⟩ := shape26 d a b k z 0x52 1 (by decide) (by decide) hu
  rw [decodeRaw_52 h1, decMajor52, h2]
  show (Except.ok (.vor (bitsAt iw 20 5) (bitsAt iw 15 5) (bitsAt iw 10 5) (bitsAt iw 7 3) (flagAt iw 6), reservedZero iw [(5, 1)]) : RawDecode) = _
  rw [f0, f1, f2, f3, f4, r]

theorem RoundTrip.vxor (d : BitVec 5) (a : BitVec 5) (b : BitVec 5) (k : BitVec 3) (z : Bool) : RoundTrip.Statement (.vxor d a b k z) := by
  have h_d := d.isLt; have h_a := a.isLt; have h_b := b.isLt; have h_k := k.isLt; have h_z := Bool.toNat_le z
  refine roundTrip_of (d.toNat * 2 ^ 20 + (a.toNat * 2 ^ 15 + (b.toNat * 2 ^ 10 + (k.toNat * 2 ^ 7 + (z.toNat * 2 ^ 6 + (0xA4000002)))))) rfl (by omega) (fun _ => by omega) fun iw hu => ?_
  obtain ⟨h1, h2, f0, f1, f2, f3, f4, r⟩ := shape26 d a b k z 0x52 2 (by decide) (by decide) hu
  rw [decodeRaw_52 h1, decMajor52, h2]
  show (Except.ok (.vxor (bitsAt iw 20 5) (bitsAt iw 15 5) (bitsAt iw 10 5) (bitsAt iw 7 3) (flagAt iw 6), reservedZero iw [(5, 1)]) : RawDecode) = _
  rw [f0, f1, f2, f3, f4, r]

theorem RoundTrip.vandn (d : BitVec 5) (a : BitVec 5) (b : BitVec 5) (k : BitVec 3) (z : Bool) : RoundTrip.Statement (.vandn d a b k z) := by
  have h_d := d.isLt; have h_a := a.isLt; have h_b := b.isLt; have h_k := k.isLt; have h_z := Bool.toNat_le z
  refine roundTrip_of (d.toNat * 2 ^ 20 + (a.toNat * 2 ^ 15 + (b.toNat * 2 ^ 10 + (k.toNat * 2 ^ 7 + (z.toNat * 2 ^ 6 + (0xA4000003)))))) rfl (by omega) (fun _ => by omega) fun iw hu => ?_
  obtain ⟨h1, h2, f0, f1, f2, f3, f4, r⟩ := shape26 d a b k z 0x52 3 (by decide) (by decide) hu
  rw [decodeRaw_52 h1, decMajor52, h2]
  show (Except.ok (.vandn (bitsAt iw 20 5) (bitsAt iw 15 5) (bitsAt iw 10 5) (bitsAt iw 7 3) (flagAt iw 6), reservedZero iw [(5, 1)]) : RawDecode) = _
  rw [f0, f1, f2, f3, f4, r]

theorem RoundTrip.vnot (d : BitVec 5) (a : BitVec 5) (k : BitVec 3) (z : Bool) : RoundTrip.Statement (.vnot d a k z) := by
  have h_d := d.isLt; have h_a := a.isLt; have h_k := k.isLt; have h_z := Bool.toNat_le z
  refine roundTrip_of (d.toNat * 2 ^ 20 + (a.toNat * 2 ^ 15 + (k.toNat * 2 ^ 7 + (z.toNat * 2 ^ 6 + (0xA4000004))))) rfl (by omega) (fun _ => by omega) fun iw hu => ?_
  obtain ⟨h1, h2, f0, f1, f2, f3, r⟩ := shape27 d a k z 0x52 4 (by decide) (by decide) hu
  rw [decodeRaw_52 h1, decMajor52, h2]
  show (Except.ok (.vnot (bitsAt iw 20 5) (bitsAt iw 15 5) (bitsAt iw 7 3) (flagAt iw 6), reservedZero iw [(5, 1), (10, 5)]) : RawDecode) = _
  rw [f0, f1, f2, f3, r]

theorem RoundTrip.vmov (d : BitVec 5) (a : BitVec 5) (k : BitVec 3) (z : Bool) : RoundTrip.Statement (.vmov d a k z) := by
  have h_d := d.isLt; have h_a := a.isLt; have h_k := k.isLt; have h_z := Bool.toNat_le z
  refine roundTrip_of (d.toNat * 2 ^ 20 + (a.toNat * 2 ^ 15 + (k.toNat * 2 ^ 7 + (z.toNat * 2 ^ 6 + (0xA4000005))))) rfl (by omega) (fun _ => by omega) fun iw hu => ?_
  obtain ⟨h1, h2, f0, f1, f2, f3, r⟩ := shape27 d a k z 0x52 5 (by decide) (by decide) hu
  rw [decodeRaw_52 h1, decMajor52, h2]
  show (Except.ok (.vmov (bitsAt iw 20 5) (bitsAt iw 15 5) (bitsAt iw 7 3) (flagAt iw 6), reservedZero iw [(5, 1), (10, 5)]) : RawDecode) = _
  rw [f0, f1, f2, f3, r]

theorem RoundTrip.vcmpEq (d : BitVec 5) (a : BitVec 5) (b : BitVec 5) (k : BitVec 3) (z : Bool) : RoundTrip.Statement (.vcmpEq d a b k z) := by
  have h_d := d.isLt; have h_a := a.isLt; have h_b := b.isLt; have h_k := k.isLt; have h_z := Bool.toNat_le z
  refine roundTrip_of (d.toNat * 2 ^ 20 + (a.toNat * 2 ^ 15 + (b.toNat * 2 ^ 10 + (k.toNat * 2 ^ 7 + (z.toNat * 2 ^ 6 + (0xA6000000)))))) rfl (by omega) (fun _ => by omega) fun iw hu => ?_
  obtain ⟨h1, h2, f0, f1, f2, f3, f4, r⟩ := shape26 d a b k z 0x53 0 (by decide) (by decide) hu
  rw [decodeRaw_53 h1, decMajor53, h2]
  show (Except.ok (.vcmpEq (bitsAt iw 20 5) (bitsAt iw 15 5) (bitsAt iw 10 5) (bitsAt iw 7 3) (flagAt iw 6), reservedZero iw [(5, 1)]) : RawDecode) = _
  rw [f0, f1, f2, f3, f4, r]

theorem RoundTrip.vcmpNe (d : BitVec 5) (a : BitVec 5) (b : BitVec 5) (k : BitVec 3) (z : Bool) : RoundTrip.Statement (.vcmpNe d a b k z) := by
  have h_d := d.isLt; have h_a := a.isLt; have h_b := b.isLt; have h_k := k.isLt; have h_z := Bool.toNat_le z
  refine roundTrip_of (d.toNat * 2 ^ 20 + (a.toNat * 2 ^ 15 + (b.toNat * 2 ^ 10 + (k.toNat * 2 ^ 7 + (z.toNat * 2 ^ 6 + (0xA6000001)))))) rfl (by omega) (fun _ => by omega) fun iw hu => ?_
  obtain ⟨h1, h2, f0, f1, f2, f3, f4, r⟩ := shape26 d a b k z 0x53 1 (by decide) (by decide) hu
  rw [decodeRaw_53 h1, decMajor53, h2]
  show (Except.ok (.vcmpNe (bitsAt iw 20 5) (bitsAt iw 15 5) (bitsAt iw 10 5) (bitsAt iw 7 3) (flagAt iw 6), reservedZero iw [(5, 1)]) : RawDecode) = _
  rw [f0, f1, f2, f3, f4, r]

theorem RoundTrip.vcmpLt (d : BitVec 5) (a : BitVec 5) (b : BitVec 5) (k : BitVec 3) (z : Bool) : RoundTrip.Statement (.vcmpLt d a b k z) := by
  have h_d := d.isLt; have h_a := a.isLt; have h_b := b.isLt; have h_k := k.isLt; have h_z := Bool.toNat_le z
  refine roundTrip_of (d.toNat * 2 ^ 20 + (a.toNat * 2 ^ 15 + (b.toNat * 2 ^ 10 + (k.toNat * 2 ^ 7 + (z.toNat * 2 ^ 6 + (0xA6000002)))))) rfl (by omega) (fun _ => by omega) fun iw hu => ?_
  obtain ⟨h1, h2, f0, f1, f2, f3, f4, r⟩ := shape26 d a b k z 0x53 2 (by decide) (by decide) hu
  rw [decodeRaw_53 h1, decMajor53, h2]
  show (Except.ok (.vcmpLt (bitsAt iw 20 5) (bitsAt iw 15 5) (bitsAt iw 10 5) (bitsAt iw 7 3) (flagAt iw 6), reservedZero iw [(5, 1)]) : RawDecode) = _
  rw [f0, f1, f2, f3, f4, r]

theorem RoundTrip.vcmpLe (d : BitVec 5) (a : BitVec 5) (b : BitVec 5) (k : BitVec 3) (z : Bool) : RoundTrip.Statement (.vcmpLe d a b k z) := by
  have h_d := d.isLt; have h_a := a.isLt; have h_b := b.isLt; have h_k := k.isLt; have h_z := Bool.toNat_le z
  refine roundTrip_of (d.toNat * 2 ^ 20 + (a.toNat * 2 ^ 15 + (b.toNat * 2 ^ 10 + (k.toNat * 2 ^ 7 + (z.toNat * 2 ^ 6 + (0xA6000003)))))) rfl (by omega) (fun _ => by omega) fun iw hu => ?_
  obtain ⟨h1, h2, f0, f1, f2, f3, f4, r⟩ := shape26 d a b k z 0x53 3 (by decide) (by decide) hu
  rw [decodeRaw_53 h1, decMajor53, h2]
  show (Except.ok (.vcmpLe (bitsAt iw 20 5) (bitsAt iw 15 5) (bitsAt iw 10 5) (bitsAt iw 7 3) (flagAt iw 6), reservedZero iw [(5, 1)]) : RawDecode) = _
  rw [f0, f1, f2, f3, f4, r]

theorem RoundTrip.vcmpLtu (d : BitVec 5) (a : BitVec 5) (b : BitVec 5) (k : BitVec 3) (z : Bool) : RoundTrip.Statement (.vcmpLtu d a b k z) := by
  have h_d := d.isLt; have h_a := a.isLt; have h_b := b.isLt; have h_k := k.isLt; have h_z := Bool.toNat_le z
  refine roundTrip_of (d.toNat * 2 ^ 20 + (a.toNat * 2 ^ 15 + (b.toNat * 2 ^ 10 + (k.toNat * 2 ^ 7 + (z.toNat * 2 ^ 6 + (0xA6000004)))))) rfl (by omega) (fun _ => by omega) fun iw hu => ?_
  obtain ⟨h1, h2, f0, f1, f2, f3, f4, r⟩ := shape26 d a b k z 0x53 4 (by decide) (by decide) hu
  rw [decodeRaw_53 h1, decMajor53, h2]
  show (Except.ok (.vcmpLtu (bitsAt iw 20 5) (bitsAt iw 15 5) (bitsAt iw 10 5) (bitsAt iw 7 3) (flagAt iw 6), reservedZero iw [(5, 1)]) : RawDecode) = _
  rw [f0, f1, f2, f3, f4, r]

theorem RoundTrip.vcmpLeu (d : BitVec 5) (a : BitVec 5) (b : BitVec 5) (k : BitVec 3) (z : Bool) : RoundTrip.Statement (.vcmpLeu d a b k z) := by
  have h_d := d.isLt; have h_a := a.isLt; have h_b := b.isLt; have h_k := k.isLt; have h_z := Bool.toNat_le z
  refine roundTrip_of (d.toNat * 2 ^ 20 + (a.toNat * 2 ^ 15 + (b.toNat * 2 ^ 10 + (k.toNat * 2 ^ 7 + (z.toNat * 2 ^ 6 + (0xA6000005)))))) rfl (by omega) (fun _ => by omega) fun iw hu => ?_
  obtain ⟨h1, h2, f0, f1, f2, f3, f4, r⟩ := shape26 d a b k z 0x53 5 (by decide) (by decide) hu
  rw [decodeRaw_53 h1, decMajor53, h2]
  show (Except.ok (.vcmpLeu (bitsAt iw 20 5) (bitsAt iw 15 5) (bitsAt iw 10 5) (bitsAt iw 7 3) (flagAt iw 6), reservedZero iw [(5, 1)]) : RawDecode) = _
  rw [f0, f1, f2, f3, f4, r]

theorem RoundTrip.vfcmpEq (d : BitVec 5) (a : BitVec 5) (b : BitVec 5) (k : BitVec 3) (z : Bool) : RoundTrip.Statement (.vfcmpEq d a b k z) := by
  have h_d := d.isLt; have h_a := a.isLt; have h_b := b.isLt; have h_k := k.isLt; have h_z := Bool.toNat_le z
  refine roundTrip_of (d.toNat * 2 ^ 20 + (a.toNat * 2 ^ 15 + (b.toNat * 2 ^ 10 + (k.toNat * 2 ^ 7 + (z.toNat * 2 ^ 6 + (0xA6000006)))))) rfl (by omega) (fun _ => by omega) fun iw hu => ?_
  obtain ⟨h1, h2, f0, f1, f2, f3, f4, r⟩ := shape26 d a b k z 0x53 6 (by decide) (by decide) hu
  rw [decodeRaw_53 h1, decMajor53, h2]
  show (Except.ok (.vfcmpEq (bitsAt iw 20 5) (bitsAt iw 15 5) (bitsAt iw 10 5) (bitsAt iw 7 3) (flagAt iw 6), reservedZero iw [(5, 1)]) : RawDecode) = _
  rw [f0, f1, f2, f3, f4, r]

theorem RoundTrip.vfcmpLt (d : BitVec 5) (a : BitVec 5) (b : BitVec 5) (k : BitVec 3) (z : Bool) : RoundTrip.Statement (.vfcmpLt d a b k z) := by
  have h_d := d.isLt; have h_a := a.isLt; have h_b := b.isLt; have h_k := k.isLt; have h_z := Bool.toNat_le z
  refine roundTrip_of (d.toNat * 2 ^ 20 + (a.toNat * 2 ^ 15 + (b.toNat * 2 ^ 10 + (k.toNat * 2 ^ 7 + (z.toNat * 2 ^ 6 + (0xA6000007)))))) rfl (by omega) (fun _ => by omega) fun iw hu => ?_
  obtain ⟨h1, h2, f0, f1, f2, f3, f4, r⟩ := shape26 d a b k z 0x53 7 (by decide) (by decide) hu
  rw [decodeRaw_53 h1, decMajor53, h2]
  show (Except.ok (.vfcmpLt (bitsAt iw 20 5) (bitsAt iw 15 5) (bitsAt iw 10 5) (bitsAt iw 7 3) (flagAt iw 6), reservedZero iw [(5, 1)]) : RawDecode) = _
  rw [f0, f1, f2, f3, f4, r]

theorem RoundTrip.vfcmpLe (d : BitVec 5) (a : BitVec 5) (b : BitVec 5) (k : BitVec 3) (z : Bool) : RoundTrip.Statement (.vfcmpLe d a b k z) := by
  have h_d := d.isLt; have h_a := a.isLt; have h_b := b.isLt; have h_k := k.isLt; have h_z := Bool.toNat_le z
  refine roundTrip_of (d.toNat * 2 ^ 20 + (a.toNat * 2 ^ 15 + (b.toNat * 2 ^ 10 + (k.toNat * 2 ^ 7 + (z.toNat * 2 ^ 6 + (0xA6000008)))))) rfl (by omega) (fun _ => by omega) fun iw hu => ?_
  obtain ⟨h1, h2, f0, f1, f2, f3, f4, r⟩ := shape26 d a b k z 0x53 8 (by decide) (by decide) hu
  rw [decodeRaw_53 h1, decMajor53, h2]
  show (Except.ok (.vfcmpLe (bitsAt iw 20 5) (bitsAt iw 15 5) (bitsAt iw 10 5) (bitsAt iw 7 3) (flagAt iw 6), reservedZero iw [(5, 1)]) : RawDecode) = _
  rw [f0, f1, f2, f3, f4, r]

theorem RoundTrip.vfcmpUn (d : BitVec 5) (a : BitVec 5) (b : BitVec 5) (k : BitVec 3) (z : Bool) : RoundTrip.Statement (.vfcmpUn d a b k z) := by
  have h_d := d.isLt; have h_a := a.isLt; have h_b := b.isLt; have h_k := k.isLt; have h_z := Bool.toNat_le z
  refine roundTrip_of (d.toNat * 2 ^ 20 + (a.toNat * 2 ^ 15 + (b.toNat * 2 ^ 10 + (k.toNat * 2 ^ 7 + (z.toNat * 2 ^ 6 + (0xA6000009)))))) rfl (by omega) (fun _ => by omega) fun iw hu => ?_
  obtain ⟨h1, h2, f0, f1, f2, f3, f4, r⟩ := shape26 d a b k z 0x53 9 (by decide) (by decide) hu
  rw [decodeRaw_53 h1, decMajor53, h2]
  show (Except.ok (.vfcmpUn (bitsAt iw 20 5) (bitsAt iw 15 5) (bitsAt iw 10 5) (bitsAt iw 7 3) (flagAt iw 6), reservedZero iw [(5, 1)]) : RawDecode) = _
  rw [f0, f1, f2, f3, f4, r]

theorem RoundTrip.vsel (d : BitVec 5) (a : BitVec 5) (b : BitVec 5) (k : BitVec 3) : RoundTrip.Statement (.vsel d a b k) := by
  have h_d := d.isLt; have h_a := a.isLt; have h_b := b.isLt; have h_k := k.isLt
  refine roundTrip_of (d.toNat * 2 ^ 20 + (a.toNat * 2 ^ 15 + (b.toNat * 2 ^ 10 + (k.toNat * 2 ^ 7 + (0xA8000000))))) rfl (by omega) (fun _ => by omega) fun iw hu => ?_
  obtain ⟨h1, h2, f0, f1, f2, f3, r⟩ := shape28 d a b k 0x54 0 (by decide) (by decide) hu
  rw [decodeRaw_54 h1, decMajor54, h2]
  show (Except.ok (.vsel (bitsAt iw 20 5) (bitsAt iw 15 5) (bitsAt iw 10 5) (bitsAt iw 7 3), reservedZero iw [(5, 2)]) : RawDecode) = _
  rw [f0, f1, f2, f3, r]

theorem RoundTrip.vrot (d : BitVec 5) (a : BitVec 5) (n : BitVec 5) (k : BitVec 3) (z : Bool) : RoundTrip.Statement (.vrot d a n k z) := by
  have h_d := d.isLt; have h_a := a.isLt; have h_n := n.isLt; have h_k := k.isLt; have h_z := Bool.toNat_le z
  refine roundTrip_of (d.toNat * 2 ^ 20 + (a.toNat * 2 ^ 15 + (n.toNat * 2 ^ 10 + (k.toNat * 2 ^ 7 + (z.toNat * 2 ^ 6 + (0xA8000001)))))) rfl (by omega) (fun _ => by omega) fun iw hu => ?_
  obtain ⟨h1, h2, f0, f1, f2, f3, f4, r⟩ := shape29 d a n k z 0x54 1 (by decide) (by decide) hu
  rw [decodeRaw_54 h1, decMajor54, h2]
  show (Except.ok (.vrot (bitsAt iw 20 5) (bitsAt iw 15 5) (bitsAt iw 10 5) (bitsAt iw 7 3) (flagAt iw 6), reservedZero iw [(5, 1)]) : RawDecode) = _
  rw [f0, f1, f2, f3, f4, r]

theorem RoundTrip.vshup (d : BitVec 5) (a : BitVec 5) (n : BitVec 5) (k : BitVec 3) (z : Bool) : RoundTrip.Statement (.vshup d a n k z) := by
  have h_d := d.isLt; have h_a := a.isLt; have h_n := n.isLt; have h_k := k.isLt; have h_z := Bool.toNat_le z
  refine roundTrip_of (d.toNat * 2 ^ 20 + (a.toNat * 2 ^ 15 + (n.toNat * 2 ^ 10 + (k.toNat * 2 ^ 7 + (z.toNat * 2 ^ 6 + (0xA8000002)))))) rfl (by omega) (fun _ => by omega) fun iw hu => ?_
  obtain ⟨h1, h2, f0, f1, f2, f3, f4, r⟩ := shape29 d a n k z 0x54 2 (by decide) (by decide) hu
  rw [decodeRaw_54 h1, decMajor54, h2]
  show (Except.ok (.vshup (bitsAt iw 20 5) (bitsAt iw 15 5) (bitsAt iw 10 5) (bitsAt iw 7 3) (flagAt iw 6), reservedZero iw [(5, 1)]) : RawDecode) = _
  rw [f0, f1, f2, f3, f4, r]

theorem RoundTrip.vshdn (d : BitVec 5) (a : BitVec 5) (n : BitVec 5) (k : BitVec 3) (z : Bool) : RoundTrip.Statement (.vshdn d a n k z) := by
  have h_d := d.isLt; have h_a := a.isLt; have h_n := n.isLt; have h_k := k.isLt; have h_z := Bool.toNat_le z
  refine roundTrip_of (d.toNat * 2 ^ 20 + (a.toNat * 2 ^ 15 + (n.toNat * 2 ^ 10 + (k.toNat * 2 ^ 7 + (z.toNat * 2 ^ 6 + (0xA8000003)))))) rfl (by omega) (fun _ => by omega) fun iw hu => ?_
  obtain ⟨h1, h2, f0, f1, f2, f3, f4, r⟩ := shape29 d a n k z 0x54 3 (by decide) (by decide) hu
  rw [decodeRaw_54 h1, decMajor54, h2]
  show (Except.ok (.vshdn (bitsAt iw 20 5) (bitsAt iw 15 5) (bitsAt iw 10 5) (bitsAt iw 7 3) (flagAt iw 6), reservedZero iw [(5, 1)]) : RawDecode) = _
  rw [f0, f1, f2, f3, f4, r]

theorem RoundTrip.vbcast (d : BitVec 5) (a : BitVec 5) (k : BitVec 3) (z : Bool) (w : Bool) : RoundTrip.Statement (.vbcast d a k z w) := by
  have h_d := d.isLt; have h_a := a.isLt; have h_k := k.isLt; have h_z := Bool.toNat_le z; have h_w := Bool.toNat_le w
  refine roundTrip_of (d.toNat * 2 ^ 20 + (a.toNat * 2 ^ 15 + (k.toNat * 2 ^ 7 + (z.toNat * 2 ^ 6 + (w.toNat * 2 ^ 5 + (0xA8000004)))))) rfl (by omega) (fun _ => by omega) fun iw hu => ?_
  obtain ⟨h1, h2, f0, f1, f2, f3, f4, r⟩ := shape30 d a k z w 0x54 4 (by decide) (by decide) hu
  rw [decodeRaw_54 h1, decMajor54, h2]
  show (Except.ok (.vbcast (bitsAt iw 20 5) (bitsAt iw 15 5) (bitsAt iw 7 3) (flagAt iw 6) (flagAt iw 5), reservedZero iw [(10, 5)]) : RawDecode) = _
  rw [f0, f1, f2, f3, f4, r]

theorem RoundTrip.vmvSV (d : BitVec 5) (a : BitVec 5) (l : BitVec 5) : RoundTrip.Statement (.vmvSV d a l) := by
  have h_d := d.isLt; have h_a := a.isLt; have h_l := l.isLt
  refine roundTrip_of (d.toNat * 2 ^ 20 + (a.toNat * 2 ^ 15 + (l.toNat * 2 ^ 10 + (0xA8000005)))) rfl (by omega) (fun _ => by omega) fun iw hu => ?_
  obtain ⟨h1, h2, f0, f1, f2, r⟩ := shape31 d a l 0x54 5 (by decide) (by decide) hu
  rw [decodeRaw_54 h1, decMajor54, h2]
  show (Except.ok (.vmvSV (bitsAt iw 20 5) (bitsAt iw 15 5) (bitsAt iw 10 5), reservedZero iw [(5, 5)]) : RawDecode) = _
  rw [f0, f1, f2, r]

theorem RoundTrip.vmvVS (d : BitVec 5) (a : BitVec 5) (l : BitVec 5) (w : Bool) : RoundTrip.Statement (.vmvVS d a l w) := by
  have h_d := d.isLt; have h_a := a.isLt; have h_l := l.isLt; have h_w := Bool.toNat_le w
  refine roundTrip_of (d.toNat * 2 ^ 20 + (a.toNat * 2 ^ 15 + (l.toNat * 2 ^ 10 + (w.toNat * 2 ^ 5 + (0xA8000006))))) rfl (by omega) (fun _ => by omega) fun iw hu => ?_
  obtain ⟨h1, h2, f0, f1, f2, f3, r⟩ := shape32 d a l w 0x54 6 (by decide) (by decide) hu
  rw [decodeRaw_54 h1, decMajor54, h2]
  show (Except.ok (.vmvVS (bitsAt iw 20 5) (bitsAt iw 15 5) (bitsAt iw 10 5) (flagAt iw 5), reservedZero iw [(6, 4)]) : RawDecode) = _
  rw [f0, f1, f2, f3, r]

theorem RoundTrip.vredAdd (d : BitVec 5) (a : BitVec 5) (k : BitVec 3) : RoundTrip.Statement (.vredAdd d a k) := by
  have h_d := d.isLt; have h_a := a.isLt; have h_k := k.isLt
  refine roundTrip_of (d.toNat * 2 ^ 20 + (a.toNat * 2 ^ 15 + (k.toNat * 2 ^ 7 + (0xAA000000)))) rfl (by omega) (fun _ => by omega) fun iw hu => ?_
  obtain ⟨h1, h2, f0, f1, f2, r⟩ := shape33 d a k 0x55 0 (by decide) (by decide) hu
  rw [decodeRaw_55 h1, decMajor55, h2]
  show (Except.ok (.vredAdd (bitsAt iw 20 5) (bitsAt iw 15 5) (bitsAt iw 7 3), reservedZero iw [(5, 2), (10, 5)]) : RawDecode) = _
  rw [f0, f1, f2, r]

theorem RoundTrip.vredFadd (d : BitVec 5) (a : BitVec 5) (k : BitVec 3) : RoundTrip.Statement (.vredFadd d a k) := by
  have h_d := d.isLt; have h_a := a.isLt; have h_k := k.isLt
  refine roundTrip_of (d.toNat * 2 ^ 20 + (a.toNat * 2 ^ 15 + (k.toNat * 2 ^ 7 + (0xAA000001)))) rfl (by omega) (fun _ => by omega) fun iw hu => ?_
  obtain ⟨h1, h2, f0, f1, f2, r⟩ := shape33 d a k 0x55 1 (by decide) (by decide) hu
  rw [decodeRaw_55 h1, decMajor55, h2]
  show (Except.ok (.vredFadd (bitsAt iw 20 5) (bitsAt iw 15 5) (bitsAt iw 7 3), reservedZero iw [(5, 2), (10, 5)]) : RawDecode) = _
  rw [f0, f1, f2, r]

theorem RoundTrip.vredMax (d : BitVec 5) (a : BitVec 5) (k : BitVec 3) : RoundTrip.Statement (.vredMax d a k) := by
  have h_d := d.isLt; have h_a := a.isLt; have h_k := k.isLt
  refine roundTrip_of (d.toNat * 2 ^ 20 + (a.toNat * 2 ^ 15 + (k.toNat * 2 ^ 7 + (0xAA000002)))) rfl (by omega) (fun _ => by omega) fun iw hu => ?_
  obtain ⟨h1, h2, f0, f1, f2, r⟩ := shape33 d a k 0x55 2 (by decide) (by decide) hu
  rw [decodeRaw_55 h1, decMajor55, h2]
  show (Except.ok (.vredMax (bitsAt iw 20 5) (bitsAt iw 15 5) (bitsAt iw 7 3), reservedZero iw [(5, 2), (10, 5)]) : RawDecode) = _
  rw [f0, f1, f2, r]

theorem RoundTrip.vredMin (d : BitVec 5) (a : BitVec 5) (k : BitVec 3) : RoundTrip.Statement (.vredMin d a k) := by
  have h_d := d.isLt; have h_a := a.isLt; have h_k := k.isLt
  refine roundTrip_of (d.toNat * 2 ^ 20 + (a.toNat * 2 ^ 15 + (k.toNat * 2 ^ 7 + (0xAA000003)))) rfl (by omega) (fun _ => by omega) fun iw hu => ?_
  obtain ⟨h1, h2, f0, f1, f2, r⟩ := shape33 d a k 0x55 3 (by decide) (by decide) hu
  rw [decodeRaw_55 h1, decMajor55, h2]
  show (Except.ok (.vredMin (bitsAt iw 20 5) (bitsAt iw 15 5) (bitsAt iw 7 3), reservedZero iw [(5, 2), (10, 5)]) : RawDecode) = _
  rw [f0, f1, f2, r]

theorem RoundTrip.vredFmax (d : BitVec 5) (a : BitVec 5) (k : BitVec 3) : RoundTrip.Statement (.vredFmax d a k) := by
  have h_d := d.isLt; have h_a := a.isLt; have h_k := k.isLt
  refine roundTrip_of (d.toNat * 2 ^ 20 + (a.toNat * 2 ^ 15 + (k.toNat * 2 ^ 7 + (0xAA000004)))) rfl (by omega) (fun _ => by omega) fun iw hu => ?_
  obtain ⟨h1, h2, f0, f1, f2, r⟩ := shape33 d a k 0x55 4 (by decide) (by decide) hu
  rw [decodeRaw_55 h1, decMajor55, h2]
  show (Except.ok (.vredFmax (bitsAt iw 20 5) (bitsAt iw 15 5) (bitsAt iw 7 3), reservedZero iw [(5, 2), (10, 5)]) : RawDecode) = _
  rw [f0, f1, f2, r]

theorem RoundTrip.vscanAdd (d : BitVec 5) (a : BitVec 5) (k : BitVec 3) (z : Bool) : RoundTrip.Statement (.vscanAdd d a k z) := by
  have h_d := d.isLt; have h_a := a.isLt; have h_k := k.isLt; have h_z := Bool.toNat_le z
  refine roundTrip_of (d.toNat * 2 ^ 20 + (a.toNat * 2 ^ 15 + (k.toNat * 2 ^ 7 + (z.toNat * 2 ^ 6 + (0xAA000005))))) rfl (by omega) (fun _ => by omega) fun iw hu => ?_
  obtain ⟨h1, h2, f0, f1, f2, f3, r⟩ := shape27 d a k z 0x55 5 (by decide) (by decide) hu
  rw [decodeRaw_55 h1, decMajor55, h2]
  show (Except.ok (.vscanAdd (bitsAt iw 20 5) (bitsAt iw 15 5) (bitsAt iw 7 3) (flagAt iw 6), reservedZero iw [(5, 1), (10, 5)]) : RawDecode) = _
  rw [f0, f1, f2, f3, r]

theorem RoundTrip.vscanFadd (d : BitVec 5) (a : BitVec 5) (k : BitVec 3) (z : Bool) : RoundTrip.Statement (.vscanFadd d a k z) := by
  have h_d := d.isLt; have h_a := a.isLt; have h_k := k.isLt; have h_z := Bool.toNat_le z
  refine roundTrip_of (d.toNat * 2 ^ 20 + (a.toNat * 2 ^ 15 + (k.toNat * 2 ^ 7 + (z.toNat * 2 ^ 6 + (0xAA000006))))) rfl (by omega) (fun _ => by omega) fun iw hu => ?_
  obtain ⟨h1, h2, f0, f1, f2, f3, r⟩ := shape27 d a k z 0x55 6 (by decide) (by decide) hu
  rw [decodeRaw_55 h1, decMajor55, h2]
  show (Except.ok (.vscanFadd (bitsAt iw 20 5) (bitsAt iw 15 5) (bitsAt iw 7 3) (flagAt iw 6), reservedZero iw [(5, 1), (10, 5)]) : RawDecode) = _
  rw [f0, f1, f2, f3, r]

theorem RoundTrip.vld (d : BitVec 5) (a : BitVec 5) (o : BitVec 5) (k : BitVec 3) (z : Bool) (w : Bool) : RoundTrip.Statement (.vld d a o k z w) := by
  have h_d := d.isLt; have h_a := a.isLt; have h_o := o.isLt; have h_k := k.isLt; have h_z := Bool.toNat_le z; have h_w := Bool.toNat_le w
  refine roundTrip_of (d.toNat * 2 ^ 20 + (a.toNat * 2 ^ 15 + (o.toNat * 2 ^ 10 + (k.toNat * 2 ^ 7 + (z.toNat * 2 ^ 6 + (w.toNat * 2 ^ 5 + (0xAC000000))))))) rfl (by omega) (fun _ => by omega) fun iw hu => ?_
  obtain ⟨h1, h2, f0, f1, f2, f3, f4, f5⟩ := shape34 d a o k z w 0x56 0 (by decide) (by decide) hu
  rw [decodeRaw_56 h1, decMajor56, h2]
  show (Except.ok (.vld (bitsAt iw 20 5) (bitsAt iw 15 5) (bitsAt iw 10 5) (bitsAt iw 7 3) (flagAt iw 6) (flagAt iw 5), true) : RawDecode) = _
  rw [f0, f1, f2, f3, f4, f5]

theorem RoundTrip.vst (d : BitVec 5) (a : BitVec 5) (o : BitVec 5) (k : BitVec 3) (w : Bool) : RoundTrip.Statement (.vst d a o k w) := by
  have h_d := d.isLt; have h_a := a.isLt; have h_o := o.isLt; have h_k := k.isLt; have h_w := Bool.toNat_le w
  refine roundTrip_of (d.toNat * 2 ^ 20 + (a.toNat * 2 ^ 15 + (o.toNat * 2 ^ 10 + (k.toNat * 2 ^ 7 + (w.toNat * 2 ^ 5 + (0xAC000001)))))) rfl (by omega) (fun _ => by omega) fun iw hu => ?_
  obtain ⟨h1, h2, f0, f1, f2, f3, f4, r⟩ := shape35 d a o k w 0x56 1 (by decide) (by decide) hu
  rw [decodeRaw_56 h1, decMajor56, h2]
  show (Except.ok (.vst (bitsAt iw 20 5) (bitsAt iw 15 5) (bitsAt iw 10 5) (bitsAt iw 7 3) (flagAt iw 5), reservedZero iw [(6, 1)]) : RawDecode) = _
  rw [f0, f1, f2, f3, f4, r]

theorem RoundTrip.vgat (d : BitVec 5) (a : BitVec 5) (b : BitVec 5) (k : BitVec 3) (z : Bool) (w : Bool) : RoundTrip.Statement (.vgat d a b k z w) := by
  have h_d := d.isLt; have h_a := a.isLt; have h_b := b.isLt; have h_k := k.isLt; have h_z := Bool.toNat_le z; have h_w := Bool.toNat_le w
  refine roundTrip_of (d.toNat * 2 ^ 20 + (a.toNat * 2 ^ 15 + (b.toNat * 2 ^ 10 + (k.toNat * 2 ^ 7 + (z.toNat * 2 ^ 6 + (w.toNat * 2 ^ 5 + (0xAC000002))))))) rfl (by omega) (fun _ => by omega) fun iw hu => ?_
  obtain ⟨h1, h2, f0, f1, f2, f3, f4, f5⟩ := shape36 d a b k z w 0x56 2 (by decide) (by decide) hu
  rw [decodeRaw_56 h1, decMajor56, h2]
  show (Except.ok (.vgat (bitsAt iw 20 5) (bitsAt iw 15 5) (bitsAt iw 10 5) (bitsAt iw 7 3) (flagAt iw 6) (flagAt iw 5), true) : RawDecode) = _
  rw [f0, f1, f2, f3, f4, f5]

theorem RoundTrip.vsct (d : BitVec 5) (a : BitVec 5) (b : BitVec 5) (k : BitVec 3) (w : Bool) : RoundTrip.Statement (.vsct d a b k w) := by
  have h_d := d.isLt; have h_a := a.isLt; have h_b := b.isLt; have h_k := k.isLt; have h_w := Bool.toNat_le w
  refine roundTrip_of (d.toNat * 2 ^ 20 + (a.toNat * 2 ^ 15 + (b.toNat * 2 ^ 10 + (k.toNat * 2 ^ 7 + (w.toNat * 2 ^ 5 + (0xAC000003)))))) rfl (by omega) (fun _ => by omega) fun iw hu => ?_
  obtain ⟨h1, h2, f0, f1, f2, f3, f4, r⟩ := shape37 d a b k w 0x56 3 (by decide) (by decide) hu
  rw [decodeRaw_56 h1, decMajor56, h2]
  show (Except.ok (.vsct (bitsAt iw 20 5) (bitsAt iw 15 5) (bitsAt iw 10 5) (bitsAt iw 7 3) (flagAt iw 5), reservedZero iw [(6, 1)]) : RawDecode) = _
  rw [f0, f1, f2, f3, f4, r]

theorem RoundTrip.vcvt (d : BitVec 5) (a : BitVec 5) (f : BitVec 5) (k : BitVec 3) (z : Bool) : RoundTrip.Statement (.vcvt d a f k z) := by
  have h_d := d.isLt; have h_a := a.isLt; have h_f := f.isLt; have h_k := k.isLt; have h_z := Bool.toNat_le z
  refine roundTrip_of (d.toNat * 2 ^ 20 + (a.toNat * 2 ^ 15 + (f.toNat * 2 ^ 10 + (k.toNat * 2 ^ 7 + (z.toNat * 2 ^ 6 + (0xAE000000)))))) rfl (by omega) (fun _ => by omega) fun iw hu => ?_
  obtain ⟨h1, h2, f0, f1, f2, f3, f4, r⟩ := shape38 d a f k z 0x57 0 (by decide) (by decide) hu
  rw [decodeRaw_57 h1, decMajor57, h2]
  show (Except.ok (.vcvt (bitsAt iw 20 5) (bitsAt iw 15 5) (bitsAt iw 10 5) (bitsAt iw 7 3) (flagAt iw 6), reservedZero iw [(5, 1)]) : RawDecode) = _
  rw [f0, f1, f2, f3, f4, r]

theorem RoundTrip.vscvt (d : BitVec 5) (a : BitVec 5) (f : BitVec 5) (k : BitVec 3) (z : Bool) : RoundTrip.Statement (.vscvt d a f k z) := by
  have h_d := d.isLt; have h_a := a.isLt; have h_f := f.isLt; have h_k := k.isLt; have h_z := Bool.toNat_le z
  refine roundTrip_of (d.toNat * 2 ^ 20 + (a.toNat * 2 ^ 15 + (f.toNat * 2 ^ 10 + (k.toNat * 2 ^ 7 + (z.toNat * 2 ^ 6 + (0xAE000001)))))) rfl (by omega) (fun _ => by omega) fun iw hu => ?_
  obtain ⟨h1, h2, f0, f1, f2, f3, f4, r⟩ := shape38 d a f k z 0x57 1 (by decide) (by decide) hu
  rw [decodeRaw_57 h1, decMajor57, h2]
  show (Except.ok (.vscvt (bitsAt iw 20 5) (bitsAt iw 15 5) (bitsAt iw 10 5) (bitsAt iw 7 3) (flagAt iw 6), reservedZero iw [(5, 1)]) : RawDecode) = _
  rw [f0, f1, f2, f3, f4, r]

theorem RoundTrip.vpack (d : BitVec 5) (a : BitVec 5) (f : BitVec 5) : RoundTrip.Statement (.vpack d a f) := by
  have h_d := d.isLt; have h_a := a.isLt; have h_f := f.isLt
  refine roundTrip_of (d.toNat * 2 ^ 20 + (a.toNat * 2 ^ 15 + (f.toNat * 2 ^ 10 + (0xAE000002)))) rfl (by omega) (fun _ => by omega) fun iw hu => ?_
  obtain ⟨h1, h2, f0, f1, f2, r⟩ := shape39 d a f 0x57 2 (by decide) (by decide) hu
  rw [decodeRaw_57 h1, decMajor57, h2]
  show (Except.ok (.vpack (bitsAt iw 20 5) (bitsAt iw 15 5) (bitsAt iw 10 5), reservedZero iw [(5, 5)]) : RawDecode) = _
  rw [f0, f1, f2, r]

theorem RoundTrip.vunpk (d : BitVec 5) (a : BitVec 5) (f : BitVec 5) : RoundTrip.Statement (.vunpk d a f) := by
  have h_d := d.isLt; have h_a := a.isLt; have h_f := f.isLt
  refine roundTrip_of (d.toNat * 2 ^ 20 + (a.toNat * 2 ^ 15 + (f.toNat * 2 ^ 10 + (0xAE000003)))) rfl (by omega) (fun _ => by omega) fun iw hu => ?_
  obtain ⟨h1, h2, f0, f1, f2, r⟩ := shape39 d a f 0x57 3 (by decide) (by decide) hu
  rw [decodeRaw_57 h1, decMajor57, h2]
  show (Except.ok (.vunpk (bitsAt iw 20 5) (bitsAt iw 15 5) (bitsAt iw 10 5), reservedZero iw [(5, 5)]) : RawDecode) = _
  rw [f0, f1, f2, r]

theorem RoundTrip.kand (d : BitVec 5) (a : BitVec 5) (b : BitVec 5) : RoundTrip.Statement (.kand d a b) := by
  have h_d := d.isLt; have h_a := a.isLt; have h_b := b.isLt
  refine roundTrip_of (d.toNat * 2 ^ 20 + (a.toNat * 2 ^ 15 + (b.toNat * 2 ^ 10 + (0xB0000000)))) rfl (by omega) (fun _ => by omega) fun iw hu => ?_
  obtain ⟨h1, h2, f0, f1, f2, r⟩ := shape40 d a b 0x58 0 (by decide) (by decide) hu
  rw [decodeRaw_58 h1, decMajor58, h2]
  show (Except.ok (.kand (bitsAt iw 20 5) (bitsAt iw 15 5) (bitsAt iw 10 5), reservedZero iw [(5, 5)]) : RawDecode) = _
  rw [f0, f1, f2, r]

theorem RoundTrip.kor (d : BitVec 5) (a : BitVec 5) (b : BitVec 5) : RoundTrip.Statement (.kor d a b) := by
  have h_d := d.isLt; have h_a := a.isLt; have h_b := b.isLt
  refine roundTrip_of (d.toNat * 2 ^ 20 + (a.toNat * 2 ^ 15 + (b.toNat * 2 ^ 10 + (0xB0000001)))) rfl (by omega) (fun _ => by omega) fun iw hu => ?_
  obtain ⟨h1, h2, f0, f1, f2, r⟩ := shape40 d a b 0x58 1 (by decide) (by decide) hu
  rw [decodeRaw_58 h1, decMajor58, h2]
  show (Except.ok (.kor (bitsAt iw 20 5) (bitsAt iw 15 5) (bitsAt iw 10 5), reservedZero iw [(5, 5)]) : RawDecode) = _
  rw [f0, f1, f2, r]

theorem RoundTrip.kxor (d : BitVec 5) (a : BitVec 5) (b : BitVec 5) : RoundTrip.Statement (.kxor d a b) := by
  have h_d := d.isLt; have h_a := a.isLt; have h_b := b.isLt
  refine roundTrip_of (d.toNat * 2 ^ 20 + (a.toNat * 2 ^ 15 + (b.toNat * 2 ^ 10 + (0xB0000002)))) rfl (by omega) (fun _ => by omega) fun iw hu => ?_
  obtain ⟨h1, h2, f0, f1, f2, r⟩ := shape40 d a b 0x58 2 (by decide) (by decide) hu
  rw [decodeRaw_58 h1, decMajor58, h2]
  show (Except.ok (.kxor (bitsAt iw 20 5) (bitsAt iw 15 5) (bitsAt iw 10 5), reservedZero iw [(5, 5)]) : RawDecode) = _
  rw [f0, f1, f2, r]

theorem RoundTrip.knot (d : BitVec 5) (a : BitVec 5) : RoundTrip.Statement (.knot d a) := by
  have h_d := d.isLt; have h_a := a.isLt
  refine roundTrip_of (d.toNat * 2 ^ 20 + (a.toNat * 2 ^ 15 + (0xB0000003))) rfl (by omega) (fun _ => by omega) fun iw hu => ?_
  obtain ⟨h1, h2, f0, f1, r⟩ := shape41 d a 0x58 3 (by decide) (by decide) hu
  rw [decodeRaw_58 h1, decMajor58, h2]
  show (Except.ok (.knot (bitsAt iw 20 5) (bitsAt iw 15 5), reservedZero iw [(5, 10)]) : RawDecode) = _
  rw [f0, f1, r]

theorem RoundTrip.kmov (d : BitVec 5) (a : BitVec 5) : RoundTrip.Statement (.kmov d a) := by
  have h_d := d.isLt; have h_a := a.isLt
  refine roundTrip_of (d.toNat * 2 ^ 20 + (a.toNat * 2 ^ 15 + (0xB0000004))) rfl (by omega) (fun _ => by omega) fun iw hu => ?_
  obtain ⟨h1, h2, f0, f1, r⟩ := shape41 d a 0x58 4 (by decide) (by decide) hu
  rw [decodeRaw_58 h1, decMajor58, h2]
  show (Except.ok (.kmov (bitsAt iw 20 5) (bitsAt iw 15 5), reservedZero iw [(5, 10)]) : RawDecode) = _
  rw [f0, f1, r]

theorem RoundTrip.kpopc (d : BitVec 5) (a : BitVec 5) : RoundTrip.Statement (.kpopc d a) := by
  have h_d := d.isLt; have h_a := a.isLt
  refine roundTrip_of (d.toNat * 2 ^ 20 + (a.toNat * 2 ^ 15 + (0xB0000005))) rfl (by omega) (fun _ => by omega) fun iw hu => ?_
  obtain ⟨h1, h2, f0, f1, r⟩ := shape41 d a 0x58 5 (by decide) (by decide) hu
  rw [decodeRaw_58 h1, decMajor58, h2]
  show (Except.ok (.kpopc (bitsAt iw 20 5) (bitsAt iw 15 5), reservedZero iw [(5, 10)]) : RawDecode) = _
  rw [f0, f1, r]

theorem RoundTrip.kfrom (d : BitVec 5) (a : BitVec 5) (w : Bool) : RoundTrip.Statement (.kfrom d a w) := by
  have h_d := d.isLt; have h_a := a.isLt; have h_w := Bool.toNat_le w
  refine roundTrip_of (d.toNat * 2 ^ 20 + (a.toNat * 2 ^ 15 + (w.toNat * 2 ^ 5 + (0xB0000006)))) rfl (by omega) (fun _ => by omega) fun iw hu => ?_
  obtain ⟨h1, h2, f0, f1, f2, r⟩ := shape42 d a w 0x58 6 (by decide) (by decide) hu
  rw [decodeRaw_58 h1, decMajor58, h2]
  show (Except.ok (.kfrom (bitsAt iw 20 5) (bitsAt iw 15 5) (flagAt iw 5), reservedZero iw [(6, 9)]) : RawDecode) = _
  rw [f0, f1, f2, r]

theorem RoundTrip.vcfg (n : BitVec 5) (a : BitVec 5) (w : Bool) : RoundTrip.Statement (.vcfg n a w) := by
  have h_n := n.isLt; have h_a := a.isLt; have h_w := Bool.toNat_le w
  refine roundTrip_of (n.toNat * 2 ^ 20 + (a.toNat * 2 ^ 15 + (w.toNat * 2 ^ 5 + (0xB2000000)))) rfl (by omega) (fun _ => by omega) fun iw hu => ?_
  obtain ⟨h1, h2, f0, f1, f2, r⟩ := shape43 n a w 0x59 0 (by decide) (by decide) hu
  rw [decodeRaw_59 h1, decMajor59, h2]
  show (Except.ok (.vcfg (bitsAt iw 20 5) (bitsAt iw 15 5) (flagAt iw 5), reservedZero iw [(6, 9)]) : RawDecode) = _
  rw [f0, f1, f2, r]

theorem RoundTrip.vrun (b : BitVec 5) (k : BitVec 3) (z : Bool) : RoundTrip.Statement (.vrun b k z) := by
  have h_b := b.isLt; have h_k := k.isLt; have h_z := Bool.toNat_le z
  refine roundTrip_of (b.toNat * 2 ^ 10 + (k.toNat * 2 ^ 7 + (z.toNat * 2 ^ 6 + (0xB2000001)))) rfl (by omega) (fun _ => by omega) fun iw hu => ?_
  obtain ⟨h1, h2, f0, f1, f2, r⟩ := shape44 b k z 0x59 1 (by decide) (by decide) hu
  rw [decodeRaw_59 h1, decMajor59, h2]
  show (Except.ok (.vrun (bitsAt iw 10 5) (bitsAt iw 7 3) (flagAt iw 6), reservedZero iw [(5, 1), (15, 10)]) : RawDecode) = _
  rw [f0, f1, f2, r]

theorem RoundTrip.vpark (d : BitVec 5) (a : BitVec 5) (k : BitVec 3) (w : Bool) : RoundTrip.Statement (.vpark d a k w) := by
  have h_d := d.isLt; have h_a := a.isLt; have h_k := k.isLt; have h_w := Bool.toNat_le w
  refine roundTrip_of (d.toNat * 2 ^ 20 + (a.toNat * 2 ^ 15 + (k.toNat * 2 ^ 7 + (w.toNat * 2 ^ 5 + (0xB2000002))))) rfl (by omega) (fun _ => by omega) fun iw hu => ?_
  obtain ⟨h1, h2, f0, f1, f2, f3, r⟩ := shape45 d a k w 0x59 2 (by decide) (by decide) hu
  rw [decodeRaw_59 h1, decMajor59, h2]
  show (Except.ok (.vpark (bitsAt iw 20 5) (bitsAt iw 15 5) (bitsAt iw 7 3) (flagAt iw 5), reservedZero iw [(6, 1), (10, 5)]) : RawDecode) = _
  rw [f0, f1, f2, f3, r]

theorem RoundTrip.vunpark (d : BitVec 5) (a : BitVec 5) (k : BitVec 3) (z : Bool) (w : Bool) : RoundTrip.Statement (.vunpark d a k z w) := by
  have h_d := d.isLt; have h_a := a.isLt; have h_k := k.isLt; have h_z := Bool.toNat_le z; have h_w := Bool.toNat_le w
  refine roundTrip_of (d.toNat * 2 ^ 20 + (a.toNat * 2 ^ 15 + (k.toNat * 2 ^ 7 + (z.toNat * 2 ^ 6 + (w.toNat * 2 ^ 5 + (0xB2000003)))))) rfl (by omega) (fun _ => by omega) fun iw hu => ?_
  obtain ⟨h1, h2, f0, f1, f2, f3, f4, r⟩ := shape30 d a k z w 0x59 3 (by decide) (by decide) hu
  rw [decodeRaw_59 h1, decMajor59, h2]
  show (Except.ok (.vunpark (bitsAt iw 20 5) (bitsAt iw 15 5) (bitsAt iw 7 3) (flagAt iw 6) (flagAt iw 5), reservedZero iw [(10, 5)]) : RawDecode) = _
  rw [f0, f1, f2, f3, f4, r]

theorem RoundTrip.tshp (d : BitVec 5) (a : BitVec 5) (w : Bool) : RoundTrip.Statement (.tshp d a w) := by
  have h_d := d.isLt; have h_a := a.isLt; have h_w := Bool.toNat_le w
  refine roundTrip_of (d.toNat * 2 ^ 20 + (a.toNat * 2 ^ 15 + (w.toNat * 2 ^ 4 + (0xC0000000)))) rfl (by omega) (fun _ => by omega) fun iw hu => ?_
  obtain ⟨h1, h2, f0, f1, f2, r⟩ := shape01 d a w 0x60 0 (by decide) (by decide) hu
  rw [decodeRaw_60 h1, decMajor60, h2]
  show (Except.ok (.tshp (bitsAt iw 20 5) (bitsAt iw 15 5) (flagAt iw 4), reservedZero iw [(5, 10)]) : RawDecode) = _
  rw [f0, f1, f2, r]

theorem RoundTrip.tclr (d : BitVec 5) : RoundTrip.Statement (.tclr d) := by
  have h_d := d.isLt
  refine roundTrip_of (d.toNat * 2 ^ 20 + (0xC0000001)) rfl (by omega) (fun _ => by omega) fun iw hu => ?_
  obtain ⟨h1, h2, f0, r⟩ := shape21 d 0x60 1 (by decide) (by decide) hu
  rw [decodeRaw_60 h1, decMajor60, h2]
  show (Except.ok (.tclr (bitsAt iw 20 5), reservedZero iw [(4, 16)]) : RawDecode) = _
  rw [f0, r]

theorem RoundTrip.tsave (d : BitVec 5) : RoundTrip.Statement (.tsave d) := by
  have h_d := d.isLt
  refine roundTrip_of (d.toNat * 2 ^ 20 + (0xC0000002)) rfl (by omega) (fun _ => by omega) fun iw hu => ?_
  obtain ⟨h1, h2, f0, r⟩ := shape21 d 0x60 2 (by decide) (by decide) hu
  rw [decodeRaw_60 h1, decMajor60, h2]
  show (Except.ok (.tsave (bitsAt iw 20 5), reservedZero iw [(4, 16)]) : RawDecode) = _
  rw [f0, r]

theorem RoundTrip.trest (d : BitVec 5) : RoundTrip.Statement (.trest d) := by
  have h_d := d.isLt
  refine roundTrip_of (d.toNat * 2 ^ 20 + (0xC0000003)) rfl (by omega) (fun _ => by omega) fun iw hu => ?_
  obtain ⟨h1, h2, f0, r⟩ := shape21 d 0x60 3 (by decide) (by decide) hu
  rw [decodeRaw_60 h1, decMajor60, h2]
  show (Except.ok (.trest (bitsAt iw 20 5), reservedZero iw [(4, 16)]) : RawDecode) = _
  rw [f0, r]

theorem RoundTrip.pstatus (d : BitVec 5) : RoundTrip.Statement (.pstatus d) := by
  have h_d := d.isLt
  refine roundTrip_of (d.toNat * 2 ^ 20 + (0xC0000004)) rfl (by omega) (fun _ => by omega) fun iw hu => ?_
  obtain ⟨h1, h2, f0, r⟩ := shape21 d 0x60 4 (by decide) (by decide) hu
  rw [decodeRaw_60 h1, decMajor60, h2]
  show (Except.ok (.pstatus (bitsAt iw 20 5), reservedZero iw [(4, 16)]) : RawDecode) = _
  rw [f0, r]

theorem RoundTrip.arst (d : BitVec 5) : RoundTrip.Statement (.arst d) := by
  have h_d := d.isLt
  refine roundTrip_of (d.toNat * 2 ^ 20 + (0xC0000005)) rfl (by omega) (fun _ => by omega) fun iw hu => ?_
  obtain ⟨h1, h2, f0, r⟩ := shape21 d 0x60 5 (by decide) (by decide) hu
  rw [decodeRaw_60 h1, decMajor60, h2]
  show (Except.ok (.arst (bitsAt iw 20 5), reservedZero iw [(4, 16)]) : RawDecode) = _
  rw [f0, r]

theorem RoundTrip.mcfg (a : BitVec 5) (w : Bool) : RoundTrip.Statement (.mcfg a w) := by
  have h_a := a.isLt; have h_w := Bool.toNat_le w
  refine roundTrip_of (a.toNat * 2 ^ 15 + (w.toNat * 2 ^ 4 + (0xC2000000))) rfl (by omega) (fun _ => by omega) fun iw hu => ?_
  obtain ⟨h1, h2, f0, f1, r⟩ := shape12 a w 0x61 0 (by decide) (by decide) hu
  rw [decodeRaw_61 h1, decMajor61, h2]
  show (Except.ok (.mcfg (bitsAt iw 15 5) (flagAt iw 4), reservedZero iw [(5, 10), (20, 5)]) : RawDecode) = _
  rw [f0, f1, r]

theorem RoundTrip.plda (a : BitVec 5) : RoundTrip.Statement (.plda a) := by
  have h_a := a.isLt
  refine roundTrip_of (a.toNat * 2 ^ 15 + (0xC4000000)) rfl (by omega) (fun _ => by omega) fun iw hu => ?_
  obtain ⟨h1, h2, f0, r⟩ := shape46 a 0x62 0 (by decide) (by decide) hu
  rw [decodeRaw_62 h1, decMajor62, h2]
  show (Except.ok (.plda (bitsAt iw 15 5), reservedZero iw [(4, 11), (20, 5)]) : RawDecode) = _
  rw [f0, r]

theorem RoundTrip.pldb (a : BitVec 5) : RoundTrip.Statement (.pldb a) := by
  have h_a := a.isLt
  refine roundTrip_of (a.toNat * 2 ^ 15 + (0xC4000001)) rfl (by omega) (fun _ => by omega) fun iw hu => ?_
  obtain ⟨h1, h2, f0, r⟩ := shape46 a 0x62 1 (by decide) (by decide) hu
  rw [decodeRaw_62 h1, decMajor62, h2]
  show (Except.ok (.pldb (bitsAt iw 15 5), reservedZero iw [(4, 11), (20, 5)]) : RawDecode) = _
  rw [f0, r]

theorem RoundTrip.pmm (d : BitVec 5) (a : BitVec 5) (b : BitVec 5) (c : BitVec 5) (w : Bool) : RoundTrip.Statement (.pmm d a b c w) := by
  have h_d := d.isLt; have h_a := a.isLt; have h_b := b.isLt; have h_c := c.isLt; have h_w := Bool.toNat_le w
  refine roundTrip_of (d.toNat * 2 ^ 20 + (a.toNat * 2 ^ 15 + (b.toNat * 2 ^ 10 + (c.toNat * 2 ^ 5 + (w.toNat * 2 ^ 4 + (0xC6000000)))))) rfl (by omega) (fun _ => by omega) fun iw hu => ?_
  obtain ⟨h1, h2, f0, f1, f2, f3, f4⟩ := shape02 d a b c w 0x63 0 (by decide) (by decide) hu
  rw [decodeRaw_63 h1, decMajor63, h2]
  show (Except.ok (.pmm (bitsAt iw 20 5) (bitsAt iw 15 5) (bitsAt iw 10 5) (bitsAt iw 5 5) (flagAt iw 4), true) : RawDecode) = _
  rw [f0, f1, f2, f3, f4]

theorem RoundTrip.tnorm (d : BitVec 5) (a : BitVec 5) (b : BitVec 5) (z : Bool) : RoundTrip.Statement (.tnorm d a b z) := by
  have h_d := d.isLt; have h_a := a.isLt; have h_b := b.isLt; have h_z := Bool.toNat_le z
  refine roundTrip_of (d.toNat * 2 ^ 20 + (a.toNat * 2 ^ 15 + (b.toNat * 2 ^ 10 + (z.toNat * 2 ^ 5 + (0xC6000001))))) rfl (by omega) (fun _ => by omega) fun iw hu => ?_
  obtain ⟨h1, h2, f0, f1, f2, f3, r⟩ := shape47 d a b z 0x63 1 (by decide) (by decide) hu
  rw [decodeRaw_63 h1, decMajor63, h2]
  show (Except.ok (.tnorm (bitsAt iw 20 5) (bitsAt iw 15 5) (bitsAt iw 10 5) (flagAt iw 5), reservedZero iw [(4, 1), (6, 4)]) : RawDecode) = _
  rw [f0, f1, f2, f3, r]

theorem RoundTrip.trowRd (d : BitVec 5) (a : BitVec 5) (b : BitVec 5) (w : Bool) : RoundTrip.Statement (.trowRd d a b w) := by
  have h_d := d.isLt; have h_a := a.isLt; have h_b := b.isLt; have h_w := Bool.toNat_le w
  refine roundTrip_of (d.toNat * 2 ^ 20 + (a.toNat * 2 ^ 15 + (b.toNat * 2 ^ 10 + (w.toNat * 2 ^ 4 + (0xC8000000))))) rfl (by omega) (fun _ => by omega) fun iw hu => ?_
  obtain ⟨h1, h2, f0, f1, f2, f3, r⟩ := shape00 d a b w 0x64 0 (by decide) (by decide) hu
  rw [decodeRaw_64 h1, decMajor64, h2]
  show (Except.ok (.trowRd (bitsAt iw 20 5) (bitsAt iw 15 5) (bitsAt iw 10 5) (flagAt iw 4), reservedZero iw [(5, 5)]) : RawDecode) = _
  rw [f0, f1, f2, f3, r]

theorem RoundTrip.trowWr (d : BitVec 5) (a : BitVec 5) (b : BitVec 5) (w : Bool) : RoundTrip.Statement (.trowWr d a b w) := by
  have h_d := d.isLt; have h_a := a.isLt; have h_b := b.isLt; have h_w := Bool.toNat_le w
  refine roundTrip_of (d.toNat * 2 ^ 20 + (a.toNat * 2 ^ 15 + (b.toNat * 2 ^ 10 + (w.toNat * 2 ^ 4 + (0xC8000001))))) rfl (by omega) (fun _ => by omega) fun iw hu => ?_
  obtain ⟨h1, h2, f0, f1, f2, f3, r⟩ := shape00 d a b w 0x64 1 (by decide) (by decide) hu
  rw [decodeRaw_64 h1, decMajor64, h2]
  show (Except.ok (.trowWr (bitsAt iw 20 5) (bitsAt iw 15 5) (bitsAt iw 10 5) (flagAt iw 4), reservedZero iw [(5, 5)]) : RawDecode) = _
  rw [f0, f1, f2, f3, r]

theorem RoundTrip.tcolRd (d : BitVec 5) (a : BitVec 5) (b : BitVec 5) (w : Bool) : RoundTrip.Statement (.tcolRd d a b w) := by
  have h_d := d.isLt; have h_a := a.isLt; have h_b := b.isLt; have h_w := Bool.toNat_le w
  refine roundTrip_of (d.toNat * 2 ^ 20 + (a.toNat * 2 ^ 15 + (b.toNat * 2 ^ 10 + (w.toNat * 2 ^ 4 + (0xC8000002))))) rfl (by omega) (fun _ => by omega) fun iw hu => ?_
  obtain ⟨h1, h2, f0, f1, f2, f3, r⟩ := shape00 d a b w 0x64 2 (by decide) (by decide) hu
  rw [decodeRaw_64 h1, decMajor64, h2]
  show (Except.ok (.tcolRd (bitsAt iw 20 5) (bitsAt iw 15 5) (bitsAt iw 10 5) (flagAt iw 4), reservedZero iw [(5, 5)]) : RawDecode) = _
  rw [f0, f1, f2, f3, r]

theorem RoundTrip.tcolWr (d : BitVec 5) (a : BitVec 5) (b : BitVec 5) (w : Bool) : RoundTrip.Statement (.tcolWr d a b w) := by
  have h_d := d.isLt; have h_a := a.isLt; have h_b := b.isLt; have h_w := Bool.toNat_le w
  refine roundTrip_of (d.toNat * 2 ^ 20 + (a.toNat * 2 ^ 15 + (b.toNat * 2 ^ 10 + (w.toNat * 2 ^ 4 + (0xC8000003))))) rfl (by omega) (fun _ => by omega) fun iw hu => ?_
  obtain ⟨h1, h2, f0, f1, f2, f3, r⟩ := shape00 d a b w 0x64 3 (by decide) (by decide) hu
  rw [decodeRaw_64 h1, decMajor64, h2]
  show (Except.ok (.tcolWr (bitsAt iw 20 5) (bitsAt iw 15 5) (bitsAt iw 10 5) (flagAt iw 4), reservedZero iw [(5, 5)]) : RawDecode) = _
  rw [f0, f1, f2, f3, r]

theorem RoundTrip.tld (d : BitVec 5) (a : BitVec 5) (b : BitVec 5) (w : Bool) : RoundTrip.Statement (.tld d a b w) := by
  have h_d := d.isLt; have h_a := a.isLt; have h_b := b.isLt; have h_w := Bool.toNat_le w
  refine roundTrip_of (d.toNat * 2 ^ 20 + (a.toNat * 2 ^ 15 + (b.toNat * 2 ^ 10 + (w.toNat * 2 ^ 4 + (0xCA000000))))) rfl (by omega) (fun _ => by omega) fun iw hu => ?_
  obtain ⟨h1, h2, f0, f1, f2, f3, r⟩ := shape00 d a b w 0x65 0 (by decide) (by decide) hu
  rw [decodeRaw_65 h1, decMajor65, h2]
  show (Except.ok (.tld (bitsAt iw 20 5) (bitsAt iw 15 5) (bitsAt iw 10 5) (flagAt iw 4), reservedZero iw [(5, 5)]) : RawDecode) = _
  rw [f0, f1, f2, f3, r]

theorem RoundTrip.tst (d : BitVec 5) (a : BitVec 5) (b : BitVec 5) (w : Bool) : RoundTrip.Statement (.tst d a b w) := by
  have h_d := d.isLt; have h_a := a.isLt; have h_b := b.isLt; have h_w := Bool.toNat_le w
  refine roundTrip_of (d.toNat * 2 ^ 20 + (a.toNat * 2 ^ 15 + (b.toNat * 2 ^ 10 + (w.toNat * 2 ^ 4 + (0xCA000001))))) rfl (by omega) (fun _ => by omega) fun iw hu => ?_
  obtain ⟨h1, h2, f0, f1, f2, f3, r⟩ := shape00 d a b w 0x65 1 (by decide) (by decide) hu
  rw [decodeRaw_65 h1, decMajor65, h2]
  show (Except.ok (.tst (bitsAt iw 20 5) (bitsAt iw 15 5) (bitsAt iw 10 5) (flagAt iw 4), reservedZero iw [(5, 5)]) : RawDecode) = _
  rw [f0, f1, f2, f3, r]

theorem RoundTrip.sopen (d : BitVec 5) (a : BitVec 5) (w : Bool) : RoundTrip.Statement (.sopen d a w) := by
  have h_d := d.isLt; have h_a := a.isLt; have h_w := Bool.toNat_le w
  refine roundTrip_of (d.toNat * 2 ^ 20 + (a.toNat * 2 ^ 15 + (w.toNat * 2 ^ 4 + (0xD0000000)))) rfl (by omega) (fun _ => by omega) fun iw hu => ?_
  obtain ⟨h1, h2, f0, f1, f2, r⟩ := shape01 d a w 0x68 0 (by decide) (by decide) hu
  rw [decodeRaw_68 h1, decMajor68, h2]
  show (Except.ok (.sopen (bitsAt iw 20 5) (bitsAt iw 15 5) (flagAt iw 4), reservedZero iw [(5, 10)]) : RawDecode) = _
  rw [f0, f1, f2, r]

theorem RoundTrip.sgo (d : BitVec 5) (a : BitVec 5) : RoundTrip.Statement (.sgo d a) := by
  have h_d := d.isLt; have h_a := a.isLt
  refine roundTrip_of (d.toNat * 2 ^ 20 + (a.toNat * 2 ^ 15 + (0xD0000001))) rfl (by omega) (fun _ => by omega) fun iw hu => ?_
  obtain ⟨h1, h2, f0, f1, r⟩ := shape06 d a 0x68 1 (by decide) (by decide) hu
  rw [decodeRaw_68 h1, decMajor68, h2]
  show (Except.ok (.sgo (bitsAt iw 20 5) (bitsAt iw 15 5), reservedZero iw [(4, 11)]) : RawDecode) = _
  rw [f0, f1, r]

theorem RoundTrip.sstop (d : BitVec 5) : RoundTrip.Statement (.sstop d) := by
  have h_d := d.isLt
  refine roundTrip_of (d.toNat * 2 ^ 20 + (0xD0000002)) rfl (by omega) (fun _ => by omega) fun iw hu => ?_
  obtain ⟨h1, h2, f0, r⟩ := shape21 d 0x68 2 (by decide) (by decide) hu
  rw [decodeRaw_68 h1, decMajor68, h2]
  show (Except.ok (.sstop (bitsAt iw 20 5), reservedZero iw [(4, 16)]) : RawDecode) = _
  rw [f0, r]

theorem RoundTrip.sstat (d : BitVec 5) (a : BitVec 5) : RoundTrip.Statement (.sstat d a) := by
  have h_d := d.isLt; have h_a := a.isLt
  refine roundTrip_of (d.toNat * 2 ^ 20 + (a.toNat * 2 ^ 15 + (0xD0000003))) rfl (by omega) (fun _ => by omega) fun iw hu => ?_
  obtain ⟨h1, h2, f0, f1, r⟩ := shape06 d a 0x68 3 (by decide) (by decide) hu
  rw [decodeRaw_68 h1, decMajor68, h2]
  show (Except.ok (.sstat (bitsAt iw 20 5) (bitsAt iw 15 5), reservedZero iw [(4, 11)]) : RawDecode) = _
  rw [f0, f1, r]

theorem RoundTrip.sparm (d : BitVec 5) (a : BitVec 5) (w : Bool) : RoundTrip.Statement (.sparm d a w) := by
  have h_d := d.isLt; have h_a := a.isLt; have h_w := Bool.toNat_le w
  refine roundTrip_of (d.toNat * 2 ^ 20 + (a.toNat * 2 ^ 15 + (w.toNat * 2 ^ 4 + (0xD0000004)))) rfl (by omega) (fun _ => by omega) fun iw hu => ?_
  obtain ⟨h1, h2, f0, f1, f2, r⟩ := shape01 d a w 0x68 4 (by decide) (by decide) hu
  rw [decodeRaw_68 h1, decMajor68, h2]
  show (Except.ok (.sparm (bitsAt iw 20 5) (bitsAt iw 15 5) (flagAt iw 4), reservedZero iw [(5, 10)]) : RawDecode) = _
  rw [f0, f1, f2, r]

theorem RoundTrip.xcopy (d : BitVec 5) (a : BitVec 5) (b : BitVec 5) (w : Bool) : RoundTrip.Statement (.xcopy d a b w) := by
  have h_d := d.isLt; have h_a := a.isLt; have h_b := b.isLt; have h_w := Bool.toNat_le w
  refine roundTrip_of (d.toNat * 2 ^ 20 + (a.toNat * 2 ^ 15 + (b.toNat * 2 ^ 10 + (w.toNat * 2 ^ 4 + (0xD2000000))))) rfl (by omega) (fun _ => by omega) fun iw hu => ?_
  obtain ⟨h1, h2, f0, f1, f2, f3, r⟩ := shape00 d a b w 0x69 0 (by decide) (by decide) hu
  rw [decodeRaw_69 h1, decMajor69, h2]
  show (Except.ok (.xcopy (bitsAt iw 20 5) (bitsAt iw 15 5) (bitsAt iw 10 5) (flagAt iw 4), reservedZero iw [(5, 5)]) : RawDecode) = _
  rw [f0, f1, f2, f3, r]

theorem RoundTrip.xfill (d : BitVec 5) (a : BitVec 5) (b : BitVec 5) (w : Bool) : RoundTrip.Statement (.xfill d a b w) := by
  have h_d := d.isLt; have h_a := a.isLt; have h_b := b.isLt; have h_w := Bool.toNat_le w
  refine roundTrip_of (d.toNat * 2 ^ 20 + (a.toNat * 2 ^ 15 + (b.toNat * 2 ^ 10 + (w.toNat * 2 ^ 4 + (0xD2000001))))) rfl (by omega) (fun _ => by omega) fun iw hu => ?_
  obtain ⟨h1, h2, f0, f1, f2, f3, r⟩ := shape00 d a b w 0x69 1 (by decide) (by decide) hu
  rw [decodeRaw_69 h1, decMajor69, h2]
  show (Except.ok (.xfill (bitsAt iw 20 5) (bitsAt iw 15 5) (bitsAt iw 10 5) (flagAt iw 4), reservedZero iw [(5, 5)]) : RawDecode) = _
  rw [f0, f1, f2, f3, r]

theorem RoundTrip.xsplice (d : BitVec 5) (a : BitVec 5) (b : BitVec 5) (w : Bool) : RoundTrip.Statement (.xsplice d a b w) := by
  have h_d := d.isLt; have h_a := a.isLt; have h_b := b.isLt; have h_w := Bool.toNat_le w
  refine roundTrip_of (d.toNat * 2 ^ 20 + (a.toNat * 2 ^ 15 + (b.toNat * 2 ^ 10 + (w.toNat * 2 ^ 4 + (0xD2000002))))) rfl (by omega) (fun _ => by omega) fun iw hu => ?_
  obtain ⟨h1, h2, f0, f1, f2, f3, r⟩ := shape00 d a b w 0x69 2 (by decide) (by decide) hu
  rw [decodeRaw_69 h1, decMajor69, h2]
  show (Except.ok (.xsplice (bitsAt iw 20 5) (bitsAt iw 15 5) (bitsAt iw 10 5) (flagAt iw 4), reservedZero iw [(5, 5)]) : RawDecode) = _
  rw [f0, f1, f2, f3, r]

theorem RoundTrip.eadd (d : BitVec 5) (a : BitVec 5) (b : BitVec 5) : RoundTrip.Statement (.eadd d a b) := by
  have h_d := d.isLt; have h_a := a.isLt; have h_b := b.isLt
  refine roundTrip_of (d.toNat * 2 ^ 20 + (a.toNat * 2 ^ 15 + (b.toNat * 2 ^ 10 + (0xE0000000)))) rfl (by omega) (fun _ => by omega) fun iw hu => ?_
  obtain ⟨h1, h2, f0, f1, f2, r⟩ := shape04 d a b 0x70 0 (by decide) (by decide) hu
  rw [decodeRaw_70 h1, decMajor70, h2]
  show (Except.ok (.eadd (bitsAt iw 20 5) (bitsAt iw 15 5) (bitsAt iw 10 5), reservedZero iw [(4, 6)]) : RawDecode) = _
  rw [f0, f1, f2, r]

theorem RoundTrip.esub (d : BitVec 5) (a : BitVec 5) (b : BitVec 5) : RoundTrip.Statement (.esub d a b) := by
  have h_d := d.isLt; have h_a := a.isLt; have h_b := b.isLt
  refine roundTrip_of (d.toNat * 2 ^ 20 + (a.toNat * 2 ^ 15 + (b.toNat * 2 ^ 10 + (0xE0000001)))) rfl (by omega) (fun _ => by omega) fun iw hu => ?_
  obtain ⟨h1, h2, f0, f1, f2, r⟩ := shape04 d a b 0x70 1 (by decide) (by decide) hu
  rw [decodeRaw_70 h1, decMajor70, h2]
  show (Except.ok (.esub (bitsAt iw 20 5) (bitsAt iw 15 5) (bitsAt iw 10 5), reservedZero iw [(4, 6)]) : RawDecode) = _
  rw [f0, f1, f2, r]

theorem RoundTrip.emul (d : BitVec 5) (a : BitVec 5) (b : BitVec 5) : RoundTrip.Statement (.emul d a b) := by
  have h_d := d.isLt; have h_a := a.isLt; have h_b := b.isLt
  refine roundTrip_of (d.toNat * 2 ^ 20 + (a.toNat * 2 ^ 15 + (b.toNat * 2 ^ 10 + (0xE0000002)))) rfl (by omega) (fun _ => by omega) fun iw hu => ?_
  obtain ⟨h1, h2, f0, f1, f2, r⟩ := shape04 d a b 0x70 2 (by decide) (by decide) hu
  rw [decodeRaw_70 h1, decMajor70, h2]
  show (Except.ok (.emul (bitsAt iw 20 5) (bitsAt iw 15 5) (bitsAt iw 10 5), reservedZero iw [(4, 6)]) : RawDecode) = _
  rw [f0, f1, f2, r]

theorem RoundTrip.efma (d : BitVec 5) (a : BitVec 5) (b : BitVec 5) (c : BitVec 5) : RoundTrip.Statement (.efma d a b c) := by
  have h_d := d.isLt; have h_a := a.isLt; have h_b := b.isLt; have h_c := c.isLt
  refine roundTrip_of (d.toNat * 2 ^ 20 + (a.toNat * 2 ^ 15 + (b.toNat * 2 ^ 10 + (c.toNat * 2 ^ 5 + (0xE0000003))))) rfl (by omega) (fun _ => by omega) fun iw hu => ?_
  obtain ⟨h1, h2, f0, f1, f2, f3, r⟩ := shape05 d a b c 0x70 3 (by decide) (by decide) hu
  rw [decodeRaw_70 h1, decMajor70, h2]
  show (Except.ok (.efma (bitsAt iw 20 5) (bitsAt iw 15 5) (bitsAt iw 10 5) (bitsAt iw 5 5), reservedZero iw [(4, 1)]) : RawDecode) = _
  rw [f0, f1, f2, f3, r]

theorem RoundTrip.ediv (d : BitVec 5) (a : BitVec 5) (b : BitVec 5) : RoundTrip.Statement (.ediv d a b) := by
  have h_d := d.isLt; have h_a := a.isLt; have h_b := b.isLt
  refine roundTrip_of (d.toNat * 2 ^ 20 + (a.toNat * 2 ^ 15 + (b.toNat * 2 ^ 10 + (0xE0000004)))) rfl (by omega) (fun _ => by omega) fun iw hu => ?_
  obtain ⟨h1, h2, f0, f1, f2, r⟩ := shape04 d a b 0x70 4 (by decide) (by decide) hu
  rw [decodeRaw_70 h1, decMajor70, h2]
  show (Except.ok (.ediv (bitsAt iw 20 5) (bitsAt iw 15 5) (bitsAt iw 10 5), reservedZero iw [(4, 6)]) : RawDecode) = _
  rw [f0, f1, f2, r]

theorem RoundTrip.esqrt (d : BitVec 5) (a : BitVec 5) : RoundTrip.Statement (.esqrt d a) := by
  have h_d := d.isLt; have h_a := a.isLt
  refine roundTrip_of (d.toNat * 2 ^ 20 + (a.toNat * 2 ^ 15 + (0xE0000005))) rfl (by omega) (fun _ => by omega) fun iw hu => ?_
  obtain ⟨h1, h2, f0, f1, r⟩ := shape06 d a 0x70 5 (by decide) (by decide) hu
  rw [decodeRaw_70 h1, decMajor70, h2]
  show (Except.ok (.esqrt (bitsAt iw 20 5) (bitsAt iw 15 5), reservedZero iw [(4, 11)]) : RawDecode) = _
  rw [f0, f1, r]

theorem RoundTrip.eneg (d : BitVec 5) (a : BitVec 5) : RoundTrip.Statement (.eneg d a) := by
  have h_d := d.isLt; have h_a := a.isLt
  refine roundTrip_of (d.toNat * 2 ^ 20 + (a.toNat * 2 ^ 15 + (0xE0000006))) rfl (by omega) (fun _ => by omega) fun iw hu => ?_
  obtain ⟨h1, h2, f0, f1, r⟩ := shape06 d a 0x70 6 (by decide) (by decide) hu
  rw [decodeRaw_70 h1, decMajor70, h2]
  show (Except.ok (.eneg (bitsAt iw 20 5) (bitsAt iw 15 5), reservedZero iw [(4, 11)]) : RawDecode) = _
  rw [f0, f1, r]

theorem RoundTrip.eabs (d : BitVec 5) (a : BitVec 5) : RoundTrip.Statement (.eabs d a) := by
  have h_d := d.isLt; have h_a := a.isLt
  refine roundTrip_of (d.toNat * 2 ^ 20 + (a.toNat * 2 ^ 15 + (0xE0000007))) rfl (by omega) (fun _ => by omega) fun iw hu => ?_
  obtain ⟨h1, h2, f0, f1, r⟩ := shape06 d a 0x70 7 (by decide) (by decide) hu
  rw [decodeRaw_70 h1, decMajor70, h2]
  show (Except.ok (.eabs (bitsAt iw 20 5) (bitsAt iw 15 5), reservedZero iw [(4, 11)]) : RawDecode) = _
  rw [f0, f1, r]

theorem RoundTrip.ecmp (d : BitVec 5) (a : BitVec 5) (b : BitVec 5) : RoundTrip.Statement (.ecmp d a b) := by
  have h_d := d.isLt; have h_a := a.isLt; have h_b := b.isLt
  refine roundTrip_of (d.toNat * 2 ^ 20 + (a.toNat * 2 ^ 15 + (b.toNat * 2 ^ 10 + (0xE0000008)))) rfl (by omega) (fun _ => by omega) fun iw hu => ?_
  obtain ⟨h1, h2, f0, f1, f2, r⟩ := shape04 d a b 0x70 8 (by decide) (by decide) hu
  rw [decodeRaw_70 h1, decMajor70, h2]
  show (Except.ok (.ecmp (bitsAt iw 20 5) (bitsAt iw 15 5) (bitsAt iw 10 5), reservedZero iw [(4, 6)]) : RawDecode) = _
  rw [f0, f1, f2, r]

theorem RoundTrip.emov (d : BitVec 5) (a : BitVec 5) : RoundTrip.Statement (.emov d a) := by
  have h_d := d.isLt; have h_a := a.isLt
  refine roundTrip_of (d.toNat * 2 ^ 20 + (a.toNat * 2 ^ 15 + (0xE0000009))) rfl (by omega) (fun _ => by omega) fun iw hu => ?_
  obtain ⟨h1, h2, f0, f1, r⟩ := shape06 d a 0x70 9 (by decide) (by decide) hu
  rw [decodeRaw_70 h1, decMajor70, h2]
  show (Except.ok (.emov (bitsAt iw 20 5) (bitsAt iw 15 5), reservedZero iw [(4, 11)]) : RawDecode) = _
  rw [f0, f1, r]

theorem RoundTrip.ernd (d : BitVec 5) (a : BitVec 5) (l : BitVec 10) : RoundTrip.Statement (.ernd d a l) := by
  have h_d := d.isLt; have h_a := a.isLt; have h_l := l.isLt
  refine roundTrip_of (d.toNat * 2 ^ 20 + (a.toNat * 2 ^ 15 + (l.toNat * 2 ^ 5 + (0xE000000A)))) rfl (by omega) (fun _ => by omega) fun iw hu => ?_
  obtain ⟨h1, h2, f0, f1, f2, r⟩ := shape48 d a l 0x70 10 (by decide) (by decide) hu
  rw [decodeRaw_70 h1, decMajor70, h2]
  show (Except.ok (.ernd (bitsAt iw 20 5) (bitsAt iw 15 5) (bitsAt iw 5 10), reservedZero iw [(4, 1)]) : RawDecode) = _
  rw [f0, f1, f2, r]

theorem RoundTrip.elen (d : BitVec 5) (a : BitVec 5) : RoundTrip.Statement (.elen d a) := by
  have h_d := d.isLt; have h_a := a.isLt
  refine roundTrip_of (d.toNat * 2 ^ 20 + (a.toNat * 2 ^ 15 + (0xE000000B))) rfl (by omega) (fun _ => by omega) fun iw hu => ?_
  obtain ⟨h1, h2, f0, f1, r⟩ := shape06 d a 0x70 11 (by decide) (by decide) hu
  rw [decodeRaw_70 h1, decMajor70, h2]
  show (Except.ok (.elen (bitsAt iw 20 5) (bitsAt iw 15 5), reservedZero iw [(4, 11)]) : RawDecode) = _
  rw [f0, f1, r]

theorem RoundTrip.ecvtEI (d : BitVec 5) (a : BitVec 5) (u : Bool) (w : Bool) : RoundTrip.Statement (.ecvtEI d a u w) := by
  have h_d := d.isLt; have h_a := a.isLt; have h_u := Bool.toNat_le u; have h_w := Bool.toNat_le w
  refine roundTrip_of (d.toNat * 2 ^ 20 + (a.toNat * 2 ^ 15 + (u.toNat * 2 ^ 5 + (w.toNat * 2 ^ 4 + (0xE2000000))))) rfl (by omega) (fun _ => by omega) fun iw hu => ?_
  obtain ⟨h1, h2, f0, f1, f2, f3, r⟩ := shape49 d a u w 0x71 0 (by decide) (by decide) hu
  rw [decodeRaw_71 h1, decMajor71, h2]
  show (Except.ok (.ecvtEI (bitsAt iw 20 5) (bitsAt iw 15 5) (flagAt iw 5) (flagAt iw 4), reservedZero iw [(6, 9)]) : RawDecode) = _
  rw [f0, f1, f2, f3, r]

theorem RoundTrip.ecvtEF (d : BitVec 5) (a : BitVec 5) : RoundTrip.Statement (.ecvtEF d a) := by
  have h_d := d.isLt; have h_a := a.isLt
  refine roundTrip_of (d.toNat * 2 ^ 20 + (a.toNat * 2 ^ 15 + (0xE2000001))) rfl (by omega) (fun _ => by omega) fun iw hu => ?_
  obtain ⟨h1, h2, f0, f1, r⟩ := shape06 d a 0x71 1 (by decide) (by decide) hu
  rw [decodeRaw_71 h1, decMajor71, h2]
  show (Except.ok (.ecvtEF (bitsAt iw 20 5) (bitsAt iw 15 5), reservedZero iw [(4, 11)]) : RawDecode) = _
  rw [f0, f1, r]

theorem RoundTrip.ecvtED (d : BitVec 5) (a : BitVec 5) (w : Bool) : RoundTrip.Statement (.ecvtED d a w) := by
  have h_d := d.isLt; have h_a := a.isLt; have h_w := Bool.toNat_le w
  refine roundTrip_of (d.toNat * 2 ^ 20 + (a.toNat * 2 ^ 15 + (w.toNat * 2 ^ 4 + (0xE2000002)))) rfl (by omega) (fun _ => by omega) fun iw hu => ?_
  obtain ⟨h1, h2, f0, f1, f2, r⟩ := shape01 d a w 0x71 2 (by decide) (by decide) hu
  rw [decodeRaw_71 h1, decMajor71, h2]
  show (Except.ok (.ecvtED (bitsAt iw 20 5) (bitsAt iw 15 5) (flagAt iw 4), reservedZero iw [(5, 10)]) : RawDecode) = _
  rw [f0, f1, f2, r]

theorem RoundTrip.ecvtIE (d : BitVec 5) (a : BitVec 5) (u : Bool) : RoundTrip.Statement (.ecvtIE d a u) := by
  have h_d := d.isLt; have h_a := a.isLt; have h_u := Bool.toNat_le u
  refine roundTrip_of (d.toNat * 2 ^ 20 + (a.toNat * 2 ^ 15 + (u.toNat * 2 ^ 5 + (0xE2000003)))) rfl (by omega) (fun _ => by omega) fun iw hu => ?_
  obtain ⟨h1, h2, f0, f1, f2, r⟩ := shape50 d a u 0x71 3 (by decide) (by decide) hu
  rw [decodeRaw_71 h1, decMajor71, h2]
  show (Except.ok (.ecvtIE (bitsAt iw 20 5) (bitsAt iw 15 5) (flagAt iw 5), reservedZero iw [(4, 1), (6, 9)]) : RawDecode) = _
  rw [f0, f1, f2, r]

theorem RoundTrip.ecvtFE (d : BitVec 5) (a : BitVec 5) : RoundTrip.Statement (.ecvtFE d a) := by
  have h_d := d.isLt; have h_a := a.isLt
  refine roundTrip_of (d.toNat * 2 ^ 20 + (a.toNat * 2 ^ 15 + (0xE2000004))) rfl (by omega) (fun _ => by omega) fun iw hu => ?_
  obtain ⟨h1, h2, f0, f1, r⟩ := shape06 d a 0x71 4 (by decide) (by decide) hu
  rw [decodeRaw_71 h1, decMajor71, h2]
  show (Except.ok (.ecvtFE (bitsAt iw 20 5) (bitsAt iw 15 5), reservedZero iw [(4, 11)]) : RawDecode) = _
  rw [f0, f1, r]

theorem RoundTrip.ecvtDE (d : BitVec 5) (a : BitVec 5) : RoundTrip.Statement (.ecvtDE d a) := by
  have h_d := d.isLt; have h_a := a.isLt
  refine roundTrip_of (d.toNat * 2 ^ 20 + (a.toNat * 2 ^ 15 + (0xE2000005))) rfl (by omega) (fun _ => by omega) fun iw hu => ?_
  obtain ⟨h1, h2, f0, f1, r⟩ := shape06 d a 0x71 5 (by decide) (by decide) hu
  rw [decodeRaw_71 h1, decMajor71, h2]
  show (Except.ok (.ecvtDE (bitsAt iw 20 5) (bitsAt iw 15 5), reservedZero iw [(4, 11)]) : RawDecode) = _
  rw [f0, f1, r]

theorem RoundTrip.eprec (w : Bool) (d : BitVec 5) (a : BitVec 5) (i : BitVec 8) : RoundTrip.Statement (.eprec w d a i) := by
  have h_w := Bool.toNat_le w; have h_d := d.isLt; have h_a := a.isLt; have h_i := i.isLt
  refine roundTrip_of (w.toNat * 2 ^ 25 + (d.toNat * 2 ^ 20 + (a.toNat * 2 ^ 15 + (i.toNat * 2 ^ 0 + (0xE4000000))))) rfl (by omega) (fun _ => by omega) fun iw hu => ?_
  cases w <;> simp only [Bool.toNat_true, Bool.toNat_false] at hu h_w
  · have h1 : iw.toNat / 2 ^ 25 % 128 = 0x72 := by omega
    have f0 : flagAt iw 25 = false := flag_eq (by show _ = 0; omega)
    have f1 : bitsAt iw 20 5 = d := bits_eq (by omega)
    have f2 : bitsAt iw 15 5 = a := bits_eq (by omega)
    have f3 : bitsAt iw 0 8 = i := bits_eq (by omega)
    have r : reservedZero iw [(8, 7)] = true := by simp only [reservedZero, List.all_cons, List.all_nil, Bool.and_true, beq_iff_eq]; omega
    rw [decodeRaw_72 h1, decMajor72]
    show (Except.ok (.eprec (flagAt iw 25) (bitsAt iw 20 5) (bitsAt iw 15 5) (bitsAt iw 0 8), reservedZero iw [(8, 7)]) : RawDecode) = _
    rw [f0, f1, f2, f3, r]
  · have h1 : iw.toNat / 2 ^ 25 % 128 = 0x73 := by omega
    have f0 : flagAt iw 25 = true := flag_eq (by show _ = 1; omega)
    have f1 : bitsAt iw 20 5 = d := bits_eq (by omega)
    have f2 : bitsAt iw 15 5 = a := bits_eq (by omega)
    have f3 : bitsAt iw 0 8 = i := bits_eq (by omega)
    have r : reservedZero iw [(8, 7)] = true := by simp only [reservedZero, List.all_cons, List.all_nil, Bool.and_true, beq_iff_eq]; omega
    rw [decodeRaw_73 h1, decMajor72]
    show (Except.ok (.eprec (flagAt iw 25) (bitsAt iw 20 5) (bitsAt iw 15 5) (bitsAt iw 0 8), reservedZero iw [(8, 7)]) : RawDecode) = _
    rw [f0, f1, f2, f3, r]

theorem RoundTrip.eld (w : Bool) (d : BitVec 5) (a : BitVec 5) (o : BitVec 8) : RoundTrip.Statement (.eld w d a o) := by
  have h_w := Bool.toNat_le w; have h_d := d.isLt; have h_a := a.isLt; have h_o := o.isLt
  refine roundTrip_of (w.toNat * 2 ^ 25 + (d.toNat * 2 ^ 20 + (a.toNat * 2 ^ 15 + (o.toNat * 2 ^ 0 + (0xE8000000))))) rfl (by omega) (fun _ => by omega) fun iw hu => ?_
  cases w <;> simp only [Bool.toNat_true, Bool.toNat_false] at hu h_w
  · have h1 : iw.toNat / 2 ^ 25 % 128 = 0x74 := by omega
    have h2 : iw.toNat / 2 ^ 13 % 4 = 0 := by omega
    have f0 : flagAt iw 25 = false := flag_eq (by show _ = 0; omega)
    have f1 : bitsAt iw 20 5 = d := bits_eq (by omega)
    have f2 : bitsAt iw 15 5 = a := bits_eq (by omega)
    have f3 : bitsAt iw 0 8 = o := bits_eq (by omega)
    have r : reservedZero iw [(8, 5)] = true := by simp only [reservedZero, List.all_cons, List.all_nil, Bool.and_true, beq_iff_eq]; omega
    rw [decodeRaw_74 h1, decMajor74, h2]
    show (Except.ok (.eld (flagAt iw 25) (bitsAt iw 20 5) (bitsAt iw 15 5) (bitsAt iw 0 8), reservedZero iw [(8, 5)]) : RawDecode) = _
    rw [f0, f1, f2, f3, r]
  · have h1 : iw.toNat / 2 ^ 25 % 128 = 0x75 := by omega
    have h2 : iw.toNat / 2 ^ 13 % 4 = 0 := by omega
    have f0 : flagAt iw 25 = true := flag_eq (by show _ = 1; omega)
    have f1 : bitsAt iw 20 5 = d := bits_eq (by omega)
    have f2 : bitsAt iw 15 5 = a := bits_eq (by omega)
    have f3 : bitsAt iw 0 8 = o := bits_eq (by omega)
    have r : reservedZero iw [(8, 5)] = true := by simp only [reservedZero, List.all_cons, List.all_nil, Bool.and_true, beq_iff_eq]; omega
    rw [decodeRaw_75 h1, decMajor74, h2]
    show (Except.ok (.eld (flagAt iw 25) (bitsAt iw 20 5) (bitsAt iw 15 5) (bitsAt iw 0 8), reservedZero iw [(8, 5)]) : RawDecode) = _
    rw [f0, f1, f2, f3, r]

theorem RoundTrip.est (w : Bool) (d : BitVec 5) (a : BitVec 5) (n : BitVec 5) (o : BitVec 8) : RoundTrip.Statement (.est w d a n o) := by
  have h_w := Bool.toNat_le w; have h_d := d.isLt; have h_a := a.isLt; have h_n := n.isLt; have h_o := o.isLt
  refine roundTrip_of (w.toNat * 2 ^ 25 + (d.toNat * 2 ^ 20 + (a.toNat * 2 ^ 15 + (n.toNat * 2 ^ 8 + (o.toNat * 2 ^ 0 + (0xE8002000)))))) rfl (by omega) (fun _ => by omega) fun iw hu => ?_
  cases w <;> simp only [Bool.toNat_true, Bool.toNat_false] at hu h_w
  · have h1 : iw.toNat / 2 ^ 25 % 128 = 0x74 := by omega
    have h2 : iw.toNat / 2 ^ 13 % 4 = 1 := by omega
    have f0 : flagAt iw 25 = false := flag_eq (by show _ = 0; omega)
    have f1 : bitsAt iw 20 5 = d := bits_eq (by omega)
    have f2 : bitsAt iw 15 5 = a := bits_eq (by omega)
    have f3 : bitsAt iw 8 5 = n := bits_eq (by omega)
    have f4 : bitsAt iw 0 8 = o := bits_eq (by omega)
    rw [decodeRaw_74 h1, decMajor74, h2]
    show (Except.ok (.est (flagAt iw 25) (bitsAt iw 20 5) (bitsAt iw 15 5) (bitsAt iw 8 5) (bitsAt iw 0 8), true) : RawDecode) = _
    rw [f0, f1, f2, f3, f4]
  · have h1 : iw.toNat / 2 ^ 25 % 128 = 0x75 := by omega
    have h2 : iw.toNat / 2 ^ 13 % 4 = 1 := by omega
    have f0 : flagAt iw 25 = true := flag_eq (by show _ = 1; omega)
    have f1 : bitsAt iw 20 5 = d := bits_eq (by omega)
    have f2 : bitsAt iw 15 5 = a := bits_eq (by omega)
    have f3 : bitsAt iw 8 5 = n := bits_eq (by omega)
    have f4 : bitsAt iw 0 8 = o := bits_eq (by omega)
    rw [decodeRaw_75 h1, decMajor74, h2]
    show (Except.ok (.est (flagAt iw 25) (bitsAt iw 20 5) (bitsAt iw 15 5) (bitsAt iw 8 5) (bitsAt iw 0 8), true) : RawDecode) = _
    rw [f0, f1, f2, f3, f4]

theorem RoundTrip.eldInc (w : Bool) (d : BitVec 5) (a : BitVec 5) (o : BitVec 8) : RoundTrip.Statement (.eldInc w d a o) := by
  have h_w := Bool.toNat_le w; have h_d := d.isLt; have h_a := a.isLt; have h_o := o.isLt
  refine roundTrip_of (w.toNat * 2 ^ 25 + (d.toNat * 2 ^ 20 + (a.toNat * 2 ^ 15 + (o.toNat * 2 ^ 0 + (0xE8004000))))) rfl (by omega) (fun _ => by omega) fun iw hu => ?_
  cases w <;> simp only [Bool.toNat_true, Bool.toNat_false] at hu h_w
  · have h1 : iw.toNat / 2 ^ 25 % 128 = 0x74 := by omega
    have h2 : iw.toNat / 2 ^ 13 % 4 = 2 := by omega
    have f0 : flagAt iw 25 = false := flag_eq (by show _ = 0; omega)
    have f1 : bitsAt iw 20 5 = d := bits_eq (by omega)
    have f2 : bitsAt iw 15 5 = a := bits_eq (by omega)
    have f3 : bitsAt iw 0 8 = o := bits_eq (by omega)
    have r : reservedZero iw [(8, 5)] = true := by simp only [reservedZero, List.all_cons, List.all_nil, Bool.and_true, beq_iff_eq]; omega
    rw [decodeRaw_74 h1, decMajor74, h2]
    show (Except.ok (.eldInc (flagAt iw 25) (bitsAt iw 20 5) (bitsAt iw 15 5) (bitsAt iw 0 8), reservedZero iw [(8, 5)]) : RawDecode) = _
    rw [f0, f1, f2, f3, r]
  · have h1 : iw.toNat / 2 ^ 25 % 128 = 0x75 := by omega
    have h2 : iw.toNat / 2 ^ 13 % 4 = 2 := by omega
    have f0 : flagAt iw 25 = true := flag_eq (by show _ = 1; omega)
    have f1 : bitsAt iw 20 5 = d := bits_eq (by omega)
    have f2 : bitsAt iw 15 5 = a := bits_eq (by omega)
    have f3 : bitsAt iw 0 8 = o := bits_eq (by omega)
    have r : reservedZero iw [(8, 5)] = true := by simp only [reservedZero, List.all_cons, List.all_nil, Bool.and_true, beq_iff_eq]; omega
    rw [decodeRaw_75 h1, decMajor74, h2]
    show (Except.ok (.eldInc (flagAt iw 25) (bitsAt iw 20 5) (bitsAt iw 15 5) (bitsAt iw 0 8), reservedZero iw [(8, 5)]) : RawDecode) = _
    rw [f0, f1, f2, f3, r]

theorem RoundTrip.estInc (w : Bool) (d : BitVec 5) (a : BitVec 5) (n : BitVec 5) (o : BitVec 8) : RoundTrip.Statement (.estInc w d a n o) := by
  have h_w := Bool.toNat_le w; have h_d := d.isLt; have h_a := a.isLt; have h_n := n.isLt; have h_o := o.isLt
  refine roundTrip_of (w.toNat * 2 ^ 25 + (d.toNat * 2 ^ 20 + (a.toNat * 2 ^ 15 + (n.toNat * 2 ^ 8 + (o.toNat * 2 ^ 0 + (0xE8006000)))))) rfl (by omega) (fun _ => by omega) fun iw hu => ?_
  cases w <;> simp only [Bool.toNat_true, Bool.toNat_false] at hu h_w
  · have h1 : iw.toNat / 2 ^ 25 % 128 = 0x74 := by omega
    have h2 : iw.toNat / 2 ^ 13 % 4 = 3 := by omega
    have f0 : flagAt iw 25 = false := flag_eq (by show _ = 0; omega)
    have f1 : bitsAt iw 20 5 = d := bits_eq (by omega)
    have f2 : bitsAt iw 15 5 = a := bits_eq (by omega)
    have f3 : bitsAt iw 8 5 = n := bits_eq (by omega)
    have f4 : bitsAt iw 0 8 = o := bits_eq (by omega)
    rw [decodeRaw_74 h1, decMajor74, h2]
    show (Except.ok (.estInc (flagAt iw 25) (bitsAt iw 20 5) (bitsAt iw 15 5) (bitsAt iw 8 5) (bitsAt iw 0 8), true) : RawDecode) = _
    rw [f0, f1, f2, f3, f4]
  · have h1 : iw.toNat / 2 ^ 25 % 128 = 0x75 := by omega
    have h2 : iw.toNat / 2 ^ 13 % 4 = 3 := by omega
    have f0 : flagAt iw 25 = true := flag_eq (by show _ = 1; omega)
    have f1 : bitsAt iw 20 5 = d := bits_eq (by omega)
    have f2 : bitsAt iw 15 5 = a := bits_eq (by omega)
    have f3 : bitsAt iw 8 5 = n := bits_eq (by omega)
    have f4 : bitsAt iw 0 8 = o := bits_eq (by omega)
    rw [decodeRaw_75 h1, decMajor74, h2]
    show (Except.ok (.estInc (flagAt iw 25) (bitsAt iw 20 5) (bitsAt iw 15 5) (bitsAt iw 8 5) (bitsAt iw 0 8), true) : RawDecode) = _
    rw [f0, f1, f2, f3, f4]

theorem RoundTrip.ext (h : BitVec 25) : RoundTrip.Statement (.ext h) := by
  have h_h := h.isLt
  refine roundTrip_of (h.toNat * 2 ^ 0 + (0xF0000000)) rfl (by omega) (fun _ => by omega) fun iw hu => ?_
  obtain ⟨h1, f0⟩ := shape51 h 0x78 0 (by decide) (by decide) hu
  rw [decodeRaw_78 h1, decMajor78]
  show (Except.ok (.ext (bitsAt iw 0 25), true) : RawDecode) = _
  rw [f0]

theorem RoundTrip.fmt (d : BitVec 5) (a : BitVec 5) (b : BitVec 5) (e : BitVec 3) : RoundTrip.Statement (.fmt d a b e) := by
  have h_d := d.isLt; have h_a := a.isLt; have h_b := b.isLt; have h_e := e.isLt
  refine roundTrip_of (d.toNat * 2 ^ 20 + (a.toNat * 2 ^ 15 + (b.toNat * 2 ^ 10 + (e.toNat * 2 ^ 7 + (0xF2000000))))) rfl (by omega) (fun _ => by omega) fun iw hu => ?_
  obtain ⟨h1, f0, f1, f2, f3, r⟩ := shape52 d a b e 0x79 0 (by decide) (by decide) hu
  rw [decodeRaw_79 h1, decMajor79]
  show (Except.ok (.fmt (bitsAt iw 20 5) (bitsAt iw 15 5) (bitsAt iw 10 5) (bitsAt iw 7 3), reservedZero iw [(0, 7)]) : RawDecode) = _
  rw [f0, f1, f2, f3, r]

theorem RoundTrip.scl (b : BitVec 5) (o : BitVec 10) (g : BitVec 2) (f : BitVec 5) (z : Bool) : RoundTrip.Statement (.scl b o g f z) := by
  have h_b := b.isLt; have h_o := o.isLt; have h_g := g.isLt; have h_f := f.isLt; have h_z := Bool.toNat_le z
  refine roundTrip_of (b.toNat * 2 ^ 20 + (o.toNat * 2 ^ 10 + (g.toNat * 2 ^ 8 + (f.toNat * 2 ^ 3 + (z.toNat * 2 ^ 2 + (0xF4000000)))))) rfl (by omega) (fun _ => by omega) fun iw hu => ?_
  obtain ⟨h1, f0, f1, f2, f3, f4, r⟩ := shape53 b o g f z 0x7A 0 (by decide) (by decide) hu
  rw [decodeRaw_7A h1, decMajor7A]
  show (Except.ok (.scl (bitsAt iw 20 5) (bitsAt iw 10 10) (bitsAt iw 8 2) (bitsAt iw 3 5) (flagAt iw 2), reservedZero iw [(0, 2)]) : RawDecode) = _
  rw [f0, f1, f2, f3, f4, r]

theorem RoundTrip.rnd (m : BitVec 3) (s : BitVec 2) : RoundTrip.Statement (.rnd m s) := by
  have h_m := m.isLt; have h_s := s.isLt
  refine roundTrip_of (m.toNat * 2 ^ 22 + (s.toNat * 2 ^ 20 + (0xF6000000))) rfl (by omega) (fun _ => by omega) fun iw hu => ?_
  obtain ⟨h1, f0, f1, r⟩ := shape54 m s 0x7B 0 (by decide) (by decide) hu
  rw [decodeRaw_7B h1, decMajor7B]
  show (Except.ok (.rnd (bitsAt iw 22 3) (bitsAt iw 20 2), reservedZero iw [(0, 20)]) : RawDecode) = _
  rw [f0, f1, r]

theorem RoundTrip.selection (cid : Nat) : RoundTrip.Statement (.selection cid) :=
  fun h => absurd (show false = true from h) Bool.false_ne_true

theorem RoundTrip.endOfInvocationStep (cid : Nat) (ctx : Nat) : RoundTrip.Statement (.endOfInvocationStep cid ctx) :=
  fun h => absurd (show false = true from h) Bool.false_ne_true

theorem RoundTrip.tokenInjection (ch : Nat) : RoundTrip.Statement (.tokenInjection ch) :=
  fun h => absurd (show false = true from h) Bool.false_ne_true

theorem RoundTrip.tokenArrival (ch : Nat) : RoundTrip.Statement (.tokenArrival ch) :=
  fun h => absurd (show false = true from h) Bool.false_ne_true

theorem RoundTrip.creditReturn (ch : Nat) : RoundTrip.Statement (.creditReturn ch) :=
  fun h => absurd (show false = true from h) Bool.false_ne_true

theorem RoundTrip.creditArrival (ch : Nat) : RoundTrip.Statement (.creditArrival ch) :=
  fun h => absurd (show false = true from h) Bool.false_ne_true

theorem RoundTrip.limiterWindow (field : Nat) : RoundTrip.Statement (.limiterWindow field) :=
  fun h => absurd (show false = true from h) Bool.false_ne_true

theorem RoundTrip.sendQueueEntryFree (msg : Nat) : RoundTrip.Statement (.sendQueueEntryFree msg) :=
  fun h => absurd (show false = true from h) Bool.false_ne_true

theorem RoundTrip.serviceRequestDelivery (msg : Nat) : RoundTrip.Statement (.serviceRequestDelivery msg) :=
  fun h => absurd (show false = true from h) Bool.false_ne_true

theorem RoundTrip.ownerPortAccess (msg : Nat) : RoundTrip.Statement (.ownerPortAccess msg) :=
  fun h => absurd (show false = true from h) Bool.false_ne_true

theorem RoundTrip.replyArrival (msg : Nat) : RoundTrip.Statement (.replyArrival msg) :=
  fun h => absurd (show false = true from h) Bool.false_ne_true

theorem RoundTrip.fenceCompletion (fence : Nat) : RoundTrip.Statement (.fenceCompletion fence) :=
  fun h => absurd (show false = true from h) Bool.false_ne_true

theorem RoundTrip.multicastReplication (packet : Nat) : RoundTrip.Statement (.multicastReplication packet) :=
  fun h => absurd (show false = true from h) Bool.false_ne_true

theorem RoundTrip.barrierEpisodeComplete (bar : Nat) : RoundTrip.Statement (.barrierEpisodeComplete bar) :=
  fun h => absurd (show false = true from h) Bool.false_ne_true

theorem RoundTrip.barrierRelease (bar : Nat) (cid : Nat) : RoundTrip.Statement (.barrierRelease bar cid) :=
  fun h => absurd (show false = true from h) Bool.false_ne_true

theorem RoundTrip.chaseHop (msg : Nat) : RoundTrip.Statement (.chaseHop msg) :=
  fun h => absurd (show false = true from h) Bool.false_ne_true

theorem RoundTrip.chaseSpillReturn (cid : Nat) : RoundTrip.Statement (.chaseSpillReturn cid) :=
  fun h => absurd (show false = true from h) Bool.false_ne_true

theorem RoundTrip.chaseReply (msg : Nat) : RoundTrip.Statement (.chaseReply msg) :=
  fun h => absurd (show false = true from h) Bool.false_ne_true

theorem RoundTrip.hubMiss (miss : Nat) : RoundTrip.Statement (.hubMiss miss) :=
  fun h => absurd (show false = true from h) Bool.false_ne_true

theorem RoundTrip.hubQueueRetry (miss : Nat) : RoundTrip.Statement (.hubQueueRetry miss) :=
  fun h => absurd (show false = true from h) Bool.false_ne_true

theorem RoundTrip.walkLevelRead (hub : Nat) (walk : Nat) : RoundTrip.Statement (.walkLevelRead hub walk) :=
  fun h => absurd (show false = true from h) Bool.false_ne_true

theorem RoundTrip.invalidationComplete  : RoundTrip.Statement (.invalidationComplete) :=
  fun h => absurd (show false = true from h) Bool.false_ne_true

theorem RoundTrip.engineElement (cid : Nat) (g : Nat) : RoundTrip.Statement (.engineElement cid g) :=
  fun h => absurd (show false = true from h) Bool.false_ne_true

theorem RoundTrip.engineRoundBoundary (cid : Nat) (g : Nat) : RoundTrip.Statement (.engineRoundBoundary cid g) :=
  fun h => absurd (show false = true from h) Bool.false_ne_true

theorem RoundTrip.engineCommandEnd (cid : Nat) (g : Nat) : RoundTrip.Statement (.engineCommandEnd cid g) :=
  fun h => absurd (show false = true from h) Bool.false_ne_true

theorem RoundTrip.pressCommandStart (cid : Nat) : RoundTrip.Statement (.pressCommandStart cid) :=
  fun h => absurd (show false = true from h) Bool.false_ne_true

theorem RoundTrip.pressPassEnd (cid : Nat) (mismatch : Bool) : RoundTrip.Statement (.pressPassEnd cid mismatch) :=
  fun h => absurd (show false = true from h) Bool.false_ne_true

theorem RoundTrip.pressCommitEnd (cid : Nat) : RoundTrip.Statement (.pressCommitEnd cid) :=
  fun h => absurd (show false = true from h) Bool.false_ne_true

theorem RoundTrip.tileSaveCopy (cid : Nat) (tile : Nat) : RoundTrip.Statement (.tileSaveCopy cid tile) :=
  fun h => absurd (show false = true from h) Bool.false_ne_true

theorem RoundTrip.tileRestoreCopy (cid : Nat) (ctx : Nat) (tile : Nat) : RoundTrip.Statement (.tileRestoreCopy cid ctx tile) :=
  fun h => absurd (show false = true from h) Bool.false_ne_true

theorem RoundTrip.regionConfigured (graph : BitVec 16) : RoundTrip.Statement (.regionConfigured graph) :=
  fun h => absurd (show false = true from h) Bool.false_ne_true

theorem RoundTrip.regionQuiescent (graph : BitVec 16) : RoundTrip.Statement (.regionQuiescent graph) :=
  fun h => absurd (show false = true from h) Bool.false_ne_true

theorem RoundTrip.regionSaved (graph : BitVec 16) : RoundTrip.Statement (.regionSaved graph) :=
  fun h => absurd (show false = true from h) Bool.false_ne_true

theorem RoundTrip.loadImage (graph : BitVec 16) (arg : BitVec 40) : RoundTrip.Statement (.loadImage graph arg) :=
  fun h => absurd (show false = true from h) Bool.false_ne_true

theorem RoundTrip.launch (graph : BitVec 16) (arg : BitVec 40) : RoundTrip.Statement (.launch graph arg) :=
  fun h => absurd (show false = true from h) Bool.false_ne_true

theorem RoundTrip.edit (graph : BitVec 16) (arg : BitVec 40) : RoundTrip.Statement (.edit graph arg) :=
  fun h => absurd (show false = true from h) Bool.false_ne_true

theorem RoundTrip.preemptCooperative (graph : BitVec 16) (arg : BitVec 40) : RoundTrip.Statement (.preemptCooperative graph arg) :=
  fun h => absurd (show false = true from h) Bool.false_ne_true

theorem RoundTrip.preemptForced (graph : BitVec 16) (arg : BitVec 40) : RoundTrip.Statement (.preemptForced graph arg) :=
  fun h => absurd (show false = true from h) Bool.false_ne_true

theorem RoundTrip.resume (graph : BitVec 16) (arg : BitVec 40) : RoundTrip.Statement (.resume graph arg) :=
  fun h => absurd (show false = true from h) Bool.false_ne_true

theorem RoundTrip.unload (graph : BitVec 16) (arg : BitVec 40) : RoundTrip.Statement (.unload graph arg) :=
  fun h => absurd (show false = true from h) Bool.false_ne_true

theorem RoundTrip.tableReconfigure (graph : BitVec 16) (arg : BitVec 40) : RoundTrip.Statement (.tableReconfigure graph arg) :=
  fun h => absurd (show false = true from h) Bool.false_ne_true

theorem RoundTrip.multicastEntryWrite (graph : BitVec 16) (arg : BitVec 40) : RoundTrip.Statement (.multicastEntryWrite graph arg) :=
  fun h => absurd (show false = true from h) Bool.false_ne_true

theorem RoundTrip.reqReservedOperation (op : BitVec 8) (graph : BitVec 16) (arg : BitVec 40) : RoundTrip.Statement (.reqReservedOperation op graph arg) :=
  fun h => absurd (show false = true from h) Bool.false_ne_true

theorem RoundTrip.replay (value : BitVec 64) : RoundTrip.Statement (.replay value) :=
  fun h => absurd (show false = true from h) Bool.false_ne_true

theorem RoundTrip.tlbInvalidate (value : BitVec 64) : RoundTrip.Statement (.tlbInvalidate value) :=
  fun h => absurd (show false = true from h) Bool.false_ne_true

theorem RoundTrip.tlbInvalidateRetire (value : BitVec 64) : RoundTrip.Statement (.tlbInvalidateRetire value) :=
  fun h => absurd (show false = true from h) Bool.false_ne_true

theorem RoundTrip.windowPush (graph : BitVec 16) (window : Nat) (tag : BitVec 64) : RoundTrip.Statement (.windowPush graph window tag) :=
  fun h => absurd (show false = true from h) Bool.false_ne_true

theorem RoundTrip.windowPop (graph : BitVec 16) (window : Nat) : RoundTrip.Statement (.windowPop graph window) :=
  fun h => absurd (show false = true from h) Bool.false_ne_true

theorem RoundTrip.rawTokenWrite (core : Nat) (entry : Nat) (payload : BitVec 64) : RoundTrip.Statement (.rawTokenWrite core entry payload) :=
  fun h => absurd (show false = true from h) Bool.false_ne_true

theorem RoundTrip.counterSelectWrite (offset : Nat) (value : BitVec 64) : RoundTrip.Statement (.counterSelectWrite offset value) :=
  fun h => absurd (show false = true from h) Bool.false_ne_true

theorem RoundTrip.hostRegisterWrite (offset : Nat) (value : BitVec 64) : RoundTrip.Statement (.hostRegisterWrite offset value) :=
  fun h => absurd (show false = true from h) Bool.false_ne_true

theorem RoundTrip.powerOn (rec : CommandRecord) : RoundTrip.Statement (.powerOn rec) :=
  fun h => absurd (show false = true from h) Bool.false_ne_true

theorem RoundTrip.powerOff (rec : CommandRecord) : RoundTrip.Statement (.powerOff rec) :=
  fun h => absurd (show false = true from h) Bool.false_ne_true

theorem RoundTrip.coldStart (rec : CommandRecord) : RoundTrip.Statement (.coldStart rec) :=
  fun h => absurd (show false = true from h) Bool.false_ne_true

theorem RoundTrip.warmStart (rec : CommandRecord) : RoundTrip.Statement (.warmStart rec) :=
  fun h => absurd (show false = true from h) Bool.false_ne_true

theorem RoundTrip.failedStart  : RoundTrip.Statement (.failedStart) :=
  fun h => absurd (show false = true from h) Bool.false_ne_true

theorem RoundTrip.clearServiceHold (rec : CommandRecord) : RoundTrip.Statement (.clearServiceHold rec) :=
  fun h => absurd (show false = true from h) Bool.false_ne_true

theorem RoundTrip.setStep (rec : CommandRecord) : RoundTrip.Statement (.setStep rec) :=
  fun h => absurd (show false = true from h) Bool.false_ne_true

theorem RoundTrip.coreRailSettled  : RoundTrip.Statement (.coreRailSettled) :=
  fun h => absurd (show false = true from h) Bool.false_ne_true

theorem RoundTrip.waveCountReached (field : Nat) : RoundTrip.Statement (.waveCountReached field) :=
  fun h => absurd (show false = true from h) Bool.false_ne_true

theorem RoundTrip.stepChangeAcknowledged  : RoundTrip.Statement (.stepChangeAcknowledged) :=
  fun h => absurd (show false = true from h) Bool.false_ne_true

theorem RoundTrip.writeFrate (rec : CommandRecord) : RoundTrip.Statement (.writeFrate rec) :=
  fun h => absurd (show false = true from h) Bool.false_ne_true

theorem RoundTrip.mgmtTableReconfigure (rec : CommandRecord) : RoundTrip.Statement (.mgmtTableReconfigure rec) :=
  fun h => absurd (show false = true from h) Bool.false_ne_true

theorem RoundTrip.setImagePolicy (rec : CommandRecord) : RoundTrip.Statement (.setImagePolicy rec) :=
  fun h => absurd (show false = true from h) Bool.false_ne_true

theorem RoundTrip.enrolOperatorKey (rec : CommandRecord) : RoundTrip.Statement (.enrolOperatorKey rec) :=
  fun h => absurd (show false = true from h) Bool.false_ne_true

theorem RoundTrip.setSystemWaferNumber (rec : CommandRecord) : RoundTrip.Statement (.setSystemWaferNumber rec) :=
  fun h => absurd (show false = true from h) Bool.false_ne_true

theorem RoundTrip.mgmtWriteCounterSelect (rec : CommandRecord) : RoundTrip.Statement (.mgmtWriteCounterSelect rec) :=
  fun h => absurd (show false = true from h) Bool.false_ne_true

theorem RoundTrip.readStatus (rec : CommandRecord) : RoundTrip.Statement (.readStatus rec) :=
  fun h => absurd (show false = true from h) Bool.false_ne_true

theorem RoundTrip.readLog (rec : CommandRecord) : RoundTrip.Statement (.readLog rec) :=
  fun h => absurd (show false = true from h) Bool.false_ne_true

theorem RoundTrip.readCounters (rec : CommandRecord) : RoundTrip.Statement (.readCounters rec) :=
  fun h => absurd (show false = true from h) Bool.false_ne_true

theorem RoundTrip.readRemapViews (rec : CommandRecord) : RoundTrip.Statement (.readRemapViews rec) :=
  fun h => absurd (show false = true from h) Bool.false_ne_true

theorem RoundTrip.attestation (rec : CommandRecord) : RoundTrip.Statement (.attestation rec) :=
  fun h => absurd (show false = true from h) Bool.false_ne_true

theorem RoundTrip.mgmtRecordRefused (rec : CommandRecord) : RoundTrip.Statement (.mgmtRecordRefused rec) :=
  fun h => absurd (show false = true from h) Bool.false_ne_true

theorem RoundTrip.throttling (logicC : Nat) (dramC : Nat) (watts : Nat) : RoundTrip.Statement (.throttling logicC dramC watts) :=
  fun h => absurd (show false = true from h) Bool.false_ne_true

theorem RoundTrip.recovery (logicC : Nat) (dramC : Nat) (watts : Nat) : RoundTrip.Statement (.recovery logicC dramC watts) :=
  fun h => absurd (show false = true from h) Bool.false_ne_true

theorem RoundTrip.thermalTrip (logicC : Nat) (dramC : Nat) : RoundTrip.Statement (.thermalTrip logicC dramC) :=
  fun h => absurd (show false = true from h) Bool.false_ne_true

theorem RoundTrip.powerFault (railMv : Nat) : RoundTrip.Statement (.powerFault railMv) :=
  fun h => absurd (show false = true from h) Bool.false_ne_true

theorem RoundTrip.clockStretches (field : Nat) : RoundTrip.Statement (.clockStretches field) :=
  fun h => absurd (show false = true from h) Bool.false_ne_true

theorem RoundTrip.retrainingDue (cid : Nat) : RoundTrip.Statement (.retrainingDue cid) :=
  fun h => absurd (show false = true from h) Bool.false_ne_true

theorem RoundTrip.retrainingDeferralLimit (cid : Nat) : RoundTrip.Statement (.retrainingDeferralLimit cid) :=
  fun h => absurd (show false = true from h) Bool.false_ne_true

theorem RoundTrip.retrainingEnd (cid : Nat) (failed : Bool) : RoundTrip.Statement (.retrainingEnd cid failed) :=
  fun h => absurd (show false = true from h) Bool.false_ne_true

theorem RoundTrip.refresh (cid : Nat) : RoundTrip.Statement (.refresh cid) :=
  fun h => absurd (show false = true from h) Bool.false_ne_true

theorem RoundTrip.patrolScrub (cid : Nat) (address : Nat) (finding : ScrubFinding) : RoundTrip.Statement (.patrolScrub cid address finding) :=
  fun h => absurd (show false = true from h) Bool.false_ne_true

theorem RoundTrip.linkRetries (retry : LinkRetry) : RoundTrip.Statement (.linkRetries retry) :=
  fun h => absurd (show false = true from h) Bool.false_ne_true

theorem RoundTrip.routerFailed (router : Nat) : RoundTrip.Statement (.routerFailed router) :=
  fun h => absurd (show false = true from h) Bool.false_ne_true

theorem RoundTrip.undefinedEncoding (detail : BitVec 8) (operand : BitVec 8) (word : BitVec 6) : RoundTrip.Statement (.undefinedEncoding detail operand word) :=
  fun h => absurd (show false = true from h) Bool.false_ne_true

theorem RoundTrip.controlLineDisagreement (link : Link) (cycles : Nat) : RoundTrip.Statement (.controlLineDisagreement link cycles) :=
  fun h => absurd (show false = true from h) Bool.false_ne_true

end Sys2Proof.Laws
end

