-- ==== Sys2Proof/Laws/Sign.lean ====
section
/-!
SUPPORT. Sys2Proof/Laws/Sign.lean: for the key whose polynomials are all 0 every message has a signature that can be
written down: a response of 0 and the hash of the message with a commitment of 0. Every command record can so be signed in
a witness.
-/

namespace Sys2Proof.Machine

theorem keccakSqueeze_length (rate n : Nat) (st : List (BitVec 64)) : (keccakSqueeze rate n st).length = rate * n := by
  induction n generalizing st with
  | zero => rfl
  | succ n ih => simp [keccakSqueeze, keccakBytes, ih, Nat.mul_succ, Nat.add_comm]

/-- A hash has the length asked for. -/
theorem shake256_length (m : List Byte) (n : Nat) : (shake256 m n).length = n := by
  simp only [shake256, shake, List.length_take, keccakSqueeze_length]
  omega

/-- The key of 0s. -/
def nullKey : List Byte := List.replicate 1952 0

/-- The signature of a message under the key of 0s. -/
def nullSign (msg : List Byte) : List Byte :=
  shake256 (shake256 (shake256 nullKey 64 ++ [0, 0] ++ msg) 64 ++ List.replicate 768 0) 48
    ++ ((List.replicate 640 ([0, 0, 8, 0, 128] : List Byte)).flatten ++ List.replicate 61 0)

theorem getD_zeros (n i : Nat) : (List.replicate n 0).getD i 0 = 0 := by
  simp only [List.getD_eq_getElem?_getD, List.getElem?_replicate]
  split <;> rfl

/-- The polynomial 0 is 0 everywhere. -/
theorem polyAt_zeros (n x : Nat) : polyAt (List.replicate n 0) x = 0 := by
  induction n with
  | zero => rfl
  | succ n ih => rw [polyAt] at ih; simp [polyAt, List.replicate_succ, ih]

theorem ntt_zero : ntt (List.replicate 256 0) = List.replicate 256 0 := by
  simp only [ntt, polyAt_zeros, List.map_const', List.length_range]

theorem nttInverse_zero : nttInverse (List.replicate 256 0) = List.replicate 256 0 := by
  simp only [nttInverse, getD_zeros, polyAt_zeros, List.map_const', List.length_range, Nat.mul_zero, Nat.zero_mod]

theorem getD_rows (n m k i : Nat) : ((List.replicate n (List.replicate m 0)).getD k []).getD i 0 = 0 := by
  rw [List.getD_eq_getElem?_getD (l := List.replicate n (List.replicate m 0)), List.getElem?_replicate]
  split
  · exact getD_zeros m i
  · rfl

theorem commitRow_zero (seed : List Byte) (r : Nat) (c : List Nat) :
    commitRow seed r (List.replicate 5 (List.replicate 256 0)) c (List.replicate 256 0) = List.replicate 256 0 := by
  have h : ∀ i, (List.range 5).foldl (fun a k => (a + (matrixEntry seed r k).getD i 0 *
      ((List.replicate 5 (List.replicate 256 0)).getD k []).getD i 0) % dsaQ) 0 = 0 := by
    intro i
    simp only [getD_rows, Nat.mul_zero, Nat.add_zero]
    decide
  unfold commitRow
  simp only [h, getD_zeros, Nat.mul_zero]
  rw [show (List.range 256).map (fun _ => (0 + (dsaQ - 0 % dsaQ)) % dsaQ) = List.replicate 256 0 by decide +kernel]
  exact nttInverse_zero

theorem commitment_zero (c : List Nat) :
    commitment nullKey (List.replicate 5 (List.replicate 256 0)) c (List.replicate 6 []) = List.replicate 768 0 := by
  have ht : ∀ r < 6, ntt ((unpackBits 10 256 (nullKey.drop (32 + 320 * r))).map (· * 8192)) = List.replicate 256 0 := by
    intro r hr
    rw [show (unpackBits 10 256 (nullKey.drop (32 + 320 * r))).map (· * 8192) = List.replicate 256 0 by
      revert r; decide +kernel]
    exact ntt_zero
  have hr : ∀ r < 6, (let t := ntt ((unpackBits 10 256 (nullKey.drop (32 + 320 * r))).map (· * 8192))
      let row := commitRow (nullKey.take 32) r (List.replicate 5 (List.replicate 256 0)) c t
      packNibbles ((List.range 256).map fun i => useHint (((List.replicate 6 ([] : List Nat)).getD r []).contains i) (row.getD i 0)))
      = List.replicate 128 0 := by
    intro r hr
    simp only [ht r hr, commitRow_zero]
    revert r
    decide +kernel
  unfold commitment
  rw [List.flatMap_congr (g := fun _ => List.replicate 128 0) (fun r h => hr r (List.mem_range.1 h))]
  simp [List.range, List.range.loop]

theorem nullSign_ok (msg : List Byte) : dsaVerify nullKey msg (nullSign msg) = true := by
  have hd : ∀ n, (nullSign msg).drop (48 + n) =
      ((List.replicate 640 ([0, 0, 8, 0, 128] : List Byte)).flatten ++ List.replicate 61 0).drop n := by
    intro n
    rw [← List.drop_drop, nullSign, List.drop_left' (shake256_length _ _)]
  have hh : hintsFrom (((nullSign msg).drop 3248).map (·.toNat)) 6 0 = some (List.replicate 6 []) := by
    rw [show 3248 = 48 + 3200 by rfl, hd]; decide +kernel
  have hz : responseRaw (nullSign msg) = List.replicate 5 (List.replicate 256 524288) := by
    unfold responseRaw
    simp only [hd]
    decide +kernel
  have hl : (nullSign msg).length = 3309 := by
    unfold nullSign
    rw [List.length_append, shake256_length]
    decide +kernel
  have ht : (nullSign msg).take 48 =
      shake256 (shake256 (shake256 nullKey 64 ++ [0, 0] ++ msg) 64 ++ List.replicate 768 0) 48 :=
    List.take_left' (shake256_length _ _)
  have hn : (List.replicate 5 (List.replicate 256 524288)).map (fun z => ntt (z.map fun x => (524288 + dsaQ - x) % dsaQ)) =
      List.replicate 5 (List.replicate 256 0) := by
    simp only [List.map_replicate]
    rw [show (524288 + dsaQ - 524288) % dsaQ = 0 by decide, ntt_zero]
  unfold dsaVerify
  simp only [hh, hz, hl, hn, commitment_zero, ht, BEq.rfl, Bool.and_true]
  decide +kernel

/-- Every message has a signature under the key of 0s. -/
theorem nullSign_signs (bytes : List Byte) : signatureOk nullKey bytes (nullSign (shake256 bytes 64)) = true := nullSign_ok _

end Sys2Proof.Machine
end

