-- ==== Sys2Proof/Laws/Step.lean ====
section
/-!
SUPPORT. Sys2Proof/Laws/Step.lean: what the time of an issue, and what stands around a meaning in a step, can change.
-/

namespace Sys2Proof.Machine

/-! ## Time passes -/

/-- A list whose values change by a function of key and value. -/
theorem assocGet_mapKey {α : Type} (l : List (Nat × α)) (f : Nat → α → α) (n : Nat) :
    assocGet (l.map fun x => (x.1, f x.1 x.2)) n = (assocGet l n).map (f n) := by
  induction l with
  | nil => rfl
  | cons x rest ih =>
    obtain ⟨k, y⟩ := x
    by_cases h : k = n
    · subst h; simp [assocGet]
    · simpa [assocGet, h] using ih

/-- The issuing core: its time is what its own step takes. -/
theorem State.cur_elapse (s : State) (n : Nat) : (s.elapse n).cur = s.cur.elapse s.focus s.tick n := by
  unfold State.elapse
  rw [State.cur_modCur]
  refine congrArg (fun k : Core => k.elapse s.focus s.tick n) ?_
  have e := assocGet_mapKey s.cores (fun c k => if c ≠ s.focus ∧ s.idles c = true then
    k.elapse c s.tick (Config.idle s.tick c) else k) s.focus
  refine (congrArg (fun x => Option.getD x Core.reset) e).trans ?_
  simp [State.cur, State.core]

/-- The cores that do not issue: an idle one that is listed goes on by a free amount, any other stands. -/
theorem State.core_elapse_other (s : State) (n : Nat) {k : Nat} (h : k ≠ s.focus) :
    (s.elapse n).core k = s.core k ∨
      s.idles k = true ∧ (s.elapse n).core k = (s.core k).elapse k s.tick (Config.idle s.tick k) := by
  unfold State.elapse State.modCur State.modCore
  rw [State.core_setCore_other _ _ h]
  have e := assocGet_mapKey s.cores (fun c k => if c ≠ s.focus ∧ s.idles c = true then
    k.elapse c s.tick (Config.idle s.tick c) else k) k
  by_cases hi : s.idles k = true
  · cases g : assocGet s.cores k with
    | none => rw [g] at e; exact .inl (by unfold State.core; rw [g]; exact congrArg (fun x => Option.getD x _) e)
    | some c =>
      rw [g] at e
      refine .inr ⟨hi, ?_⟩
      unfold State.core
      rw [g]
      exact (congrArg (fun x => Option.getD x _) e).trans (by simp [h, hi])
  · refine .inl ?_
    unfold State.core
    refine (congrArg (fun x => Option.getD x _) e).trans ?_
    simp [hi]

/-- No core that runs a turn and does not issue gains time (R257). -/
theorem State.core_elapse_turn (s : State) (n : Nat) {k : Nat} (h : k ≠ s.focus) (ht : (s.core k).turn = true) :
    (s.elapse n).core k = s.core k := by
  rcases s.core_elapse_other n h with e | ⟨e, -⟩
  · exact e
  · simp [State.idles, ht] at e

/-- Time changes no context. -/
theorem State.ctxAt_elapse (s : State) (n k : Nat) (m : BitVec 4) : (s.elapse n).ctxAt k m = s.ctxAt k m := by
  unfold State.ctxAt
  by_cases h : k = s.focus
  · subst h
    have e : (s.elapse n).core s.focus = (s.core s.focus).elapse s.focus s.tick n := s.cur_elapse n
    rw [e]; rfl
  · rcases s.core_elapse_other n h with e | ⟨-, e⟩ <;> rw [e]; rfl

/-- Time changes nothing outside cores, hubs, fields, the wave counter and the model's own counter. -/
theorem State.elapse_frame (s : State) (n : Nat) : s.elapse n = { s with
    cores := (s.elapse n).cores, hubs := (s.elapse n).hubs, fields := (s.elapse n).fields, tick := s.tick + 1,
    module := { s.module with wave := s.module.wave + Config.periods s.tick 2048 } } := rfl

/-! ## What the pipe remembers (R72) -/

/-- What follows a meaning in a step changes the due results and the gap of cores, and nothing else. -/
theorem State.timed_frame (s t : State) (i : Instr) : s.timed t i = { t with cores := (s.timed t i).cores } := by
  unfold State.timed State.issued State.selected
  split
  · split <;> rfl
  · split
    · dsimp only; split <;> rfl
    · rfl

/-- The fields of a core that it changes. -/
theorem State.core_timed (s t : State) (i : Instr) (k : Nat) :
    (s.timed t i).core k = { t.core k with gap := ((s.timed t i).core k).gap, due := ((s.timed t i).core k).due } := by
  have mod : ∀ (c : Nat) (f : Core → Core), (∀ x : Core, f x = { x with gap := (f x).gap, due := (f x).due }) →
      (t.modCore c f).core k = { t.core k with gap := ((t.modCore c f).core k).gap, due := ((t.modCore c f).core k).due } := by
    intro c f h
    by_cases e : k = c
    · subst e; unfold State.modCore; rw [State.core_setCore_same]; exact h _
    · unfold State.modCore; rw [State.core_setCore_other _ _ e]
  unfold State.timed State.issued State.selected
  split
  · split
    · rfl
    · refine mod _ _ fun x => ?_
      dsimp only; split <;> rfl
  · split
    · dsimp only
      split
      · exact mod _ _ fun _ => rfl
      · rfl
    · rfl

/-- Only the core that issues remembers anything of an instruction. -/
theorem State.core_timed_other (s t : State) {i : Instr} (h : i.coded = true) {k : Nat} (hk : k ≠ t.focus) :
    (s.timed t i).core k = t.core k := by
  unfold State.timed State.issued
  rw [if_pos h]
  split
  · rfl
  · exact State.core_setCore_other _ _ hk

/-! ## Marked cells (R260) -/

@[simp] theorem State.withCell_flaws (s : State) (key : Nat) (v : Byte) : (s.withCell key v).flaws = s.flaws := rfl

theorem State.withCell_wf {s : State} (h : Memory.wf s.mem = true) (key : Nat) (v : Byte) :
    Memory.wf (s.withCell key v).mem = true := memSet_wf h key v

theorem State.withCells_wf {s : State} (h : Memory.wf s.mem = true) (l : List (Nat × Byte)) :
    Memory.wf (s.withCells l).mem = true := by
  unfold State.withCells
  induction l generalizing s with
  | nil => exact h
  | cons x rest ih => exact ih (s.withCell_wf h _ _)

/-- Where nothing is marked, no access meets an error again. -/
theorem State.meets_sound {s : State} (h : s.flaws = []) (g : s.spots = []) (i : Instr) : s.meets exec i = none := by
  simp [State.meets, h, g]

/-- What becomes of the marks is all that an instruction or event changes besides. -/
theorem State.keepSpots_frame (s t : State) (i : Instr) : s.keepSpots t i = { t with spots := (s.keepSpots t i).spots } := by
  unfold State.keepSpots
  split <;> rfl

theorem State.keepSpots_sound {s : State} (g : s.spots = []) (t : State) (i : Instr) : s.keepSpots t i = t := by
  simp [State.keepSpots, g]

@[simp] theorem State.keepSpots_mem (s t : State) (i : Instr) : (s.keepSpots t i).mem = t.mem := by rw [s.keepSpots_frame t i]

@[simp] theorem State.keepSpots_module (s t : State) (i : Instr) : (s.keepSpots t i).module = t.module := by
  rw [s.keepSpots_frame t i]

@[simp] theorem State.reqDone_mem (s : State) (op : BitVec 8) (x : BitVec 7) : (s.reqDone op x).mem = s.mem := rfl

/-- A request that ends answers in the module's registers, and its log stays. -/
theorem State.endRequest_frame (s : State) (i : Instr) :
    (s.endRequest i).mem = s.mem ∧ (s.endRequest i).module.log = s.module.log := by
  unfold State.endRequest
  split <;> exact ⟨rfl, rfl⟩

theorem State.fetchMeets_sound {s : State} (h : s.flaws = []) : s.fetchMeets = none := by simp [State.fetchMeets, h]

/-- Where nothing is marked, what is performed is the meaning and what the pipe remembers of it. -/
theorem State.perform_sound {s : State} (h : s.flaws = []) (g : s.spots = []) (i : Instr) :
    s.perform exec i = Answer.map (exec i s) fun t => s.timed t i := by
  unfold State.perform
  rw [State.meets_sound h g]
  simp only [State.keepSpots_sound g]
  cases s.accessor i <;> rfl

/-- What is performed is the meaning, or an access that ends at a marked cell; and in each case what the pipe remembers of it. -/
theorem State.perform_cases (s : State) (i : Instr) :
    s.perform exec i = Answer.map (exec i s) (fun t => s.keepSpots (s.timed t i) i) ∨
      ∃ who a, s.accessor i = some who ∧ s.meets exec i = some a ∧
        s.perform exec i = .next (s.timed ((s.endAccess who a.1 a.2).endRequest i) i) := by
  unfold State.perform
  cases h : s.accessor i with
  | none => exact .inl rfl
  | some who =>
    cases g : s.meets exec i with
    | none => exact .inl rfl
    | some a => exact .inr ⟨who, a, rfl, rfl, rfl⟩

/-- A step that performs an instruction or event: the next state has the memory of its meaning's, or of the ended access. -/
theorem State.perform_next {s t : State} {i : Instr} (h : s.perform exec i = .next t) :
    (∃ u, exec i s = .next u ∧ t = s.keepSpots (s.timed u i) i) ∨
      ∃ who a, s.accessor i = some who ∧ s.meets exec i = some a ∧
        t = s.timed ((s.endAccess who a.1 a.2).endRequest i) i := by
  rcases s.perform_cases i with e | ⟨who, a, hw, ha, e⟩
  · rw [e] at h
    cases g : exec i s with
    | next u => rw [g] at h; cases h; exact .inl ⟨u, rfl, rfl⟩
    | fault f => rw [g] at h; cases h
    | refused r => rw [g] at h; cases h
  · rw [e] at h
    cases h
    exact .inr ⟨who, a, hw, ha, rfl⟩

@[simp] theorem State.timed_mem (s t : State) (i : Instr) : (s.timed t i).mem = t.mem := by rw [s.timed_frame t i]

@[simp] theorem State.timed_module (s t : State) (i : Instr) : (s.timed t i).module = t.module := by rw [s.timed_frame t i]

@[simp] theorem State.elapse_mem (s : State) (n : Nat) : (s.elapse n).mem = s.mem := rfl

end Sys2Proof.Machine
end

