-- ==== Sys2Proof/Tests/Slice0.lean ====
section
/-!
SUPPORT. Sys2Proof/Tests/Slice0.lean: the model's own tests. Ill-formed terms that the check refuses, words written out
from the spec's encodings and listings, single steps whose results are calculated from the rules, and for each obligation
with hypotheses concrete states and operands that meet them.
-/

-- One test at a time: elaborated side by side, they hold the memory of many threads at once.
set_option Elab.async false

open Sys2Proof Sys2Proof.Machine

namespace Sys2Proof.Tests

/-! ## Well-formedness: an ill-formed term for each check -/

theorem smoke_allZero : fieldFault (.add 0 0 0 false) = some .allZero := by decide
theorem smoke_pairRange : fieldFault (.mulpS 31 1 2 false) = some .outOfRange := by decide
theorem smoke_scaleRegister : fieldFault (.fadd 1 16 2) = some .outOfRange := by decide
theorem smoke_loopCounter : fieldFault (.loop 0 5 false false) = some .outOfRange := by decide
theorem smoke_barrier : fieldFault (.barr 8) = some .undefinedFunction := by decide
theorem smoke_counter : fieldFault (.evrd 1 20) = some .undefinedFunction := by decide
theorem smoke_csr : fieldFault (.csrr 1 0x00E) = some .undefinedCsr := by decide
theorem smoke_loadSize : fieldFault (.ld false 1 2 7 0) = some .undefinedFunction := by decide
theorem smoke_controlCode : fieldFault (.poutc 1 2 5 false) = some .undefinedFunction := by decide
theorem smoke_port : fieldFault (.pin 1 16) = some .outOfRange := by decide
theorem smoke_longLatency : fieldFault (.feClr 0) = some .longLatencyS0 := by decide
theorem smoke_chasePair : fieldFault (.chase 31 1 2 false) = some .longLatencyS0 := by decide
theorem smoke_scope : fieldFault (.fenceAcc 1 5) = some .undefinedFunction := by decide
theorem smoke_mask : fieldFault (.kand 8 1 2) = some .outOfRange := by decide
theorem smoke_lane : fieldFault (.vrot 1 2 16 0 false) = some .undefinedFunction := by decide
theorem smoke_bank : fieldFault (.vrun 3 0 false) = some .reservedField := by decide
theorem smoke_tile : fieldFault (.tclr 8) = some .outOfRange := by decide
theorem smoke_press : fieldFault (.pmm 0 1 2 3 false) = some .longLatencyS0 := by decide
theorem smoke_engine : fieldFault (.sgo 1 4) = some .outOfRange := by decide
theorem smoke_enginePair : fieldFault (.xcopy 31 1 2 false) = some .longLatencyS0 := by decide
theorem smoke_event : (Instr.selection 0).wellFormed = false := by decide

/-! ## Words of the spec's listings (06, 08, 11, 14, 18, 21) and of its encoding tables -/

theorem decode_add : decodeWord 0x00308800 = .ok (.add 3 1 2 false) := rfl
theorem decode_loop : decodeWord 0x42200080 = .ok (.loop 2 2 false false) := rfl
theorem decode_csrr : decodeWord 0x4D400004 = .ok (.csrr 20 4) := rfl
theorem decode_tret : decodeWord 0x4A000003 = .ok .tret := rfl
theorem decode_done : decodeWord 0x4A000001 = .ok .done := rfl
theorem decode_addi : decodeWord 0x095A0200 = .ok (.addi false 21 20 0x200) := rfl
theorem decode_vcfg : decodeWord 0xB20A8000 = .ok (.vcfg 0 21 false) := rfl
theorem decode_vrun : decodeWord 0xB2004001 = .ok (.vrun 16 0 false) := rfl
theorem decode_vld : decodeWord 0xAD7A1C00 = .ok (.vld 23 20 7 0 false false) := rfl
theorem decode_vmul : decodeWord 0xA080C002 = .ok (.vmul 8 1 16 0 false) := rfl
theorem decode_vshup : decodeWord 0xA8308402 = .ok (.vshup 3 1 1 0 false) := rfl
theorem decode_slli : decodeWord 0x18310003 = .ok (.slli false 3 2 3) := rfl
theorem decode_ld : decodeWord 0x6041E000 = .ok (.ld false 4 3 6 0) := rfl
theorem decode_rplWhey : decodeWord 0x82009000 = .ok (.rplWhey 1 4 false) := rfl
theorem decode_csrw : decodeWord 0x4C049007 = .ok (.csrw false 9 7) := rfl
theorem decode_sndCurd : decodeWord 0x80AA6000 = .ok (.sndCurd 10 20 24 false) := rfl
theorem decode_bCond : decodeWord 0x41089380 = .ok (.bCond 16 17 1 14 false false) := rfl
theorem decode_sopen : decodeWord 0xD0130000 = .ok (.sopen 1 6 false) := rfl
theorem decode_sgo : decodeWord 0xD0908001 = .ok (.sgo 9 1) := rfl
theorem decode_popc : decodeWord 0x04838005 = .ok (.popc 8 7 false) := rfl
theorem decode_scl : decodeWord 0xF47000B8 = .ok (.scl 7 0 0 0x17 false) := rfl
theorem decode_mcfg : decodeWord 0xC2030000 = .ok (.mcfg 6 false) := rfl
theorem decode_pldb : decodeWord 0xC4018001 = .ok (.pldb 3) := rfl
theorem decode_vmvVS : decodeWord 0xA85A1406 = .ok (.vmvVS 5 20 5 false) := rfl
theorem decode_tshp : decodeWord 0xC0020000 = .ok (.tshp 0 4 false) := rfl
theorem decode_fmvFS : decodeWord 0x2825000F = .ok (.fmvFS 2 10 false) := rfl
theorem decode_pmm : decodeWord 0xC6C19040 = .ok (.pmm 12 3 4 2 false) := rfl
theorem decode_trowWr : decodeWord 0xC8708401 = .ok (.trowWr 7 1 1 false) := rfl
theorem decode_eldInc : decodeWord 0xE8114000 = .ok (.eldInc false 1 2 0) := rfl
theorem decode_elen : decodeWord 0xE041800B = .ok (.elen 4 3) := rfl
theorem decode_est : decodeWord 0xE8313F00 = .ok (.est false 3 2 31 0) := rfl
theorem decode_fld : decodeWord 0x84250006 = .ok (.fld 2 10 0 false 6) := rfl
theorem decode_amoAdd : decodeWord 0x8A358810 = .ok (.amoAdd 3 11 2 true) := rfl
theorem decode_pout : decodeWord 0x68018011 = .ok (.pout 0 3 true) := rfl
theorem decode_barr : decodeWord 0x4A000006 = .ok (.barr 0) := rfl
theorem decode_fst : decodeWord 0x86208003 = .ok (.fst 2 1 0 false 3) := rfl
theorem decode_fenceVis : decodeWord 0x9290000B = .ok (.fenceVis 9 3) := rfl
theorem decode_or : decodeWord 0x00018C13 = .ok (.or 0 3 3 true) := rfl
theorem decode_pin : decodeWord 0x68100000 = .ok (.pin 1 0) := rfl
theorem decode_ext : decodeWord 0xF0008060 = .ok (.ext 0x8060) := rfl
theorem decode_li : decodeWord 0x24B00000 = .ok (.li 11 0) := rfl
theorem decode_rnd : decodeWord 0xF7500000 = .ok (.rnd 5 1) := rfl
theorem decode_vfma : decodeWord 0xA2408983 = .ok (.vfma 4 1 2 3 false) := rfl
theorem decode_vcvt : decodeWord 0xAE30A000 = .ok (.vcvt 3 1 8 0 false) := rfl
theorem decode_esub : decodeWord 0xE0308801 = .ok (.esub 3 1 2) := rfl
theorem decode_eprec : decodeWord 0xE4500040 = .ok (.eprec false 5 0 0x40) := rfl

/-- `xor s31, s30, s29` with W from its fields: major 0x00, d 31, a 30, b 29, W 1, function 4. -/
theorem decode_bits_xor :
    decodeWord (0b0000000#7 ++ 0b11111#5 ++ 0b11110#5 ++ 0b11101#5 ++ 0b00000#5 ++ 0b1#1 ++ 0b0100#4) =
      .ok (.xor 31 30 29 true) := rfl

theorem decode_reserved_major : decodeWord 0xFE000000 = .error .reservedMajor := rfl
theorem decode_reserved_field : decodeWord 0x4A100001 = .error .reservedField := rfl
theorem decode_table : decodeTableWord 32 0x4A000001 = some .done := rfl
theorem decode_event : decodeTableWord 0 0 = none := rfl

/-! ## A small machine -/

/-- The next state, or the state itself where there is none. -/
def run (i : Instr) (s : State) : State :=
  match exec i s with
  | .next t => t
  | _ => s

/-- Scalar registers written. -/
def regs (l : List (Reg × Word)) (c : Context) : Context := l.foldl (fun c x => c.writeS x.1 x.2) c

/-- A context of graph 1 whose handler 0 stands at pool offset 0 and whose trap handler 1 at 512. -/
def ctx0 : Context := { Context.reset 0 with
  bound := true
  ctxid := 0x10000
  handlers := [(0, 0), (1, 512)]
  firing := true
  tvec := 0x10001 }

/-- A core with that context in its turn: one code unit, two of scratchpad, four of accumulators. -/
def core0 (c : Context) : Core :=
  { Core.reset with ctxs := setV Core.reset.ctxs (0 : BitVec 4) c, turn := true, partn := 0x102001 }

/-- Both blocks have 64 words; block 1 may be entered through TVEC. -/
def blocks : List Host.Cell :=
  [(2 ^ 47 + 2, 0x0C), (2 ^ 47 + 3, 0xFE), (2 ^ 47 + 512, 1), (2 ^ 47 + 514, 0x0D), (2 ^ 47 + 515, 0xFE)]

/-- Core 0 of a machine right after reset, with that context in its turn. -/
def demo (c : Context) : State := { State.reset with cores := [(0, core0 c)], mem := blocks }

/-- The same with scalar registers written. -/
def with_ (l : List (Reg × Word)) : State := demo (regs l ctx0)

/-- The scalar registers of a state's issuing context. -/
def out (s : State) (r : Reg) : Word := s.ctx.readS r

/-! ## Single steps: scalar instructions (R43 to R71) -/

theorem test_add_wraps : out (run (.add 3 1 2 false) (with_ [(1, -1), (2, 1)])) 3 = 0 := by decide +kernel
theorem test_add_s0 : (run (.add 0 1 2 false) (with_ [(1, 7), (2, 1)])).ctx.s = (with_ [(1, 7), (2, 1)]).ctx.s := by
  decide +kernel
theorem test_sub_borrow : out (run (.sub 1 1 2 false) (with_ [(1, 3), (2, 5)])) 1 = 0xFFFFFFFFFFFFFFFE := by decide +kernel
theorem test_andn : out (run (.andn 3 1 2 false) (with_ [(1, 0xFF), (2, 0x0F)])) 3 = 0xF0 := by decide +kernel
theorem test_sra_amount : out (run (.sra 3 1 2 false) (with_ [(1, -8), (2, 65)])) 3 = 0xFFFFFFFFFFFFFFFC := by decide +kernel
theorem test_ror : out (run (.ror 3 1 2 false) (with_ [(1, 1), (2, 4)])) 3 = 0x1000000000000000 := by decide +kernel
theorem test_mulp_su : out (run (.mulpSu 2 1 2 false) (with_ [(1, -1), (2, -1)])) 2 = 1 ∧
    out (run (.mulpSu 2 1 2 false) (with_ [(1, -1), (2, -1)])) 3 = 0xFFFFFFFFFFFFFFFF := by decide +kernel
theorem test_divq_floor : out (run (.divqF 4 1 2 false) (with_ [(1, -7), (2, 2)])) 4 = 0xFFFFFFFFFFFFFFFC ∧
    out (run (.divqF 4 1 2 false) (with_ [(1, -7), (2, 2)])) 5 = 1 := by decide +kernel
theorem test_divq_trunc : out (run (.divqS 4 1 2 false) (with_ [(1, -7), (2, 2)])) 4 = 0xFFFFFFFFFFFFFFFD ∧
    out (run (.divqS 4 1 2 false) (with_ [(1, -7), (2, 2)])) 5 = 0xFFFFFFFFFFFFFFFF := by decide +kernel
theorem test_divq_overflow : out (run (.divqS 4 1 2 false) (with_ [(1, 0x8000000000000000), (2, -1)])) 4 = 0x8000000000000000 ∧
    out (run (.divqS 4 1 2 false) (with_ [(1, 0x8000000000000000), (2, -1)])) 5 = 0 := by decide +kernel
theorem test_divq_zero : out (run (.divqU 4 1 2 false) (with_ [(1, 9), (2, 0)])) 4 = 0 ∧
    out (run (.divqU 4 1 2 false) (with_ [(1, 9), (2, 0)])) 5 = 9 := by decide +kernel
theorem test_minu : out (run (.minu 3 1 2 false) (with_ [(1, -1), (2, 5)])) 3 = 5 := by decide +kernel
theorem test_bfx_sign : out (run (.bfx 3 1 2 false) (with_ [(1, 0xF0), (2, 0x404)])) 3 = 0xFFFFFFFFFFFFFFFF := by decide +kernel
theorem test_bfi : out (run (.bfi 3 1 2 false) (with_ [(3, 0xFFFF), (1, 0x5), (2, 0x404)])) 3 = 0xFF5F := by decide +kernel
theorem test_clz_zero : out (run (.clz 3 1 false) (with_ [(1, 0)])) 3 = 64 := by decide +kernel
theorem test_bswap : out (run (.bswap 3 1 false) (with_ [(1, 0x0102030405060708)])) 3 = 0x0807060504030201 := by decide +kernel
theorem test_sltu : out (run (.sltu 3 1 2 false) (with_ [(1, -1), (2, 1)])) 3 = 0 ∧
    out (run (.slt 3 1 2 false) (with_ [(1, -1), (2, 1)])) 3 = 1 := by decide +kernel
theorem test_sel_zero : out (run (.sel 4 1 2 3 false) (with_ [(1, 10), (2, 20), (3, 0)])) 4 = 20 := by decide +kernel
theorem test_addi_ext :
    out (run (.addi false 3 1 1) (demo { regs [(1, 5)] ctx0 with chain := { Chain.empty with start := some 0, ext := some 1 } })) 3 =
      0x8006 := by decide +kernel
theorem test_sltiu_sign : out (run (.sltiu false 3 1 0x7FFF) (with_ [(1, 5)])) 3 = 1 := by decide +kernel
theorem test_liu : out (run (.liu 3 0x7FFF) (with_ [])) 3 = 0x7FFF ∧ out (run (.li 3 0x7FFF) (with_ [])) 3 = 0xFFFFFFFFFFFFFFFF := by
  decide +kernel
theorem test_empty_traps :
    (run (.add 3 1 2 false) (demo (ctx0.markEmpty 2))).ctx.cause = 0x020008 := by decide +kernel
theorem test_empty_parks :
    (run (.add 3 1 2 true) (demo (ctx0.markEmpty 2))).ctx.park = .regs [1, 2] := by decide +kernel
theorem test_branch : (run (.bCond 1 2 2 9 false false) (with_ [(1, -1), (2, 0)])).ctx.word = 9 := by decide +kernel
theorem test_loop_last : (run (.loop 1 9 false false) (with_ [(1, 1)])).ctx.word = 1 ∧
    out (run (.loop 1 9 false false) (with_ [(1, 1)])) 1 = 0 := by decide +kernel
theorem test_call_link : out (run (.call 30 1) (with_ [])) 30 = 1 ∧ (run (.call 30 1) (with_ [])).ctx.handler = 1 := by
  decide +kernel
theorem test_ret_range : (run (.ret 1 false) (with_ [(1, 64)])).ctx.cause = 0x0C01 := by decide +kernel
theorem test_trap : (run (.trap 5) (with_ [])).ctx.cause = 0x0F ∧ (run (.trap 5) (with_ [])).ctx.faddr = 5 ∧
    (run (.trap 5) (with_ [])).ctx.handler = 1 ∧ (run (.trap 5) (with_ [])).ctx.status = 1 := by decide +kernel
theorem test_tret : (run .tret (demo { ctx0 with status := 1, handler := 1, epc := 7 })).ctx.handler = 0 ∧
    (run .tret (demo { ctx0 with status := 1, handler := 1, epc := 7 })).ctx.word = 7 := by decide +kernel
theorem test_tret_outside : (run .tret (with_ [])).ctx.cause = 0x0D01 := by decide +kernel
theorem test_done : (run .done (demo { ctx0 with status := 1 })).ctx.firing = false ∧
    (run .done (demo { ctx0 with status := 1 })).ctx.status = 0 := by decide +kernel
theorem test_csrw_reserved : (run (.csrw false 1 6) (with_ [(1, 0x20000)])).ctx.cause = 0x020E := by decide +kernel
theorem test_csrr_tfree : out (run (.csrr 3 9) (with_ [])) 3 = 128 := by decide +kernel
theorem test_csrx_flags :
    (run (.csrx false 2 1 1) (demo { regs [(1, 0x300000), (2, 0x100000)] ctx0 with prec := 0xF00018 })).ctx.prec = 0xE00018 := by
  decide +kernel
theorem test_ld_sign : out (run (.ld false 3 1 0 1) { with_ [(1, 16384)] with mem := blocks ++ [(2 ^ 47 + 16385, 0x80)] }) 3 =
    0xFFFFFFFFFFFFFF80 := by decide +kernel
theorem test_ld_misaligned : (run (.ld false 3 1 4 0) (with_ [(1, 16386)])).ctx.cause = 0x010003 := by decide +kernel
theorem test_st_order : (run (.st false 2 1 1 0) (with_ [(1, 16384), (2, 0xABCD)])).mem = blocks ++
    [(2 ^ 47 + 16384, 0xCD), (2 ^ 47 + 16385, 0xAB)] := by decide +kernel
theorem test_st_bounds : (run (.st false 2 1 3 0) (with_ [(1, 49152)])).ctx.cause = 0x010004 := by decide +kernel
theorem test_fadd : (run (.fadd 3 1 2) (demo ((ctx0.writeF 1 0x3F800000).writeF 2 0x3F800000))).ctx.readF 3 = 0x40000000 := by
  decide +kernel
theorem test_fmul_subnormal : (run (.fmul 3 1 2) (demo ((ctx0.writeF 1 0x00800000).writeF 2 0x3F000000))).ctx.readF 3 = 0x00400000 := by
  decide +kernel
theorem test_fmin_zero : (run (.fmin 3 1 2) (demo (ctx0.writeF 2 0x80000000))).ctx.readF 3 = 0x80000000 := by decide +kernel
theorem test_fcvt_rtz : out (run (.fcvtSF 3 1) (demo (ctx0.writeF 1 0xBFC00000))) 3 = 0xFFFFFFFFFFFFFFFF := by decide +kernel
theorem test_feq_nan : out (run (.feq 3 1 1) (demo (ctx0.writeF 1 0x7FC00000))) 3 = 0 := by decide +kernel
theorem test_prefix_chain : (run (.ext 1) (demo { ctx0 with word := 4 })).ctx.chain.start = some 4 ∧
    (run (.ext 1) (demo { ctx0 with word := 4 })).ctx.word = 5 := by decide +kernel

/-! ## Vector and elastic instructions -/

/-- A vector register whose lane j is `f j`. -/
def lanes (f : Nat → Nat) : Lanes := Vector.ofFn fun i => BitVec.ofNat 32 (f i.val)

theorem test_vadd_mask : getV ((run (.vadd 3 1 2 1 true) (demo (((ctx0.writeV 1 (lanes id)).writeV 2 (lanes fun _ => 5)).writeK 1
    0x8000))).ctx.readV 3) (15 : BitVec 4) = 20 ∧ getV ((run (.vadd 3 1 2 1 true) (demo (((ctx0.writeV 1 (lanes id)).writeV 3
    (lanes fun _ => 5)).writeK 1 0x8000))).ctx.readV 3) (0 : BitVec 4) = 0 := by decide +kernel
theorem test_vredAdd : getV ((run (.vredAdd 3 1 0) (demo (ctx0.writeV 1 (lanes id)))).ctx.readV 3) (7 : BitVec 4) = 120 := by
  decide +kernel
theorem test_vrot : getV ((run (.vrot 3 1 1 0 false) (demo (ctx0.writeV 1 (lanes id)))).ctx.readV 3) (15 : BitVec 4) = 0 := by
  decide +kernel
theorem test_vshup : getV ((run (.vshup 3 1 1 0 false) (demo (ctx0.writeV 1 (lanes id)))).ctx.readV 3) (15 : BitVec 4) = 14 := by
  decide +kernel
theorem test_vcmp_unsigned : (run (.vcmpLtu 2 1 3 0 false) (demo (ctx0.writeV 3 (lanes fun j => 0x80000000 * (j % 2))))).ctx.readK 2 =
    0xAAAA := by decide +kernel
theorem test_knot_k0 : (run (.knot 1 0) (demo ctx0)).ctx.readK 1 = 0 ∧ (run (.kmov 0 1) (demo ctx0)).ctx.readK 0 = 0xFFFF := by
  decide +kernel
theorem test_vpack : getV ((run (.vpack 3 1 3) (demo (ctx0.writeV 1 (lanes id)))).ctx.readV 3) (1 : BitVec 4) = 0x07060504 := by
  decide +kernel
theorem test_vfadd_round : getV ((run (.vfadd 3 1 2 0 false) (demo ((ctx0.writeV 1 (lanes fun _ => 0x3F800000)).writeV 2
    (lanes fun _ => 0x33800000)))).ctx.readV 3) (0 : BitVec 4) = 0x3F800000 := by decide +kernel
theorem test_vmv_sign : out (run (.vmvSV 3 1 15) (demo (ctx0.writeV 1 (lanes fun _ => 0x80000000)))) 3 = 0xFFFFFFFF80000000 := by
  decide +kernel
theorem test_ecvt_exact : ExNum.cmp ((run (.ecvtEI 3 1 false false) (with_ [(1, -3)])).ctx.readE 3).read (.fin true 3 0) = 0 := by
  decide +kernel
theorem test_eadd_round :
    ExNum.cmp ((run (.eadd 3 1 2) (run (.ecvtEI 2 2 false false) (run (.ecvtEI 1 1 false false) (with_ [(1, 0x1000000), (2, 1)])))).ctx.readE
      3).read (.fin false 0x1000000 0) = 0 := by decide +kernel
theorem test_ecmp_zero : out (run (.ecmp 3 1 2) (with_ [])) 3 = 0 := by decide +kernel
theorem test_eprec_range : (run (.eprec false 3 1 0) (with_ [(1, 242)])).ctx.cause = 0x030E := by decide +kernel
theorem test_eprec : out (run (.eprec false 3 1 8) (with_ [(1, 32)])) 3 = 0x18 ∧
    (run (.eprec false 3 1 8) (with_ [(1, 32)])).ctx.precP = 40 := by decide +kernel

/-! ## Ports, messages, engines, the press and events -/

/-- A bound channel of graph 1, empty. -/
def chanOf (src dst : ChanEnd) : Channel where
  bound := true
  graph := 1
  src := src
  dst := dst
  depth := 8
  cons := 1
  prod := 1
  prio := 0
  vec := false
  seng := none
  deng := none
  held := []
  flight := []
  limited := false
  queue := []
  free := 8
  owed := 0
  credits := []
  sent := 0
  dent := 0
  past := 0
  creditsPast := 0
  circuit := none
  rind := none

/-- A word token. -/
def tokenOf (x : Nat) (code : BitVec 3) : Token := ⟨BitVec.ofNat 512 x, 0, code⟩

/-- Graph 1, running on core 0 with context 0 as its actor 0. -/
def graph1 : Graph where
  num := 1
  st := .running
  pager := true
  root := some 0x400000
  actors := [⟨0, 0⟩]
  cores := [0]
  windows := []
  launched := 1
  cap := none
  ended := 0
  edit := none
  digest := 0
  data := []
  writes := []
  groups := []
  moved := false
  resuming := false

/-- Context 0 with input port 0 on channel 0 and output port 0 on channel 1, one token left of each. -/
def ported (c : Context) : Context := { c with
  inPort := setV c.inPort (0 : BitVec 4) (some 0)
  outPort := setV c.outPort (0 : BitVec 4) (some 1)
  consRem := setV c.consRem (0 : BitVec 4) 1
  prodRem := setV c.prodRem (0 : BitVec 4) 1 }

/-- The small machine with graph 1 and its two channels, tokens `q` in the input's queue. -/
def fabric (c : Context) (q : List Token) : State := { demo (ported c) with
  graphs := [graph1]
  chans := [{ chanOf (.port 16 0 0) (.port 0 0 0) with queue := q }, chanOf (.port 0 0 0) (.port 16 0 0)] }

/-- The same with a TLB entry that gives the lowest level-1 page of graph 1's space to the page at wafer address `at_`. -/
def paged (c : Context) (at_ : Nat) : State :=
  (fabric c []).modCur fun k => { k with tlb := [⟨1, 0, 3, at_, true, true, true⟩] }

theorem test_pin : out (run (.pin 3 0) (fabric ctx0 [tokenOf 9 4])) 3 = 9 ∧
    (run (.pin 3 0) (fabric ctx0 [tokenOf 9 4])).ctx.status = 8 ∧
    (run (.pin 3 0) (fabric ctx0 [tokenOf 9 4])).chans[0]?.map (fun c => (c.queue, c.owed)) = some ([], 1) := by decide +kernel
theorem test_pin_unbound : (run (.pin 3 1) (fabric ctx0 [])).ctx.cause = 0x010106 := by decide +kernel
theorem test_pout : (run (.pout 0 1 false) (fabric (regs [(1, 7)] ctx0) [])).chans[1]?.map (fun c => c.held) =
    some [⟨tokenOf 7 0, [], none⟩] := by decide +kernel
theorem test_done_discards : (run .done (fabric ctx0 [tokenOf 9 0])).chans.map (fun c => (c.queue, c.held.length)) =
    [([], 0), ([], 1)] := by decide +kernel
theorem test_snd_tag : (run (.sndCurd 3 1 2 false) (fabric (regs [(1, 0x4000000), (2, 5)] ctx0) [])).net.map (fun m => (m.dst, m.body)) =
    [(1, .request 0 0x60 5)] := by decide +kernel
theorem test_snd_absent : (run (.sndCurd 3 1 2 false) (fabric (regs [(1, 0x400000000000)] ctx0) [])).ctx.cause = 0x010F01 := by
  decide +kernel
theorem test_fld_sent : (run (.fld 3 1 2 false 6) (paged (regs [(1, 8), (2, 16)] ctx0) 0x4000000)).net.map (fun m => (m.dst, m.body)) =
    [(1, .load 0x4000018 8 true 3)] := by decide +kernel
theorem test_fld_miss : (run (.fld 3 1 2 false 6) (fabric (regs [(1, 8), (2, 16)] ctx0) [])).ctx.park = .miss 0 := by decide +kernel
theorem test_amo_old :
    (run (.ownerPortAccess 0) { (fabric ctx0 []) with
      mem := [(0x4000018, 5)]
      net := [⟨0, 0, 1, 0, 1, false, false, [], none, none, 0, false, .amo .add 0x4000018 8 3 0 2⟩] }).mem = [(0x4000018, 8)] := by
  decide +kernel
theorem test_reply : out (run (.replyArrival 0) { (fabric { ctx0.markEmpty 2 with awaits := [.read 2 7] } []) with
      net := [⟨0, 1, 0, 0, 1, false, false, [], none, none, 0, false, .readReply 2 7 6⟩] }) 2 = 6 := by decide +kernel
theorem test_fence : (run (.fenceVis 3 4) (fabric ctx0 [])).ctx.isFull 3 = false := by decide +kernel
theorem test_tshp : (run (.tshp 0 1 false) (with_ [(1, 0x1008)])).cur.shape 0 = 0x1008 := by decide +kernel
theorem test_tshp_rows : (run (.tshp 0 1 false) (with_ [(1, 0x1041)])).ctx.cause = 0x030E := by decide +kernel
theorem test_tile_unconfigured : (run (.tclr 1) (with_ [])).ctx.cause = 0x01000D := by decide +kernel
theorem test_pstatus : out (run (.pstatus 3) (with_ [])) 3 = 0 := by decide +kernel
theorem test_vrun_empty : (run (.vrun 16 0 false) (with_ [])).ctx.cause = 0x1101 := by decide +kernel
theorem test_sgo_closed : (run (.sgo 3 1) (with_ [])).ctx.cause = 0x011201 := by decide +kernel
theorem test_sstat : out (run (.sstat 3 2) (with_ [])) 3 = 2 := by decide +kernel
theorem test_injection : (run (.tokenInjection 1) { (fabric ctx0 []) with
      chans := [chanOf (.port 16 0 0) (.port 0 0 0), { chanOf (.port 0 0 0) (.port 16 0 0) with held := [⟨tokenOf 7 0, [], none⟩] }] }).chans[1]?.map
    (fun c => (c.held, c.flight)) = some ([], [tokenOf 7 0]) := by decide +kernel
theorem test_credit : (run (.creditReturn 0) { (fabric ctx0 []) with
      chans := [{ chanOf (.port 16 0 0) (.port 0 0 0) with owed := 300 }] }).chans.map (fun c => (c.owed, c.credits)) = [(45, [255])] := by
  decide +kernel
theorem test_selection : (run (.selection 0) ((fabric { ctx0 with firing := false } [tokenOf 9 0]).modCur fun k =>
    { k with turn := false })).ctx.firing = true ∧ (run (.selection 0) ((fabric { ctx0 with firing := false } [tokenOf 9 0]).modCur fun k =>
    { k with turn := false })).chans.map (fun c => c.free) = [8, 7] := by decide +kernel
theorem test_launch_unknown : (run (.launch 9 1) (fabric ctx0 [])).module.reqstat = 0x0202 := by decide +kernel
theorem test_launch : (run (.launch 1 3) (fabric ctx0 [])).graphs.map (fun g => g.launched) = [4] := by decide +kernel
theorem test_power_fault : (run (.powerFault 499) (fabric ctx0 [])).graphs.map (fun g => g.st) = [.halted] ∧
    (run (.powerFault 499) (fabric ctx0 [])).module.mst = .off := by decide +kernel
theorem test_unhandled : (run (.trap 5) (fabric { ctx0 with status := 1 } [])).graphs.map (fun g => g.st) = [.halted] := by
  decide +kernel
theorem test_wave : ((run (.waveCountReached 3) { (fabric ctx0 []) with
      module := { State.reset.module with change := some ⟨5, some 4096, [], false⟩ } }).field 3).step = 5 := by decide +kernel

theorem test_step_all_zero : (match step (fabric ctx0 []) with
    | .next t => t.ctx.cause
    | _ => 0) = 0x0101 := by decide +kernel
theorem test_step_runs : (match step (State.reset.withFetchWord 32 0x25000007) with
    | .next t => t.ctx.readS 16
    | _ => 0) = 7 := by decide +kernel

/-! ## Witnesses: states and operands that meet the hypotheses of each obligation, at boundaries of its clauses -/

theorem witness_reset_inv : State.reset.Inv := ⟨by decide, by decide⟩

theorem witness_IntegerAndImmediateForms : (with_ [(1, -1)]).Full [1, 2] ∧ (with_ [(1, -1)]).Full [3] ∧ (1 : Reg).toNat = 1 ∧
    (30 : Reg).toNat = 30 ∧ (demo { ctx0 with chain := { Chain.empty with ext := some 1 } }).ctx.chain.ext = some 1 := by
  unfold State.Full; decide +kernel

theorem witness_Divisions : (with_ [(1, -7)]).Full [1, 2] ∧ (with_ [(1, -7)]).ctx.readS 2 = 0 ∧
    (with_ [(1, 0x8000000000000000), (2, -1)]).Full [1, 2] ∧ (with_ [(1, 0x8000000000000000), (2, -1)]).ctx.readS 2 =
      0xFFFFFFFFFFFFFFFF ∧ 1 ≤ (30 : Reg).toNat ∧ (30 : Reg).toNat ≤ 30 := by
  unfold State.Full; decide +kernel

theorem witness_BitForms : (with_ [(1, 0xF0), (2, 0x7F3F)]).Full [3, 1, 2] ∧
    min (((with_ [(1, 0xF0), (2, 0x7F3F)]).ctx.readS 2).toNat / 256 % 128)
      (64 - ((with_ [(1, 0xF0), (2, 0x7F3F)]).ctx.readS 2).toNat % 64) = 1 := by
  unfold State.Full; decide +kernel

theorem witness_ScalarRegisters : scalarSources (.add 3 1 2 false) = some (false, [1, 2]) ∧
    (demo (ctx0.markEmpty 2)).FirstEmpty [1, 2] 2 ∧ scalarSources (.add 3 1 2 true) = some (true, [1, 2]) := by
  unfold State.FirstEmpty; decide +kernel

theorem witness_RegisterOnlyFrame : registerOnly (.add 3 1 2 false) = true ∧
    exec (.add 3 1 2 false) (with_ []) = .next (run (.add 3 1 2 false) (with_ [])) ∧
    registerOnly (.fcvtSF 1 2) = true ∧ exec (.fcvtSF 1 2) (with_ []) = .next (run (.fcvtSF 1 2) (with_ [])) := by
  refine ⟨by decide, rfl, by decide, rfl⟩

theorem witness_ScaleForms : (with_ [(1, 5)]).Full [1] ∧ f32 0x7FC00000 = .nan ∧ f32 0x3F800000 ≠ .nan ∧
    ExNum.cmp (f32 0x3F800000) (f32 0x40000000) = -1 ∧ ExNum.cmp (f32 0x40000000) (f32 0x3F800000) = 1 ∧
    ExNum.cmp (f32 0x80000000) (f32 0) = 0 := by
  unfold State.Full; decide +kernel

/-- 5, 6 and 7 quarters lie below, at and above a half. -/
theorem witness_Rounding : (2 : Int) = 0 + (2 : Nat) ∧ (0 < 5 % 2 ^ 2 ∧ 2 * (5 % 2 ^ 2) < 2 ^ 2) ∧ 2 * (6 % 2 ^ 2) = 2 ^ 2 ∧
    2 ^ 2 < 2 * (7 % 2 ^ 2) ∧ (0x7FC00001 : BitVec 32).extractLsb' 23 8 = 0xFF ∧
    (0x7FC00001 : BitVec 32).extractLsb' 0 23 ≠ 0 := by decide

theorem witness_Branches : (with_ [(1, 1)]).Full [1, 2] ∧ (with_ [(1, 1)]).ctx.readS 1 = 1 ∧ (with_ [(1, 1)]).ctx.readS 1 ≠
      (with_ [(1, 1)]).ctx.readS 2 ∧ (with_ [(1, 1)]).ctx.word.toNat + 1 ≠ wordCount (with_ [(1, 1)]).runHeader ∧
    (demo { ctx0 with word := 63 }).ctx.word.toNat + 1 = wordCount (demo { ctx0 with word := 63 }).runHeader := by
  unfold State.Full; decide +kernel

theorem witness_BlockTransfers : (with_ []).Enterable 1 0xFE0D0001 0 ∧ (with_ []).Enterable 1 0xFE0D0001 63 ∧
    (with_ []).ctx.blockAt 2 = none ∧ (with_ [(1, 0xBF)]).Full [1] ∧
    (((with_ [(1, 0xBF)]).ctx.readS 1).extractLsb' 0 7).toNat < wordCount 0xFE0D0001 ∧
    ((with_ [(1, 0xBF)]).ctx.readS 1).extractLsb' 7 16 = 1 ∧
    wordCount 0xFE0D0001 ≤ (((with_ [(1, 0xC0)]).ctx.readS 1).extractLsb' 0 7).toNat ∧
    2 ^ 23 ≤ ((with_ [(1, 0x800000)]).ctx.readS 1).toNat := by
  unfold State.Full State.Enterable; decide +kernel

theorem witness_TrapReady : (with_ []).TrapReady ∧ (with_ []).ctx.inTrap = false :=
  ⟨⟨by decide +kernel, 0xFE0D0001, by decide +kernel, by decide +kernel, by decide +kernel⟩, by decide +kernel⟩

theorem witness_Traps : (demo { ctx0 with status := 1 }).ctx.inTrap = true ∧ ¬ (demo { ctx0 with tvec := 1 }).TrapReady ∧
    (demo { ctx0 with status := 1, epc := 0x1003F }).Enterable 1 0xFE0D0001 63 ∧
    (demo { ctx0 with status := 1, epc := 0x20000 }).ctx.blockAt 2 = none := by
  refine ⟨by decide +kernel, fun h => absurd h.1 (by decide +kernel), ?_, by decide +kernel⟩
  unfold State.Enterable; decide +kernel

/-- A machine with a barrier of graph 1 over core 0. -/
def barred (here : Bool) : State := { (fabric ctx0 []) with
  cores := [(0, { core0 (ported ctx0) with arrive := setV Core.reset.arrive (7 : BitVec 3) here })]
  barriers := [⟨true, 1, 7, true, 0, [0], [], 0, []⟩] }

theorem witness_SystemAndDone : (∃ x ∈ (barred false).barriers, x.bound = true ∧ x.ident = BitVec.ofNat 3 (7 : Reg).toNat ∧
      (barred false).focus ∈ x.members) ∧
    (∀ x ∈ (barred false).barriers, x.bound = true → x.ident = BitVec.ofNat 3 (0 : Reg).toNat → (barred false).focus ∉ x.members) ∧
    (fabric ctx0 []).ctx.endFiring = false ∧
    ((fabric ctx0 []).inChan (fabric ctx0 []).ctx 0).map (fun x => (x.1, x.2.deng)) = some (0, none) ∧
    ((fabric ctx0 []).outChan (fabric ctx0 []).ctx 0).map (fun x => (x.1, x.2.seng)) = some (1, none) := by decide +kernel

theorem witness_done_alone (q : BitVec 4) (m : Nat) (x : Channel) :
    ((fabric ctx0 []).inChan (fabric ctx0 []).ctx q = some (m, x) → m = 0 → q = 0) ∧
    ((fabric ctx0 []).outChan (fabric ctx0 []).ctx q = some (m, x) → m ≠ 0) := by
  have h : ∀ q : BitVec 4, ((fabric ctx0 []).inChan (fabric ctx0 []).ctx q).isSome = true → q = 0 := by decide +kernel
  have k : ∀ q : BitVec 4, ((fabric ctx0 []).outChan (fabric ctx0 []).ctx q).map (fun y => y.1) ≠ some 0 := by decide +kernel
  exact ⟨fun e _ => h q (by rw [e]; rfl), fun e hm => k q (by rw [e, hm]; rfl)⟩

theorem witness_ControlRead : (with_ []).present (with_ []).focus = true := by decide +kernel

theorem witness_ControlWrite : (with_ []).Full [1] ∧ (0xFFFFFF : Word).toNat < 2 ^ 24 ∧ (0x3F : Word).extractLsb' 6 10 = 0 ∧
    (0x1FFFF : Word).toNat < 2 ^ 17 ∧ ladderOk 0x108 = true ∧ (0xFFFFFFFFFFFFFF : Word).toNat < 2 ^ 56 ∧
    ((0xFA1718 : Word).extractLsb' 0 8).toNat = (with_ []).ctx.precP ∧ ((0xFA1718 : Word).extractLsb' 8 8).toNat < (with_ []).ctx.precP ∧
    ((0xFA1718 : Word).extractLsb' 17 3).toNat ≤ 5 ∧ 1 ≤ ((0x0110 : Word).extractLsb' 0 5).toNat ∧
    ((0x0110 : Word).extractLsb' 0 5).toNat ≤ 16 ∧ 1 ≤ ((0x0110 : Word).extractLsb' 8 5).toNat ∧ (0x0110 : Word).extractLsb' 5 3 = 0 := by
  unfold State.Full; decide +kernel

theorem witness_ControlWriteRefusals : (with_ []).Full [2, 1] ∧ 2 ^ 24 ≤ (0x1000000 : Word).toNat ∧ (0x40 : Word).extractLsb' 6 10 ≠ 0 ∧
    2 ^ 17 ≤ (0x20000 : Word).toNat ∧ 2 ^ 13 ≤ (0x2000 : Word).toNat ∧ 2 ^ 42 ≤ (0x40000000000 : Word).toNat ∧
    2 ^ 56 ≤ (0x100000000000000 : Word).toNat ∧ ladderOk 0 = false ∧ 16 < ((0x111 : Word).extractLsb' 0 5).toNat ∧
    241 < ((242 : Word).extractLsb' 0 8).toNat ∧
    ({ with_ [] with mem := [(2 ^ 47 + 2, 0x8C), (2 ^ 47 + 3, 0xFC)] }).header 0 ctx0 0 = some 0xFC8C0000 ∧
    ((0xFC8C0000 : IWord).extractLsb' 23 3).toNat = 1 ∧ 1 < (50 + 15 + 63) / 64 := by
  unfold State.Full; decide +kernel

/-- The scratchpad of the small machine holds the offsets 16384 to 49151. -/
theorem witness_PoolLoadAndTraps : (with_ []).Full [2, 1] ∧ (with_ []).cur.scratchLo = 16384 ∧ (with_ []).cur.scratchHi = 49152 ∧
    (with_ []).cur.scratchLo ≤ 49144 ∧ 49144 + 8 ≤ (with_ []).cur.scratchHi ∧ 49144 % 8 = 0 ∧ 49145 % 8 ≠ 0 ∧
    16376 < (with_ []).cur.scratchLo ∧ (with_ []).cur.scratchHi < 49152 + 8 := by
  unfold State.Full; decide +kernel

theorem witness_PoolStores : (with_ [(1, 49144)]).Full [2, 1] ∧ Memory.wf (with_ [(1, 49144)]).mem = true ∧
    (with_ [(1, 49144)]).focus < 2 ^ 21 ∧
    exec (.st false 2 1 3 0) (with_ [(1, 49144)]) = .next (run (.st false 2 1 3 0) (with_ [(1, 49144)])) := by
  refine ⟨by unfold State.Full; decide +kernel, by decide +kernel, by decide, rfl⟩

theorem witness_Ports : ((fabric ctx0 [tokenOf 9 0]).inChan (fabric ctx0 [tokenOf 9 0]).ctx 0).map
      (fun x => (x.1, x.2.deng, x.2.vec, x.2.queue)) = some (0, none, false, [tokenOf 9 0]) ∧
    getV (fabric ctx0 []).ctx.consRem (0 : BitVec 4) ≠ 0 ∧ getV (fabric ctx0 []).ctx.prodRem (0 : BitVec 4) ≠ 0 ∧
    ((fabric ctx0 []).outChan (fabric ctx0 []).ctx 0).map (fun x => (x.1, x.2.seng, x.2.vec, x.2.free)) = some (1, none, false, 8) ∧
    (fabric ctx0 []).inChan (fabric ctx0 []).ctx 15 = none ∧ (fabric ctx0 []).outChan (fabric ctx0 []).ctx 15 = none ∧
    (15 : Reg).toNat < 16 ∧ getV (with_ []).ctx.consRem (0 : BitVec 4) = 0 := by decide +kernel

theorem witness_RequestsSent : (fabric (regs [(1, 0x400000F)] ctx0) []).Full [1, 2] ∧ (fabric (regs [(1, 0x400000F)] ctx0) []).Room ∧
    (fabric (regs [(1, 0x400000F)] ctx0) []).focus < 2 ^ 21 ∧ (0x400000F : Word).toNat < 2 ^ 47 ∧ (0x400000F : Word).extractLsb' 4 22 = 0 ∧
    (fabric ctx0 []).present ((0x400000F : Word).extractLsb' 26 21).toNat = true ∧ (0xFF : Word).toNat < 2 ^ 8 ∧
    (0x0000800000000020 : Word).extractLsb' 48 16 = 0 ∧ (0x0000800000000020 : Word).getLsbD 47 = true ∧
    (fabric ctx0 []).queued 0 true < ((fabric ctx0 []).cur.sqlim.extractLsb' 8 5).toNat := by
  unfold State.Full State.Room; decide +kernel

theorem witness_MessageTraps : (fabric ctx0 []).Full [1, 2] ∧ (0x10 : Word).extractLsb' 4 22 ≠ 0 ∧
    (fabric ctx0 []).present ((0x400000000000 : Word).extractLsb' 26 21).toNat = false ∧
    ¬ ((fabric ctx0 []).modCur fun k => { k with sqlim := 0 }).Room ∧ (1 : Word).extractLsb' 0 5 ≠ 0 ∧ 2 ^ 8 ≤ (0x100 : Word).toNat ∧
    (8 : Word).toNat % 8 = 0 ∧ 2 ^ 54 ≤ (0x40000000000000 : Word).toNat ∧ (fabric ctx0 []).ctx.walked = none ∧
    (fabric ctx0 []).xlate 0 (fabric ctx0 []).ctx.graph 8 true false = .miss ∧
    (paged ctx0 (2 ^ 47 + 16 * 2 ^ 26)).xlate 0 1 8 true false = .ok (2 ^ 47 + 16 * 2 ^ 26 + 8) ∧
    addrPool (2 ^ 47 + 16 * 2 ^ 26 + 8) = true ∧ addrCore (2 ^ 47 + 16 * 2 ^ 26 + 8) / 16 ≠ 0 := by
  unfold State.Full State.Room; decide +kernel

theorem witness_FarAccessAndAtomics : (paged ctx0 0x4000000).Full [3, 1, 2] ∧ (paged ctx0 0x4000000).Room ∧
    (paged ctx0 0x4000000).Reaches 0x3FFF8 true false 0x403FFF8 ∧ (paged ctx0 0x4000000).Reaches 0 true true 0x4000000 ∧
    (paged ctx0 (2 ^ 47 + 15 * 2 ^ 26)).Reaches 0 false true (2 ^ 47 + 15 * 2 ^ 26) := by
  unfold State.Full State.Room State.Reaches; decide +kernel

/-- The small machine with a two-step descriptor at pool offset 16384: +8 to a pointer, then 8 bytes at it. -/
def chasing (c : Context) : State := { (paged c 0x4000000) with
  mem := blocks ++ [(2 ^ 47 + 16385, 8), (2 ^ 47 + 16388, 8)] }

theorem witness_OcallChaseFence : (chasing (regs [(2, 16384)] ctx0)).Full [1, 2] ∧ (chasing ctx0).Room ∧
    (chasing ctx0).Reaches 0 false true 0x4000000 ∧ addrPool 0x4000000 = false ∧ (chasing ctx0).chasesOut 0 < 8 ∧
    (chasing ctx0).cur.inScratch 16384 65 = true ∧ stepsInUse ((chasing ctx0).descriptor 16384) = some [0x800, 8] ∧
    stepsValid [0x800, 8] = true ∧ (chasing ctx0).Reaches 8 true false 0x4000008 ∧ (4 : BitVec 3).toNat ≤ 4 := by
  unfold State.Full State.Room State.Reaches; decide +kernel

/-- The small machine with headers at handlers 0 and 1: handler 1 with WIN 5, then with WIN 1 and a precision that two words
hold. -/
theorem witness_EntryTraps : ({ with_ [] with mem := [(2 ^ 47 + 512, 1), (2 ^ 47 + 514, 0x80), (2 ^ 47 + 515, 0xFE)] }).header 0 ctx0 1 =
      some 0xFE800001 ∧ 5 ≤ ((0xFE800001 : IWord).extractLsb' 23 3).toNat ∧ (0xFE800001 : IWord).extractLsb' 0 16 = 1 ∧
    ({ demo { ctx0 with prec := 50 } with mem := [(2 ^ 47 + 512, 1), (2 ^ 47 + 514, 0x80), (2 ^ 47 + 515, 0xFC)] }).header 0 ctx0 1 =
      some 0xFC800001 ∧ ((0xFC800001 : IWord).extractLsb' 23 3).toNat = 1 ∧ 1 < (50 + 78) / 64 ∧ 0 < wordCount 0xFC800001 := by
  decide +kernel

/-- Context 0 ends an invocation whose marker is at the head of its input, then with its output an engine end. -/
def ending (q : List Token) (g : Option Nat) (free : Nat) : State := { (fabric { ctx0 with endFiring := true } q) with
  chans := [{ chanOf (.port 16 0 0) (.port 0 0 0) with queue := q }, { chanOf (.port 0 0 0) (.port 16 0 0) with seng := g, free := free }] }

theorem witness_done_last : (ending [tokenOf 1 0, tokenOf 0 5] none 8).ctx.endFiring = true ∧
    (ending [tokenOf 1 0, tokenOf 0 5] none 8).engineOutputsFull (ending [tokenOf 1 0, tokenOf 0 5] none 8).ctx = false ∧
    (chanOf (.port 16 0 0) (.port 0 0 0)).isStatic = true ∧ ([tokenOf 1 0, tokenOf 0 5].drop 1).map (·.code) = [5] ∧
    (getV (ending [tokenOf 1 0, tokenOf 0 5] none 8).ctx.consRem (0 : BitVec 4)).toNat = 1 ∧
    (ending [] (some 0) 0).engineOutputsFull (ending [] (some 0) 0).ctx = true ∧
    (ending [] (some 0) 1).engineOutputsFull (ending [] (some 0) 1).ctx = false := by decide +kernel

/-- PREC is at 24: a lower and a higher precision that the window of four words holds. -/
theorem witness_precision_change : (0xF00810 : Word).toNat < 2 ^ 24 ∧ ((0xF00810 : Word).extractLsb' 0 8).toNat = 16 ∧ ctx0.precP = 24 ∧
    ((0xF00810 : Word).extractLsb' 8 8).toNat < 16 ∧ ((0xF00810 : Word).extractLsb' 17 3).toNat ≤ 5 ∧
    ((with_ []).runHeader.extractLsb' 23 3).toNat = 4 ∧ (16 + 78) / 64 ≤ 4 ∧ ((0x0B08B1 : Word).extractLsb' 0 8).toNat = 177 ∧
    (177 + 78) / 64 ≤ 4 ∧ ((0x0B08B1 : Word).extractLsb' 17 3).toNat = 5 ∧ 5 < ((0x0D08B1 : Word).extractLsb' 17 3).toNat := by
  decide +kernel

theorem witness_shape_refusals : (with_ []).NoCopies ∧ ((with_ []).saveHeader 0 (with_ []).who 7).getLsbD 62 = false ∧
    (0x80 : Word).getLsbD 7 = true ∧ ((0x41 : Word).extractLsb' 0 7).toNat = 65 ∧ ((0x8101 : Word).extractLsb' 8 8).toNat = 129 ∧
    ((0x0101 : Word).extractLsb' 0 7).toNat = 1 ∧ ((with_ []).cur.partn.extractLsb' 18 6).toNat * 16384 = (1 + 1) * 32768 := by
  unfold State.NoCopies; decide +kernel

/-- Refusals of an access: a leaf without the permission, a graph without a root, a page that a walk found at fault, the pool
of a core of another cluster, DRAM alone. -/
theorem witness_AccessTraps : (1 : Word).toNat % 8 ≠ 0 ∧ (0x40000000000000 : Word).toNat % 8 = 0 ∧
    ({ (fabric { ctx0 with walked := some (8, 5) } []) with graphs := [{ graph1 with root := none }] }).ctx.walked = some (8, 5) ∧
    (({ (fabric ctx0 []) with graphs := [{ graph1 with root := none }] }).graph? (fabric ctx0 []).ctx.graph).map (fun g : Machine.Graph => g.root) =
      some none ∧
    (match ((fabric ctx0 []).modCur fun k => { k with tlb := [⟨1, 0, 3, 0x400000000000, true, true, true⟩] }).xlate 0 1 8 true false with
      | .fault _ => true
      | _ => false) = true ∧
    (paged ctx0 (2 ^ 47)).xlate 0 1 64 false true = .ok (2 ^ 47 + 64) ∧ addrPool (2 ^ 47 + 64) = true ∧
    addrCore (2 ^ 47 + 64) / 16 = (paged ctx0 (2 ^ 47)).focus / 16 := by decide +kernel

/-- Descriptors that a chase refuses: no last step; a last step with an elastic result at the scratchpad's end. -/
theorem witness_descriptor : (chasing ctx0).cur.inScratch 49120 32 = true ∧ (chasing ctx0).cur.inScratch 49128 32 = false ∧
    (chasing ctx0).cur.inScratch 49120 65 = false ∧ stepsInUse (List.replicate 8 0x800) = none ∧
    stepsInUse [12] = some ([] ++ [12]) ∧ ((12 : BitVec 32).extractLsb' 1 2) = 2 ∧ stepsValid [0x810, 8] = true := by decide +kernel

/-- A load of 8 bytes of core 1's column by context 0 of core 0, at the column port. -/
def loading : Msg := ⟨0, 0, 1, 0, 1, false, false, [], none, none, 0, false, .load 0x4000018 8 true 3⟩

theorem witness_OwnerPort : ({ (fabric ctx0 []) with net := [loading] }).AtPort loading 0x4000018 8 ∧
    Memory.wf (fabric ctx0 []).mem = true ∧
    (∀ i, i < 8 → ∀ j, j < 8 → (fabric ctx0 []).place (0x4000018 + i) = (fabric ctx0 []).place (0x4000018 + j) → i = j) ∧
    ({ (fabric ctx0 []) with net := [{ loading with body := .store 0x403FFFF 1 5 }] }).AtPort { loading with body := .store 0x403FFFF 1 5 }
      0x403FFFF 1 ∧
    ({ (fabric ctx0 []) with net := [{ loading with body := .amo .cas 0x4000000 4 1 2 0 }] }).AtPort
      { loading with body := .amo .cas 0x4000000 4 1 2 0 } 0x4000000 4 ∧ 4 + 4 ≤ 8 := by
  unfold State.AtPort; decide +kernel

theorem witness_RepliesAndEvents :
    ({ (fabric ctx0 []) with net := [{ loading with dst := 0, src := 1, body := .readReply 3 0 5 }] }).msg? 0 =
      some { loading with dst := 0, src := 1, body := .readReply 3 0 5 } ∧
    (fabric ctx0 []).linked .word 1 0 = true ∧ ((fabric ctx0 []).ctxAt 0 0).bound = true ∧ ((fabric ctx0 []).ctxAt 0 0).saved = false ∧
    1 ≤ (30 : Reg).toNat ∧
    ({ (fabric ctx0 []) with net := [{ loading with entry := true }] }).atQueueHead { loading with entry := true } = true ∧
    ({ (fabric ctx0 []) with
        chans := [{ chanOf (.service 0 3) (.port 0 0 0) with queue := List.replicate 6 (tokenOf 0 0) }]
        net := [{ loading with dst := 0, src := 1, body := .request 3 0x60 5 }] }).serviceChan (.service 0 3) =
      some (0, { chanOf (.service 0 3) (.port 0 0 0) with queue := List.replicate 6 (tokenOf 0 0) }) ∧
    (List.replicate 6 (tokenOf 0 0)).length + 2 ≤ 8 ∧
    ({ (fabric ctx0 []) with net := [{ loading with dst := 0, src := 1, body := .request 3 0x60 5 }] }).inTurn
      { loading with dst := 0, src := 1, body := .request 3 0x60 5 } = true ∧
    (fabric ctx0 []).fenceMet ⟨0, 0, 0, 3, true, .wafer, []⟩ = true ∧
    (((fabric ctx0 []).modCur fun k => { k with spill := [7], station := List.replicate 15 9 }).core 0).station.length < 16 := by
  decide +kernel

/-- A chase packet in the station of core 1's column port. -/
def hopping (p : ChasePacket) : State := { (fabric ctx0 []) with
  cores := [(0, core0 (ported ctx0)), (1, { Core.reset with station := [0], tlb := [⟨1, 0, 3, 0x8000000, true, true, true⟩] })]
  net := [{ loading with body := .chase p }] }

/-- Its last step reads 8 bytes. -/
def packet : ChasePacket where
  dest := 0x4000018
  steps := [8]
  step := 7
  asn := 1
  va := 0x18
  rcid := 0
  rctx := 0
  rreg := 3
  cseq := 0
  roff := 16416
  waiting := none
  got := []
  asked := false
  later := none

theorem witness_ChaseHop : (hopping packet).msg? 0 = some { loading with body := .chase packet } ∧ loading.entry = false ∧
    (hopping packet).chaseMissing 0 = false ∧ 0 ∈ ((hopping packet).core 1).station ∧ (∀ x ∈ ((hopping packet).core 1).spill, x.1 ≠ 0) ∧
    (hopping packet).spliceAt packet.dest = none ∧ (hopping packet).portAt packet.dest packet.first 0 0 0 = .open_ ∧
    ((hopping packet).modCore 1 fun k => { k with retrain := .pausing }).portAt packet.dest packet.first 0 0 0 = .wait ∧
    stepLast 8 = true ∧ stepWidth 8 = 0 ∧ stepLast 10 = true ∧ stepWidth 10 = 1 ∧ stepLast 0x800 = false := by decide +kernel

theorem witness_ChaseHop_next :
    (hopping { packet with steps := [0x800, 8], step := 6 }).xlate 1 1 8 true false = .ok 0x8000008 ∧
    (hopping { packet with steps := [0x800, 8], step := 6 }).xlate 1 1 0x40000 true false = .miss ∧
    (match ((hopping packet).modCore 1 fun k => { k with tlb := [⟨1, 0, 3, 0x400000000000, true, true, true⟩] }).xlate 1 1 8 true false with
      | .fault _ => true
      | _ => false) = true ∧ addrPool 0x8000008 = false ∧ addrPool (2 ^ 47) = true ∧ 8 % stepAlign 8 = 0 ∧ 4 % stepAlign 8 ≠ 0 ∧
    -- an elastic result that lies in its 64 bytes, and one that does not
    stepLast 12 = true ∧ stepWidth 12 = 2 ∧ addrCore packet.dest = loading.dst ∧
    ((hopping packet).readByte packet.dest).toNat ≤ 30 ∧ 3 ≤ 64 - packet.va % 64 ∧ 64 - 63 % 64 < 3 ∧
    (hopping packet).portAt packet.dest 3 0 0 0 = .open_ ∧ (hopping packet).portAt 0x400003F 1 0 0 0 = .open_ ∧
    ({ (hopping packet) with mem := [(0x4000018, 31)] }).readByte packet.dest = 31 := by decide +kernel

/-- The walk of hub 0 for the chase, at its last level, whose entry is not valid. -/
def chaseWalk : Walk := ⟨1, 24, true, false, 3, 0x400000, [⟨5, 0, .chase 0, 1, 24, true, false, 0⟩], false⟩

theorem witness_ChaseHop_fault : let s := { (hopping { packet with steps := [0x800, 8], step := 6, waiting := some 24 }) with
      hubs := [(0, { Hub.reset with walks := [chaseWalk] })] }
    (s.hub 0).walks[0]? = some chaseWalk ∧ (s.graph? chaseWalk.asn).map (fun g => g.root) = some (some 0x400000) ∧
      s.present (addrCore chaseWalk.node) = true ∧ s.reachable 0 0x400000 8 = .open_ ∧ s.readLE (s.servedAt 0x400000) 8 % 2 = 0 ∧
      (s.hub 0).queue = [] := by decide +kernel

/-- Eight chases of core 0 on their way. -/
theorem witness_chasesOut : ({ (fabric ctx0 []) with net := List.replicate 8 { loading with body := .chase packet } }).chasesOut 0 = 8 := by
  decide +kernel

/-- A `fmt` prefix pending that puts DFMT in force. -/
def dfmt (f : BitVec 5) : Context := { ctx0 with chain := { Chain.empty with start := some 0, fmt := some (f ++ (0x200 : BitVec 20)) } }

theorem witness_VectorIntegers : (demo (dfmt 0x15)).ctx.chain.dfmt = some 0x15 ∧ (demo (dfmt 0x03)).ctx.chain.dfmt = some 0x03 ∧
    (demo (dfmt 0x04)).ctx.chain.dfmt = some 0x04 ∧ (demo (dfmt 0x14)).ctx.chain.dfmt = some 0x14 ∧
    (with_ []).ctx.chain.dfmt = none := by decide +kernel

theorem witness_VectorFloats : (demo (dfmt 0x0D)).ctx.chain.dfmt.getD 0x0F = 0x0D ∧ (demo (dfmt 0x0E)).ctx.chain.dfmt.getD 0x0F = 0x0E ∧
    (with_ []).ctx.chain.dfmt.getD 0x0F = 0x0F ∧ (0x0F : Reg).toNat ≤ 0x0F ∧
    (demo ((ctx0.writeF 2 5).writeF 3 6)).ctx.readF 2 = 5 ∧ (demo ((ctx0.writeF 2 5).writeF 3 6)).ctx.readF 3 = 6 := by
  decide +kernel

theorem witness_VectorMasks : (with_ []).Full [1] ∧ (7 : BitVec 3) ≠ 0 := by unfold State.Full; decide +kernel

theorem witness_VectorMoves : (with_ [(1, 5)]).Full [1] ∧ (15 : BitVec 4).toNat + (15 : BitVec 4).toNat ≤ 30 := by
  unfold State.Full; decide +kernel

theorem witness_VectorLoads : (with_ [(1, 49088)]).Full [1] ∧ (with_ [(1, 49088)]).ctx.readS 1 = 49088 ∧ 49088 % 64 = 0 ∧
    49088 + 64 ≤ (with_ []).cur.scratchHi ∧ (with_ []).cur.scratchHi < 49152 + 64 ∧ (with_ []).laneOn 0 15 = true ∧
    (∀ j : BitVec 4, (with_ [(1, 16384)]).laneOn 0 j = true →
      (((with_ [(1, 16384)]).ctx.readS 1).toNat + ((with_ [(1, 16384)]).lane 2 j).toNat) % 2 ^ 64 % 4 = 0) ∧
    1023 < ((with_ []).cur.partn.extractLsb' 18 6).toNat * 256 ∧ ((with_ []).cur.partn.extractLsb' 18 6).toNat * 256 ≤ 1024 ∧
    (∀ t : BitVec 3, ((with_ []).cur.shape t).extractLsb' 0 7 = 0) ∧ (0x0E : Reg).toNat ≤ 0x0E := by
  unfold State.Full; decide +kernel

theorem witness_VectorStores : (with_ [(1, 49088)]).Full [1] ∧ Memory.wf (with_ [(1, 49088)]).mem = true ∧
    (with_ [(1, 49088)]).focus < 2 ^ 21 ∧ (with_ [(1, 49088)]).cur.scratchLo ≤ 49088 ∧ 49088 + 64 ≤ (with_ [(1, 49088)]).cur.scratchHi ∧
    1023 < ((with_ []).cur.partn.extractLsb' 18 6).toNat * 256 ∧
    (∀ t : BitVec 3, 64 * t.toNat + (((with_ []).cur.shape t).extractLsb' 0 7).toNat ≤ 1023 / 8 ∨ 1023 / 8 < 64 * t.toNat) := by
  unfold State.Full; decide +kernel

/-- The one-stage word v[3] := v[1] + v[2], and the one that copies input port 0 to output port 0. -/
theorem witness_VectorPasses : (with_ [(1, 49104)]).Full [1] ∧ 49104 % 8 = 0 ∧ 49104 + 48 ≤ (with_ []).cur.scratchHi ∧
    stageOk 0 0 = false ∧ getV (with_ []).cur.banks (15 : BitVec 4) = Vector.replicate 6 0 ∧
    stageOk 0 0x051844841 = false ∧ stageOk 0 (0x400000000 + 1 * 2 ^ 32 + 3 * 2 ^ 27 + 1 * 2 ^ 18 + 2 * 2 ^ 13 + 1 * 2 ^ 11 + 1 * 2 ^ 6 + 1) =
      true ∧
    stageOk 0 (0x400000000 + 2 * 2 ^ 32 + 2 * 2 ^ 11 + 27) = true := by
  unfold State.Full; decide +kernel

/-- Two stages: lane times a constant, then the product of the lane below plus a register; a conversion from port to port. -/
theorem witness_VectorPasses_stages : stageOk 0 (3 + 2 ^ 11 + 3 * 2 ^ 18 + 2 ^ 47 + 5 * 2 ^ 48) = true ∧
    (3 + 2 ^ 11 + 3 * 2 ^ 18 + 2 ^ 47 + 5 * 2 ^ 48 : Word).getLsbD 34 = false ∧
    stageOk 1 (1 + 2 * 2 ^ 13 + 2 ^ 18 + 3 * 2 ^ 27 + 2 ^ 32 + 2 ^ 34 + 2 ^ 45) = true ∧
    stageOk 0 (24 + 2 * 2 ^ 11 + 2 * 2 ^ 32 + 2 ^ 34 + 0x0F * 2 ^ 35) = true ∧ (0x0F : Reg).getLsbD 4 = false := by decide +kernel

/-- The small machine with both its ports on the vector plane. -/
def vectorPorts (q : List Token) : State := { (fabric ctx0 q) with
  chans := [{ chanOf (.port 16 0 0) (.port 0 0 0) with queue := q, vec := true }, { chanOf (.port 0 0 0) (.port 16 0 0) with vec := true }] }

theorem witness_VectorPasses_ports : ((vectorPorts [tokenOf 9 7]).inChan (vectorPorts [tokenOf 9 7]).ctx 0).map
      (fun x => (x.1, x.2.deng, x.2.vec, x.2.queue.map (·.code))) = some (0, none, true, [7]) ∧
    ((vectorPorts []).outChan (vectorPorts []).ctx 0).map (fun x => (x.1, x.2.seng, x.2.vec)) = some (1, none, true) ∧
    getV (vectorPorts []).ctx.consRem (0 : BitVec 4) ≠ 0 ∧ getV (vectorPorts []).ctx.prodRem (0 : BitVec 4) ≠ 0 ∧
    (tokenOf 9 4).code.toNat ≤ 4 ∧ ((0x25 : Lane).extractLsb' 0 3).toNat = 5 ∧ (0x25 : Lane).extractLsb' 4 2 = 2 ∧
    ((0x36 : Lane).extractLsb' 0 3).toNat = 6 ∧ (0x30 : Lane).extractLsb' 4 2 = 3 := by decide +kernel

/-- Context 0 with tile 0 shaped 8 by 16, and with a save image of it. -/
def tiled (c : Context) : State :=
  { ((demo c).modCur fun k => { k with tshape := setV k.tshape (0 : BitVec 3) 0x1008 }) with
    mem := [(0x3BFFC00, 8), (0x3BFFC01, 16), (0x3BFFC07, 0x80)] ++ blocks }

theorem witness_TileForms : (tiled (regs [(1, 0x107)] ctx0)).Full [1, 2] ∧ Memory.wf (tiled ctx0).mem = true ∧ (tiled ctx0).focus < 2 ^ 21 ∧
    (tiled ctx0).OwnTile 0 ∧ (tiled ctx0).NoCopies ∧ (tiled ctx0).cur.tileBusy 0 = false ∧ (0x8040 : Word).getLsbD 7 = false ∧
    ((0x8040 : Word).extractLsb' 0 7).toNat ≤ 64 ∧ ((0x8040 : Word).extractLsb' 8 8).toNat ≤ 128 ∧
    (0 + 1) * 32768 ≤ ((tiled ctx0).cur.partn.extractLsb' 18 6).toNat * 16384 ∧
    (7 : Word).toNat = ((7 : Word).extractLsb' 0 6).toNat + 2 ^ 4 * (16 * ((7 : Word).extractLsb' 8 3).toNat) ∧ 7 < 8 ∧
    (15 : Word).toNat = ((15 : Word).extractLsb' 0 7).toNat + 2 ^ 4 * (16 * ((15 : Word).extractLsb' 8 2).toNat) ∧ 15 < 16 ∧
    (∀ i < 8, ∀ k < 16, (tiled ctx0).cur.scratchLo ≤ (48640 + i * 64 + k * 4) % 2 ^ 64 ∧
      (48640 + i * 64 + k * 4) % 2 ^ 64 + 4 ≤ (tiled ctx0).cur.scratchHi) := by
  unfold State.Full State.OwnTile State.NoImage State.NoCopies; decide +kernel

theorem witness_TileStores : (tiled (regs [(1, 48640), (2, 64)] ctx0)).Full [1, 2] ∧ (tiled ctx0).OwnTile 0 ∧
    (∀ i < 8, ∀ k < 16, (tiled ctx0).cur.scratchLo ≤ 48640 + i * 64 + k * 4 ∧ 48640 + i * 64 + k * 4 + 4 ≤ (tiled ctx0).cur.scratchHi) ∧
    2 ^ 63 ≤ (tiled ctx0).readLE 0x3BFFC00 8 ∧ (tiled ctx0).readLE 0x3BFFC00 8 < 2 ^ 63 + 2 ^ 62 ∧ (tiled ctx0).cur.tileBusy 0 = false ∧
    512 * ((tiled ctx0).readLE 0x3BFFC00 8 % 128) ≤ ((tiled ctx0).cur.partn.extractLsb' 18 6).toNat * 16384 ∧ (with_ []).NoCopies ∧
    ((with_ []).cur.shape 0).extractLsb' 0 7 = 0 ∧ ((with_ []).saveHeader 0 0 0).getLsbD 62 = false := by
  unfold State.Full State.OwnTile State.NoImage State.NoCopies; decide +kernel

theorem witness_tile_places (y : Nat) : (tiled ctx0).place y = y := by
  have h : ∀ n, assocGet (tiled ctx0).tables n = none ∨ assocGet (tiled ctx0).tables n = some Tables.perfect := by
    intro n
    show (if 0 = n then some Tables.perfect else none) = none ∨ (if 0 = n then some Tables.perfect else none) = some Tables.perfect
    split
    · exact .inr rfl
    · exact .inl rfl
  unfold State.place
  rcases h (addrCore y / 65536) with e | e <;> rw [e]
  show Tables.perfect.place y = y
  unfold Tables.place
  split <;> rfl

theorem witness_SaveAreaOpen (n : BitVec 3) : (tiled ctx0).SaveAreaOpen 0 0 n :=
  ⟨by revert n; decide +kernel, rfl, fun y _ => witness_tile_places y⟩

/-- Headers of a save area: an image that does not fit, and none; a slice in and outside the shape. -/
theorem witness_TileStores_traps :
    let s := { (tiled ctx0) with mem := [(0x3BFFC18, 64), (0x3BFFC19, 16), (0x3BFFC1F, 0x80)] ++ blocks }
    2 ^ 63 ≤ s.readLE 0x3BFFC18 8 ∧ s.readLE 0x3BFFC18 8 < 2 ^ 63 + 2 ^ 62 ∧
      (s.cur.partn.extractLsb' 18 6).toNat * 16384 < 32768 * 3 + 512 * (s.readLE 0x3BFFC18 8 % 128) ∧ s.readLE 0x3BFFC08 8 < 2 ^ 62 ∧
      (0x705 : Word) &&& 0xFFFFFFFFFFFFF8C0 = 0 ∧ (0x37F : Word) &&& 0xFFFFFFFFFFFFFC80 = 0 ∧
      ((7 : Word).extractLsb' 0 6).toNat < 8 ∧ ((15 : Word).extractLsb' 0 7).toNat < 16 ∧
      (0x4000 : Word).toNat < 2 ^ 32 ∧ ((0x4000 : Word).extractLsb' 0 20).toNat % 64 = 0 ∧ 16384 + 64 ≤ s.cur.scratchHi := by
  decide +kernel

/-- Rows that lie on each other, the last of which stays; and a save header that a pause of the column keeps back. -/
theorem witness_TileStores_overlap :
    (let at_ := fun i k => (48640 + i * 0 + k * 4) % 2 ^ 64
     ∀ i' < 8, ∀ k' < 16, at_ i' k' = at_ 7 15 → i' < 7 ∨ i' = 7 ∧ k' ≤ 15) ∧
    ((tiled ctx0).modCur fun k => { k with retrain := .pausing }).headerPort 0 (tiled ctx0).who 0 = .wait := by decide +kernel

/-- Integer sets of K = 1: A of 16-bit width 2 at 16384 and B at 16448, both valid. -/
def pressing (n : Nat) : State := (tiled (regs [(1, 0x40004000), (2, 0x4040)] ctx0)).modCur fun k =>
  { k with pressQ := List.replicate n (⟨true, 1, 1, 0, 0, 0, 0x108, 0, 0, 0, 0, 0, 1, 1, false, .queued, 0, 0, 0, false, false, false, false,
    0, 0, 0, false, [], [], [], 0, false⟩ : PressCmd) }

theorem witness_PressIssue : (pressing 3).Full [1, 2] ∧ (pressing 3).NoCopies ∧ (pressing 3).cur.pressQ.length < 4 ∧
    4 ≤ (pressing 4).cur.pressQ.length ∧ (pressing 3).OwnTile 0 ∧ (pressing 3).cur.accBusy 0 = false ∧ (pressing 3).cur.accBusy 1 = true ∧
    (0x40004000 : Word).toNat < 2 ^ 32 ∧ ((0x40004000 : Word).extractLsb' 27 3).toNat ≤ 4 ∧
    ((0x40004000 : Word).extractLsb' 0 20).toNat % 64 = 0 ∧ (0x40004000 : Word).getLsbD 30 = true ∧
    (setGeom (2 ^ 63 + 8 * 2 ^ 43)).gamma = 0 ∧ (setGeom (2 ^ 63 + 2 ^ 62 + 8 * 2 ^ 43)).block = 0 ∧
    (∀ i ≤ ((0x108 : Word).extractLsb' 40 2).toNat, ((0x108 : Word).extractLsb' (10 * i) 5).toNat ≤
      ((2 ^ 63 + 8 * 2 ^ 43 : Word).extractLsb' 43 5).toNat) := by
  unfold State.Full State.OwnTile State.NoImage State.NoCopies; decide +kernel

/-- The small machine with a command that a resumed region has still to put back, and one that a region held keeps. -/
def holding (back : Bool) : State := (pressing 3).modCur fun k =>
  { k with held := (k.pressQ.take 1).map fun q => { q with back := back } }

theorem witness_PressIssue_held : (∃ q ∈ (holding true).cur.held, q.back = true) ∧
    (∀ q ∈ (holding false).cur.held, q.back = false) ∧ (holding false).cur.held ≠ [] := by decide +kernel

theorem witness_MouldForms : mouldRefused (15 * 2 ^ 51 + 8 * 2 ^ 35 + 3 * 2 ^ 30 + 16384 * 2 ^ 10) none = false ∧
    (mouldRefused (15 * 2 ^ 51 + 8 * 2 ^ 35 + 3 * 2 ^ 30 + 16384 * 2 ^ 10 + 2) none = false) ∧ (with_ []).NoCopies ∧
    (with_ []).cur.scratchLo ≤ 16384 ∧
    16384 + (setGeom (mouldHeader (15 * 2 ^ 51 + 8 * 2 ^ 35 + 3 * 2 ^ 30 + 16384 * 2 ^ 10) none)).bytes ≤ (with_ []).cur.scratchHi ∧
    (with_ []).readLE (poolAddr 0 16384) 8 < 2 ^ 63 ∧ 16 % 16 = 0 ∧ 1008 < 64 * 16 ∧ 1008 % 16 = 0 := by
  unfold State.NoCopies; decide +kernel

/-- A press command of core 0's context 0 on tile 0. -/
def command (ph : PressPhase) (rung : Nat) : PressCmd where
  isPmm := true
  ctx := 0
  graph := 1
  dreg := 3
  cmdWord := 0
  bWord := 0
  ladder := 0x10000042108
  budget := 0
  fscale := 0x3F800000
  hdrA := 0
  hdrB := 0
  shape := 0x1008
  tile := 0
  acc := 0
  zt := true
  phase := ph
  rung := rung
  replays := 0
  chkr := 0
  rerun := false
  rst := false
  atk := false
  err := false
  scnt := 0
  ucnt := 0
  ccnt := 0
  bex := false
  snapshot := []
  result := []
  acq := []
  left := 0
  back := false

/-- The small machine with that command first in the press queue. -/
def pressed (p : PressCmd) : State := (tiled ctx0).modCur fun k => { k with pressQ := [p] }

theorem witness_PressEvents : ((pressed (command .queued 0)).core 0).pressQ = [command .queued 0] ∧
    (command .queued 0).cmdWord.getLsbD 25 = false ∧ (command .running 0).rung < ((command .running 0).ladder.extractLsb' 40 2).toNat ∧
    ¬ (command .running 1).rung < ((command .running 1).ladder.extractLsb' 40 2).toNat ∧
    (pressed (command .committing 0)).focus = 0 ∧ Memory.wf (pressed (command .committing 0)).mem = true ∧
    ((command .committing 0).shape.extractLsb' 0 7).toNat ≤ 64 ∧
    (((tiled ctx0).modCur fun k => { k with
      tshape := setV k.tshape (0 : BitVec 3) 0x101008
      ctxs := setV k.ctxs (1 : BitVec 4) { Context.reset 1 with park := .tile (some 0) } }).ctxAt 0 1).park = .tile (some 0) ∧
    ((0x101008 : Word).getLsbD 20 = true) ∧ (0x101008 : Word).extractLsb' 16 4 ≠ (1 : BitVec 4) := by decide +kernel

/-- A command put back by a pre-emption, with no image, and with the image of its tile pending. -/
def restarted (bits : Byte) : State := { (pressed { command .queued 0 with rst := true }) with
  mem := [(0x3BFFC00, 8), (0x3BFFC01, 16), (0x3BFFC07, bits)] ++ blocks }

theorem witness_PressEvents_restart (bits : Byte) : (restarted bits).SaveAreaOpen 0 0 0 := by
  refine ⟨by revert bits; decide +kernel, rfl, fun y _ => ?_⟩
  have h : (restarted bits).tables = (tiled ctx0).tables := rfl
  have g := witness_tile_places y
  unfold State.place at g ⊢
  rw [h]; exact g

theorem witness_PressEvents_images : Memory.wf (restarted 0xC0).mem = true ∧ (restarted 0).readLE 0x3BFFC00 8 % 2 ^ 63 < 2 ^ 62 ∧
    2 ^ 62 ≤ (restarted 0xC0).readLE 0x3BFFC00 8 % 2 ^ 63 ∧ 512 * ((restarted 0xC0).readLE 0x3BFFC00 8 % 128) ≤ ((restarted 0xC0).core 0).accuBytes ∧
    (((restarted 0xC0).core 0).shape 0).getLsbD 20 = false ∧ (command .queued 0).cmdWord.getLsbD 30 = false ∧
    ((fabric ctx0 []).graph? 1).map (fun g => g.st) = some .running ∧ (pressed (command .queued 0)).cur.tileBusy 0 = true ∧
    ((tiled ctx0).ctxAt 0 0).bound = true ∧ ((tiled ctx0).ctxAt 0 0).graph = (command .committing 0).graph ∧
    (command .committing 0).acc = 0 ∧ ((pressed (command .committing 0)).core 0).pressQ.head? = some (command .committing 0) := by
  decide +kernel

theorem witness_PressProducts : (setGeom 0).block = 0 ∧ (setGeom 0).sc = false ∧ (setGeom 0).zp = false ∧ (setGeom 0).group = 0 ∧
    (command .running 0).cmdWord.getLsbD 30 = false ∧ f32 (command .running 0).fscale = .fin false (2 ^ 23) (-23) ∧
    ({ command .running 0 with cmdWord := 0x40000000 }).cmdWord.getLsbD 30 = true ∧
    ((command .running 0).shape.extractLsb' 8 8).toNat ≤ 128 := by decide +kernel

/-- The small machine with engine 0 in a given state and a given word at pool offset 16384. -/
def engined (e : Engine) (c : Context) : State := (fabric c []).modCur fun k => { k with engines := setV k.engines (0 : BitVec 2) e }

theorem witness_EngineForms : (engined Engine.reset (regs [(1, 49080)] ctx0)).Full [1] ∧
    ((engined Engine.reset ctx0).eng 0 0).st = .closed ∧ 49080 % 8 = 0 ∧ 49080 + 72 ≤ (engined Engine.reset ctx0).cur.scratchHi ∧
    (engined Engine.reset ctx0).recordPort (engined Engine.reset ctx0).ctx 0 0 = none ∧
    ((engined { Engine.reset with st := .opened, holder := some 0 } ctx0).eng 0 0).holder = some (engined Engine.reset ctx0).who ∧
    ((engined { Engine.reset with st := .running, holder := some 0 } ctx0).eng 0 0).ending = none ∧
    ((engined Engine.reset ctx0).eng 0 0).holder ≠ some (engined Engine.reset ctx0).who ∧
    ((0x7000000000000000 : Word).extractLsb' 60 4).toNat = 7 ∧ (0x700000000000FFFF : Word).extractLsb' 16 44 = 0 := by
  unfold State.Full; decide +kernel

/-- Commands that `sstop` ends: one that waits for translation, and one that has its end. -/
theorem witness_EngineForms_stop :
    let e : Engine := { Engine.reset with st := .waitXlate, holder := some 0, waitMiss := some 3 }
    ((engined e ctx0).eng 0 0).st = .waitXlate ∧ ((engined e ctx0).eng 0 0).ending = none ∧
      ((engined { e with ending := some (1, 0) } ctx0).eng 0 0).ending ≠ none := by decide +kernel

/-- A completion port that is engine 0's, and one that is no engine's. -/
theorem witness_TransferForms_port :
    ((ending [] (some 0) 8).outChan (ending [] (some 0) 8).ctx ((0x200 : Word).extractLsb' 10 4)).map (fun x => x.2.seng) = some (some 0) ∧
    (0x200 : Word).getLsbD 9 = true ∧ (0x200 : Word).toNat < 2 ^ 14 ∧
    ((fabric ctx0 []).outChan (fabric ctx0 []).ctx ((0x200 : Word).extractLsb' 10 4)).map (fun x => x.2.seng) = some none := by decide +kernel

theorem witness_record : (∃ i, recordFault (Vector.replicate 9 (-1)) = some i) ∧ recordFault ⟨#[0, 0, 0x1EF, 0, 0, 0, 0, 0, 0], rfl⟩ = none := by
  refine ⟨⟨2, by decide +kernel⟩, by decide +kernel⟩

theorem witness_TransferForms : (fabric (regs [(2, 49120)] ctx0) []).Full [2] ∧ (30 : Reg).toNat ≤ 30 ∧ 49120 % 8 = 0 ∧
    49120 + 32 ≤ (fabric ctx0 []).cur.scratchHi ∧ (0x100 : Word).toNat < 2 ^ 14 ∧ ((0x100 : Word).extractLsb' 6 3).toNat ≤ 4 ∧
    (0x100 : Word).getLsbD 9 = false ∧ (0x100 : Word).extractLsb' 0 2 ≠ 1 ∧
    ((fabric ctx0 []).graph? (fabric ctx0 []).ctx.graph).map (fun x => x.pager) = some true ∧
    (with_ []).graph? (with_ []).ctx.graph = none ∧ 255 * 2 ^ 18 + 2 ^ 18 ≤ 2 ^ 26 := by
  unfold State.Full; decide +kernel

/-- A running copy of 33 bytes with 32 of them done. -/
def copying : Engine := { Engine.reset with
  st := .running, holder := some 0, cmd := .copy, desc := ⟨#[16384, 49119, 33, 0], rfl⟩, idx := 32, elems := 32 }

theorem witness_EngineEvents : (engined copying ctx0).EngineGoes 0 0 ∧ ((engined copying ctx0).eng 0 0).boundary = false ∧
    ((engined copying ctx0).eng 0 0).idx < 33 ∧ 49119 + 32 + 1 ≤ ((engined copying ctx0).core 0).scratchHi ∧
    (engined { copying with cmd := .fill, boundary := true } ctx0).EngineGoes 0 0 ∧
    (engined { copying with ending := some (0, 0) } ctx0).eng 0 0 = { copying with ending := some (0, 0) } := by
  refine ⟨?_, by decide +kernel, by decide +kernel, by decide +kernel, ?_, by decide +kernel⟩
  all_goals exact ⟨.inl (by decide +kernel), by decide +kernel, by decide +kernel, by decide +kernel, graph1, by decide +kernel, rfl⟩

/-- A stream of FP32 elements: the last of its one round. -/
theorem witness_EngineEvents_stream :
    let e : Engine := { copying with cmd := .stream, idx := 0, record := ⟨#[16384, 49148, 0x100000000001EF, 0, 0, 0, 0, 0, 0], rfl⟩ }
    (engined e ctx0).EngineGoes 0 0 ∧ e.record[2].extractLsb' 0 5 = 0x0F ∧ e.record[2].extractLsb' 5 5 = 0x0F ∧
      e.record[2].extractLsb' 16 4 = 0 ∧ e.record[2].getLsbD 15 = false ∧ 49148 + 4 ≤ ((engined e ctx0).core 0).scratchHi := by
  refine ⟨⟨.inl (by decide +kernel), by decide +kernel, by decide +kernel, by decide +kernel, graph1, by decide +kernel, rfl⟩, ?_⟩
  decide +kernel

/-- Accesses in pieces part of the way: a beat of a copy, an element of four bytes read and one written byte by byte; an end that
nothing keeps back. -/
theorem witness_EngineEvents_pieces :
    let c : Engine := { copying with idx := 0, raw := [7], runs := [(poolAddr 0 (16384 + 1), 31)] }
    let e : Engine := { copying with cmd := .stream, idx := 0, record := ⟨#[16385, 49101, 0x100000000001EF, 0, 0, 0, 0, 0, 0], rfl⟩ }
    c.raw ≠ [] ∧ c.raw.length < min (32 - (16384 + 0) % 32) (33 - 0) ∧ c.runs = [(poolAddr 0 (16384 + 0 + 1), 32 - 1)] ∧
      16384 + 0 + 32 ≤ ((engined c ctx0).core 0).scratchHi ∧
      ((engined { e with part := [1], runs := [(poolAddr 0 16386, 3)] } ctx0).eng 0 0).part.length = 1 ∧ 16385 % 4 ≠ 0 ∧
      ((engined { e with got := [5], runs := [(poolAddr 0 49102, 3)] } ctx0).eng 0 0).got = [5] ∧
      ({ e with ending := some (0, 0) } : Engine).inside = false := by decide +kernel

/-- A copy part of whose beat is read, then all of it, and a stream whose element is read. -/
theorem witness_EngineEvents_phases :
    ({ copying with raw := [7] }.raw.length < min 32 (33 - 0)) ∧ ({ copying with got := [7] }.got ≠ []) ∧
    (engined { copying with got := [7] } ctx0).EngineGoes 0 0 ∧ 16384 ≤ 49119 + 32 ∧
    49119 + 32 + 1 ≤ ((engined { copying with got := [7] } ctx0).core 0).scratchHi := by
  refine ⟨by decide, by decide, ⟨.inl (by decide +kernel), by decide +kernel, by decide +kernel, by decide +kernel, graph1, by decide +kernel, rfl⟩, ?_⟩
  decide +kernel

/-- Elastic registers of value 1 (e1) and of the same value with the least bit of P = 24 changed (e2). -/
theorem witness_ElasticArithmetic : 2 ≤ (241 : Nat) ∧ (3 : Nat) ≠ 0 ∧ (-16382 : Int) ≤ (3 : Nat).log2 + -16383 ∧
    ((3 : Nat).log2 : Int) + -16384 < -16382 ∧ (16383 : Int) < (3 : Nat).log2 + 16383 ∧
    (demo { ctx0 with prec := 0x10018 }).ctx.prec.getLsbD 16 = true ∧ (with_ []).ctx.prec.getLsbD 16 = false := by decide +kernel

theorem witness_ElasticConversions : (with_ [(1, 24)]).Full [1] ∧ 1 ≤ (241 : BitVec 10).toNat ∧ 241 < (242 : BitVec 10).toNat ∧
    ((24 : Word).extractLsb' 0 8 + (0xE8 : BitVec 8)).toNat = 0 ∧ ((24 : Word).extractLsb' 0 8 + (217 : BitVec 8)).toNat = 241 ∧
    ((24 : Word).extractLsb' 0 8 + (0 : BitVec 8)).toNat = (with_ []).ctx.precP ∧
    ((with_ []).runHeader.extractLsb' 23 3).toNat = 4 ∧ (241 + 78) / 64 = 4 ∧
    ({ with_ [] with mem := [(2 ^ 47 + 2, 0x8C), (2 ^ 47 + 3, 0xFC)] }).runHeader.extractLsb' 23 3 = 1 := by
  unfold State.Full; decide +kernel

theorem witness_ElasticMemory : (with_ [(1, 49149)]).Full [1] ∧ Memory.wf (with_ [(1, 49149)]).mem = true ∧
    (with_ [(1, 49149)]).focus < 2 ^ 21 ∧ ((with_ [(1, 49149)]).readByte (poolAddr 0 49149)).toNat = 0 ∧
    49149 + 3 ≤ (with_ []).cur.scratchHi ∧ (efmStore 31 0 0 (0 : Ereg)).1.length = 3 ∧ 49151 < (with_ []).cur.scratchHi ∧
    (with_ []).cur.scratchHi < 49151 + 3 ∧ (with_ []).cur.scratchHi ≤ 49152 ∧ 16383 < (with_ []).cur.scratchLo := by
  unfold State.Full; decide +kernel

/-- The small machine with its input channel changed. -/
def channelled (c : Channel) : State := { (fabric ctx0 []) with chans := [c, chanOf (.port 0 0 0) (.port 16 0 0)] }

/-- The input channel. -/
def inward : Channel := chanOf (.port 16 0 0) (.port 0 0 0)

theorem witness_TokenEvents : (channelled inward).chans[0]? = some inward ∧
    (channelled { inward with held := [⟨tokenOf 1 0, [7], none⟩] }).invisible .field 16 7 = false ∧
    ({ channelled { inward with held := [⟨tokenOf 1 0, [0], none⟩] } with net := [{ loading with body := .store 0 8 0 }] }).invisible .field 16 0 =
      true ∧
    (channelled { inward with flight := [tokenOf 1 0] }).wayOpen { inward with flight := [tokenOf 1 0] } false = true ∧
    ({ channelled { inward with flight := [tokenOf 1 0] } with beats := [(0, false)] }).firstOfLane 0 { inward with flight := [tokenOf 1 0] }
      false = true ∧
    ({ channelled { inward with flight := [tokenOf 1 0] } with beats := [(1, false), (0, false)] }).firstOfLane 0
      { inward with flight := [tokenOf 1 0] } false = true ∧
    (channelled { inward with credits := [3] }).wayOpen { inward with credits := [3] } true = true ∧ inward.isStatic = true ∧ inward.dst.core?.isSome = true ∧ inward.counted = true ∧
    ((channelled inward).setField 0 { Field.reset with frate := 0x10000001, admitted := 1 }).field 0 =
      { Field.reset with frate := 0x10000001, admitted := 1 } ∧
    ((0x10000001 : Word).extractLsb' 0 16).toNat ≤ 1 ∧ (channelled { inward with bound := false }).chans[0]? =
      some { inward with bound := false } := by decide +kernel

/-- A token and a credit that have passed a link that failed since. -/
theorem witness_TokenEvents_past : 0 < ({ inward with flight := [tokenOf 1 0], past := 1 }).past ∧
    0 < ({ inward with credits := [3], creditsPast := 1 }).creditsPast ∧
    (channelled { inward with flight := [tokenOf 1 0], past := 1 }).firstOfLane 0 { inward with flight := [tokenOf 1 0], past := 1 } false =
      true := by decide +kernel

/-- The small machine between turns, its context between tasks. -/
def between (q : List Token) : State := (fabric { ctx0 with firing := false } q).modCur fun k => { k with turn := false }

theorem witness_Scheduling : ((between [tokenOf 9 0]).core 0).turn = false ∧ (between [tokenOf 9 0]).readyAt 0 0 = some 0 ∧
    (∀ m : BitVec 4, m ≠ 0 → (between [tokenOf 9 0]).readyAt 0 m = none) ∧ (∀ m : BitVec 4, (between []).readyAt 0 m = none) ∧
    ((between [tokenOf 9 0]).core 0).prioCtr[0]? = some 0 ∧ (between [tokenOf 9 0]).graph? 1 = some graph1 ∧
    (between [tokenOf 9 0]).header 0 (between [tokenOf 9 0]).ctx 0 = some 0xFE0C0000 ∧
    headerFault (between [tokenOf 9 0]).ctx 0xFE0C0000 0 0 = none ∧ (between [tokenOf 9 0]).endDue (between [tokenOf 9 0]).ctx graph1 = false ∧
    (fabric ctx0 []).cur.turn = true ∧ (fabric ctx0 []).ctx.chain.start = none ∧
    (fabric { ctx0 with stopped := true } []).turnStops (fabric { ctx0 with stopped := true } []).ctx = true ∧
    (between [tokenOf 0 5]).unbalanced (between [tokenOf 0 5]).ctx = false ∧
    (between [tokenOf 0 5]).endDue (between [tokenOf 0 5]).ctx graph1 = true ∧
    (between [tokenOf 0 5]).endBlock 0 (between [tokenOf 0 5]).ctx = none ∧
    ((between [tokenOf 9 0, tokenOf 0 5]).modChan 0 fun c => { c with cons := 2 }).unbalanced
      (between [tokenOf 9 0, tokenOf 0 5]).ctx = true := by decide +kernel

/-- The small machine between tasks, the header of handler 0 one that its entry refuses: WIN 5, and WIN 1 with a precision
that two words hold. -/
def refusing (win : Byte) (prec : Word) : State := { (fabric { ctx0 with firing := false, prec := prec } [tokenOf 9 0]).modCur
    (fun k => { k with turn := false }) with
  mem := [(2 ^ 47 + 2, 0x8C), (2 ^ 47 + 3, win), (2 ^ 47 + 512, 1), (2 ^ 47 + 514, 0x0D), (2 ^ 47 + 515, 0xFE)] }

theorem witness_Scheduling_header : ((refusing 0xFE 24).readyAt 0 0 = some 0 ∧ (refusing 0xFE 24).header 0 (refusing 0xFE 24).ctx 0 = some 0xFE8C0000 ∧
      5 ≤ ((0xFE8C0000 : IWord).extractLsb' 23 3).toNat) ∧
    ((refusing 0xFC 50).header 0 (refusing 0xFC 50).ctx 0 = some 0xFC8C0000 ∧ ((0xFC8C0000 : IWord).extractLsb' 23 3).toNat = 1 ∧
      1 < (50 + 78) / 64) ∧
    (refusing 0xFE 24).header 0 (refusing 0xFE 24).ctx 1 = some 0xFE0D0001 ∧ (0xFE0D0001 : IWord).getLsbD 16 = true ∧
    headerFault (refusing 0xFE 24).ctx 0xFE0D0001 1 0 = none ∧ headerFault (refusing 0xFC 50).ctx 0xFE0D0001 1 0 = none ∧
    (refusing 0xFE 24).endDue (refusing 0xFE 24).ctx graph1 = false := by decide +kernel

theorem witness_BarriersAndMulticast : (barred true).barriers[0]? = some ⟨true, 1, 7, true, 0, [0], [], 0, []⟩ ∧
    getV ((barred true).core 0).arrive (7 : BitVec 3) = true ∧ getV ((barred false).core 0).arrive (7 : BitVec 3) = false ∧
    0 ∈ ({ (⟨true, 1, 7, true, 0, [0], [], 0, []⟩ : Barrier) with releasing := [0] }).releasing ∧
    ((barred true).graph? (BitVec.ofNat 16 1)).map (fun x => x.st) = some .running ∧
    (([⟨3, 0, 0, 0, none, 2, 5, 0, 0, 0, none⟩] : List McastPacket).countP fun q => q.id == 3) = 1 ∧
    (0x2F0001 : BitVec 32).getLsbD 21 = true ∧ (0x2F0001 : BitVec 32).getLsbD 16 = true ∧ neighbour 0 0 .east = some (1, 0) ∧
    (channelled (chanOf (.mcast 0 5) (.port 0 0 0))).serviceChan (.mcast 0 5) = some (0, chanOf (.mcast 0 5) (.port 0 0 0)) := by
  decide +kernel

/-- Two packets of one sender at a router: the older one is in its turn. -/
theorem witness_BarriersAndMulticast_turn :
    let p : McastPacket := ⟨3, 0, 0, 0, none, 2, 5, 0, 0, 0, none⟩
    let q : McastPacket := { p with id := 4, origin := 1 }
    let s := { (fabric ctx0 []) with packets := [p, q] }
    s.mcastTurn p = true ∧ s.mcastTurn q = false ∧ (s.packets.countP fun x => x.id == p.id) = 1 ∧ s.mcasts = [] ∧
      ({ s with packets := [{ p with member := some 0 }] }).mcastTurn { p with member := some 0 } = true ∧
      s.serviceChan (.mcast 0 5) = none := by decide +kernel

/-- Context 0 of core 0 parked on a miss of the page that holds address 24. -/
def missed (k : Hub) (w : Bool) : State := { (fabric { ctx0 with park := .miss 5 } []) with
  hubs := [(0, k)], misses := [⟨5, 0, .context 0 0, 1, 24, true, w, 1⟩] }

theorem witness_Translation : (missed Hub.reset false).missParked 5 0 0 = true ∧
    (missed Hub.reset false).misses.find? (fun x => x.id == 5) = some ⟨5, 0, .context 0 0, 1, 24, true, false, 1⟩ ∧
    (missed Hub.reset false).misses.find? (fun x => (missed Hub.reset false).waiterCore x.waiter == 0) =
      some ⟨5, 0, .context 0 0, 1, 24, true, false, 1⟩ ∧
    ((missed { Hub.reset with tlb := [⟨1, 0, 3, 0x4000000, true, true, true⟩] } false).hub 0).tlb.find?
      (fun e => e.covers 1 24 && e.allows true false) = some ⟨1, 0, 3, 0x4000000, true, true, true⟩ ∧
    queuePages (Hub.reset.queue) < 64 ∧ Hub.reset.walks.length < 4 ∧
    malformed 0x400001 0 = false ∧ malformed 0x400000F 3 = false ∧ (0x400000F : Word).getLsbD 3 = true ∧
    (missed Hub.reset false).present (addrCore 0x400000) = true ∧ (missed Hub.reset false).reachable 0 0x400000 8 = .open_ ∧
    (missed Hub.reset false).spliceAt 0x400000 = none ∧ (0 : Word).getLsbD 0 = false ∧ (0x4000007 : Word).getLsbD 3 = false ∧
    malformed 0x4000007 3 = false ∧ (List.replicate 7 (⟨0, 0, 0, 0, 0, [], 0, 0⟩ : FaultEntry)).length < 8 := by decide +kernel

/-- The walk of that miss, at its last level. -/
theorem witness_Translation_walk :
    let w : Walk := ⟨1, 24, true, false, 3, 0x400000, [⟨5, 0, .context 0 0, 1, 24, true, false, 1⟩], false⟩
    let s := missed { Hub.reset with walks := [w] } false
    (s.hub 0).walks[0]? = some w ∧ s.missParked 5 0 0 = true ∧ (s.graph? w.asn).map (fun g : Machine.Graph => g.root) = some (some 0x400000) ∧
      (s.hub 0).queue = [] ∧ Memory.wf s.mem = true ∧ s.servedAt 0x400000 = 0x400000 ∧
      (∀ j < 8, ∀ l < 8, s.place (0x400000 + j) = s.place (0x400000 + l) → j = l) := by decide +kernel

/-- The same walk where a pause keeps its entry back, and as the second of two of which the first has not ended. -/
theorem witness_Translation_order :
    let w : Walk := ⟨1, 24, true, false, 3, 0x400000, [⟨5, 0, .context 0 0, 1, 24, true, false, 1⟩], false⟩
    let v : Walk := ⟨1, 0x40000, true, false, 2, 0x400000, [], false⟩
    let s := missed { Hub.reset with walks := [v, w] } false
    (s.modCore 0 fun k => { k with retrain := .pausing }).reachable 0 0x400000 8 = .wait ∧ (s.hub 0).walks[1]? = some w ∧
      s.reachable 0 0x400000 8 = .open_ ∧ s.readLE (s.servedAt 0x400000) 8 % 2 = 0 ∧
      (∀ j < 2, j ≠ 1 → ((s.hub 0).walks[j]?).map (fun x => x.ended) = some false) := by decide +kernel

theorem witness_ReplayAndInvalidation : (fabric ctx0 []).module.mst = .running ∧ (0x80000 : Word).toNat < 2 ^ 20 ∧
    (0x80000 : Word).extractLsb' 12 4 = 0 ∧ (fabric ctx0 []).present 0 = true ∧ (0x1000 : Word).extractLsb' 12 4 ≠ 0 ∧
    (fabric ctx0 []).module.invstat.getLsbD 7 = false ∧ (0x4000000000000200 : Word).extractLsb' 52 9 = 0 ∧
    (0x4000000000000200 : Word).extractLsb' 0 9 = 0 ∧ (0x4000000000000100 : Word).extractLsb' 0 9 ≠ 0 ∧
    (∀ m ∈ (fabric ctx0 []).net, (fabric ctx0 []).translated ⟨1, 1, 0x200, true⟩ m = false) ∧
    (fabric ctx0 []).engineInside ⟨1, 1, 0x200, true⟩ = false ∧
    (fabric ctx0 []).translated ⟨1, 3, 0, false⟩ loading = true ∧ loading.via = none ∧ (loading.body.span?).isSome = true ∧
    -- an invalidation with RET of a frame of 128 MiB: a splice inside it, and one beside it
    ((⟨0, 0x4000000, 2 ^ 18, 0, 0, true, false⟩ : Splice).old < 2 ^ 27 ∧ 2 ^ 27 ≤ (⟨0, 0x8000000, 2 ^ 18, 0, 0, true, false⟩ : Splice).old) ∧
    (⟨1, 1, 0x200, true⟩ : Inval).takes ⟨1, 0x201, 3, 0, true, true, true⟩ = true ∧
    (⟨1, 1, 0x200, true⟩ : Inval).takes ⟨1, 0x400, 3, 0, true, true, true⟩ = false ∧
    (⟨1, 3, 0, false⟩ : Inval).takes ⟨1, 0x400, 3, 0, true, true, true⟩ = true := by decide +kernel

/-- Accesses of a space on their way: a message, which no matching entry translated where the core's TLB holds another for it, and
pieces of an engine's access. -/
theorem witness_ReplayAndInvalidation_out :
    let s := { (fabric ctx0 []) with net := [loading] }
    (∃ m ∈ s.net, s.translated ⟨1, 3, 0, false⟩ m = true) ∧
    (s.modCore 0 fun k => { k with tlb := [⟨1, 0, 3, 0x4000000, true, true, true⟩] }).translated ⟨1, 0, 5, false⟩ loading = false ∧
    (engined { copying with runs := [(16416, 4)], desc := ⟨#[16384, 49119, 33, 15], rfl⟩ } ctx0).engineInside ⟨1, 3, 0, false⟩ = true := by
  decide +kernel

/-- An image with one pool, one actor, its one block of one word `done` and a window into its port 0. -/
def image : List Byte :=
  [0x49, 0x4B, 0x47, 0x49, 1, 0, 0, 0, 216, 0, 0, 0, 4, 0, 0, 0] ++ List.replicate 48 0 ++
  [1, 0, 0, 0, 16, 0, 0, 0, 0, 0, 0, 0, 0, 0, 0, 0, 0x41, 0xA0, 0x12, 1, 0, 0, 0, 0] ++
  [2, 0, 0, 0, 64, 0, 0, 0, 0, 0, 1] ++ List.replicate 61 0 ++
  [3, 0, 0, 0, 16, 0, 0, 0, 0, 0, 0, 0, 0, 0, 0, 0, 0, 0, 0, 0, 1, 0, 0, 0x4A] ++
  [4, 0, 0, 0, 24, 0, 0, 0, 1, 0, 0, 0, 0, 0, 0, 0, 0, 0, 0, 0, 0, 0, 0, 0, 4, 0, 1, 1, 0, 0, 0xFF, 0xFF]

theorem witness_image : image.length = 216 ∧ (match State.reset.judge 2 image with
    | .ok x => x.2.plan.cores
    | .error _ => []) = [0] ∧ (match State.reset.judge 2 [] with
    | .ok _ => 0
    | .error e => e) = 0x07 := by decide +kernel

/-- Graph 1 in a given state. -/
def staged (st : RegionState) : State := { (fabric { ctx0 with firing := false } []) with graphs := [{ graph1 with st := st, launched := 0 }] }

theorem witness_Regions : (staged .running).module.reqstat.getLsbD 7 = false ∧ (staged .running).graph? 9 = none ∧
    (0xFFFFFFFF : BitVec 40).toNat < 2 ^ 32 ∧ (0x4000000 : BitVec 40).toNat ≤ 0x4000000 ∧ (0x4000000 : BitVec 40).extractLsb' 32 7 = 0 ∧
    (staged .halted).graph? 1 = some { graph1 with st := .halted, launched := 0 } ∧
    (4095 : BitVec 16).toNat < 4096 ∧ (0xFF003FFFFF : BitVec 40).extractLsb' 22 10 = 0 ∧
    ((((staged .loaded).tablesOf 0).fields[63]?).join).isSome = true ∧
    (staged .quiescing).quiescent { graph1 with st := .quiescing, launched := 0 } = true ∧
    (staged .halting).drained { graph1 with st := .halting, launched := 0 } = true ∧
    ((staged .quiescing).modChan 0 fun c => { c with queue := [tokenOf 0 0] }).quiescent
      { graph1 with st := .quiescing, launched := 0 } = false ∧
    (staged .quiescing).framesPort graph1 = .open_ ∧ (staged .editing).dataPort graph1 = .open_ := by decide +kernel

/-- The same with the column's bus failed, and with a pause of the column: a frame, or data in DRAM, cannot be reached. -/
theorem witness_Regions_ports :
    let d := { graph1 with writes := [(0, [1, 2])] }
    ((staged .halting).modCore 0 fun k => { k with busFailed := true }).framesPort graph1 = .down ∧
    ((staged .halting).modCore 0 fun k => { k with retrain := .pausing }).framesPort graph1 = .wait ∧
    ((staged .editing).modCore 0 fun k => { k with busFailed := true }).dataPort d = .down ∧
    ((staged .editing).modCore 0 fun k => { k with retrain := .pausing }).dataPort d = .wait := by decide +kernel

/-- A saved region that a pause keeps from its frames, with a press command held. -/
theorem witness_Regions_resume :
    let g : Machine.Graph := { graph1 with st := .saved, launched := 0 }
    ((staged .saved).modCore 0 fun k => { k with retrain := .pausing }).framesPort g = .wait ∧ g.moved = false ∧
      (∃ p ∈ ((holding false).core 0).held, p.graph = 1) := by decide +kernel

/-- An edit of a saved region without save areas or frames is not kept waiting; one whose bus failed ends it. -/
theorem witness_Regions_edit (p : Plan) : (staged .saved).framesPort { graph1 with cores := [], actors := [], st := .saved } = .open_ ∧
    (staged .saved).editPort { graph1 with cores := [], actors := [], st := .saved } p = .open_ := ⟨by decide +kernel, rfl⟩

/-- A firing in a handler with a window, at the end of a halt: its one actor, its frame, its header. -/
theorem witness_Regions_window :
    let s := { (fabric ctx0 []) with graphs := [{ graph1 with st := .halting }] }
    s.drained { graph1 with st := .halting } = true ∧ ({ graph1 with st := .halting }).edit = none ∧ (s.ctxAt 0 0).firing = true ∧
      s.header 0 (s.ctxAt 0 0) (s.ctxAt 0 0).handler = some 0xFE0C0000 ∧ (0xFE0C0000 : IWord).extractLsb' 23 3 ≠ 0 ∧
      (s.core 0).splices = [] ∧ (s.ctxAt 0 0).saveBase + s.savedBytes 0 0 ≤ 2 ^ 24 ∧ Memory.wf s.mem = true ∧
      (∀ n, ({ graph1 with st := .halting }).cap = some n → n ≤ 0) := by
  refine ⟨by decide +kernel, rfl, by decide +kernel, by decide +kernel, by decide, rfl, by decide +kernel, by decide +kernel, ?_⟩
  intro n h; cases h

/-- Graph 1 with window 63 as the source of channel 0, and window 62 as the sink of channel 1. -/
def windowed (q : List Token) : State := { (fabric ctx0 []) with
  graphs := [{ graph1 with windows := [⟨63, 0, false, 0, false⟩, ⟨62, 1, true, 0, false⟩] }]
  chans := [chanOf (.window 1 63) (.port 0 0 0), { chanOf (.port 0 0 0) (.window 1 62) with queue := q }] }

theorem witness_HostAccess : ((windowed []).windowsOf 1 63 false).map (fun x => (x.1.n, x.2.free)) = [(63, 8)] ∧
    (windowed []).windowsOf 1 0 false = [] ∧ ((windowed []).graph? 1).map (fun g : Machine.Graph => (g.st, g.launched)) = some (.running, 1) ∧
    (nextSink ((windowed [tokenOf 5 0]).windowsOf 1 62 true)).map (fun x => x.2.queue) = some [tokenOf 5 0] ∧
    (nextSink ((windowed []).windowsOf 1 62 true)).map (fun x => x.2.queue) = some [] ∧
    (windowed []).present 65535 = true ∧ (windowed []).present (32 * 65536) = false ∧ selectOk .core 0x100000050 = true ∧
    selectOk .core 0x1000003FF = false := by decide +kernel

/-- A record with command `cmd` and payload `p`, by key 0. -/
def record (cmd : BitVec 8) (p : List Byte) : CommandRecord :=
  ⟨0x434D4B49, 1, cmd, 1, 0, true, true, true, true, [], p⟩

/-- A record with command `cmd` and payload `p`, signed by key 0, which is the key of 0s. -/
def signed (cmd : BitVec 8) (p : List Byte) : CommandRecord :=
  { record cmd p with signature := nullSign (shake256 (recordBytes (record cmd p)) 64) }

/-- The machine after reset with the key of 0s enrolled, in a state of the module, its rails on or off. -/
def enrolled (st : MState) (powered : Bool) : State := { State.reset with
  module := { State.reset.module with keys := [(0, nullKey)], mst := st, powered := powered } }

theorem bytes_signed (cmd : BitVec 8) (p : List Byte) : recordBytes (signed cmd p) = recordBytes (record cmd p) := rfl

theorem signature_signed (cmd : BitVec 8) (p : List Byte) :
    (signed cmd p).signature = nullSign (shake256 (recordBytes (record cmd p)) 64) := rfl

theorem enrolled_key (st : MState) (powered : Bool) (cmd : BitVec 8) (p : List Byte) :
    assocGet (enrolled st powered).module.keys (signed cmd p).key.toNat = some nullKey := rfl

theorem enrolled_seq (st : MState) (powered : Bool) (cmd : BitVec 8) (p : List Byte) :
    (decide ((signed cmd p).key.toNat ≤ 7) && decide ((assocGet (enrolled st powered).module.seqs (signed cmd p).key.toNat).getD 0 <
      (signed cmd p).seq.toNat)) = true := rfl

/-- Every command can be signed in every state: the records of the commands 1 to 12, well formed. -/
theorem witness_ManagementCommands (st : MState) (powered : Bool) (cmd : BitVec 8) (p : List Byte) :
    (enrolled st powered).signedRecord (signed cmd p) = true := by
  rw [State.signedRecord, enrolled_key, bytes_signed, signature_signed, enrolled_seq, Bool.true_and]
  exact nullSign_signs (recordBytes (record cmd p))

theorem malformed_signed (cmd c : BitVec 8) (p : List Byte) (l : List Nat) :
    recordMalformed (signed cmd p) c l = recordMalformed (record cmd p) c l := rfl

theorem witness_ManagementCommands_formed : (∀ c ∈ [(1 : BitVec 8), 2, 3, 4, 5, 8], recordMalformed (signed c []) c [0] = false) ∧
    (∀ c ∈ [(6 : BitVec 8), 9, 0x0B], recordMalformed (signed c [1]) c [1] = false) ∧
    recordMalformed (signed 7 (List.replicate 10 0)) 7 [10] = false ∧
    recordMalformed (signed 0x0C (List.replicate 12 0)) 0x0C [12] = false ∧
    recordMalformed (signed 0x0A [1]) 0x0A [1, 1953] = false := by
  simp only [malformed_signed]
  decide +kernel

theorem witness_ManagementRefusals : recordMalformed (record 6 []) 6 [1] = true ∧ recordMalformed (record 6 [7]) 6 [1] = false ∧
    State.reset.signedRecord (record 6 [7]) = false ∧ recordMalformed (record 0x0A [0]) 0x0A [1, 1953] = false ∧
    State.reset.module.keys = [] := ⟨by decide +kernel, by decide +kernel, rfl, by decide +kernel, rfl⟩

theorem witness_ManagementReads : recordMalformed (record 0x10 []) 0x10 [0] = false ∧ recordMalformed (record 0x11 [0, 0, 0, 0, 1, 0]) 0x11 [6] = false ∧
    recordMalformed (record 0x14 (List.replicate 32 9)) 0x14 [32] = false ∧ (0x0C : BitVec 8).toNat < 0x0D ∧
    (record 0x0D []).cmd.toNat < 0x10 := by decide +kernel

/-- A step change to 5 at wave count 4096 that fields 0 to 62 have acknowledged. -/
def stepping (l : List Nat) : State := { State.reset with
  module := { State.reset.module with change := some ⟨5, some 4096, l, false⟩ } }

theorem witness_ClockEvents : (stepping (List.range 63)).module.change = some ⟨5, some 4096, List.range 63, false⟩ ∧
    (63 : Nat) ∉ List.range 63 ∧ ((((stepping []).tablesOf 0).fields[63]?).join).isSome = true ∧
    (∀ n < 64, n ∈ List.range 64) ∧ State.reset.module.step ≠ 0 ∧ State.reset.module.change = none ∧
    (State.reset.field 63).unstretched = 0 ∧ ({ Field.reset with unstretched := 1 }).unstretched ≠ 0 := by decide +kernel

theorem witness_FailureEvents : (match ({ State.reset with badLinks := [(⟨0, 0, .east, .word⟩, 5, 7)] }).badLinks.find?
      (fun (x : Link × Nat × Nat) => x.1 == (⟨0, 0, .east, .word⟩ : Link)) with
    | some x => if x.2.1 = 5 then x.2.2 else 0
    | none => 0) = 7 ∧ reverseLink ⟨0, 0, .east, .word⟩ = ⟨1, 0, .west, .word⟩ ∧ (State.reset.core 0).retrain ≠ .pausing ∧ ({ Core.reset with retrain := .due }).retrain = .due ∧
    (∃ x ∈ [loading], x.dst = 1 ∧ x.entry = false) ∧ (fabric ctx0 []).midChain = false ∧
    (∃ x, (fabric ctx0 []).accessEnds (.pipe 0) = some x ∧ x.2.1 = 1) ∧
    (∃ l, l ∈ (channelled inward).chanLinks inward false) ∧ (chanOf (.port 16 0 0) (.port 0 0 0)).bound = true := by
  refine ⟨by decide +kernel, by decide +kernel, by decide +kernel, rfl, ⟨loading, by decide +kernel⟩, by decide +kernel, ?_, ?_, rfl⟩
  · exact ⟨((fabric ctx0 []).accessEnds (.pipe 0)).getD (0, 0, fabric ctx0 []), by rfl, by rfl⟩
  · exact ⟨((channelled inward).chanLinks inward false).headD ⟨0, 0, .east, .word⟩, by decide +kernel⟩

/-- An error that the pipe's access finds, where no chain is open. -/
theorem witness_FailureEvents_input :
    let s : State := { (fabric ctx0 []) with inputs := [.memoryError (.pipe 0) .dram 0x4000018 true] }
    s.midChain = false ∧ (({ s with inputs := [] } : State).accessEnds (.pipe 0)).isSome = true := by decide +kernel

theorem witness_EncodeDecode : (Instr.add 31 31 31 true).wellFormed = true ∧ decodeWord 0x4A000001 = .ok .done := ⟨by decide, rfl⟩

theorem witness_StepRunsDecoded : (fabric ctx0 []).module.mst = .running ∧ (fabric ctx0 []).inputs = [] ∧ (fabric ctx0 []).turnIssues = true ∧
    (between []).turnIssues = false ∧ (between []).module.reconfigure = none ∧
    (fabric ctx0 []).ctx.blockAt (fabric ctx0 []).ctx.handler = some 0 ∧
    (fabric { ctx0 with word := 63 } []).ctx.word.toNat < wordCount ((fabric ctx0 []).poolWord 0 0) ∧
    (fabric ctx0 []).midChain = false ∧ (Instr.selection 0).coded = false ∧ DecodeError.allZero ≠ .longLatencyS0 ∧
    blockFault 0x00010000 0 0x4A000001 .done = none ∧ blockFault 0x00010000 0 0x4A000007 .nop = some 0x08 := by decide +kernel

/-- Words after a prefix: not one that takes it, one that the value does not suit, a second of its kind, one out of order. -/
theorem witness_StepRunsDecoded_prefixes : prefixVerdict (.ext 1) .nop = none ∧ prefixVerdict (.ext 0x1FFFFFF) (.addi false 1 2 3) = some true ∧
    prefixVerdict (.rnd 6 0) (.vfadd 1 2 3 0 false) = some false ∧ prefixRank (.ext 1) = prefixRank (.ext 2) ∧
    prefixRank (.ext 1) < prefixRank (.rnd 0 0) ∧ prefixVerdict (.rnd 0 0) (.vfadd 1 2 3 0 false) ≠ none ∧
    DecodeError.longLatencyS0.detail = 0x0B ∧ decode [0, 0, 0, 0x84] = some (.error .longLatencyS0, []) := by decide +kernel

/-- A machine whose next word is `ld s3, [s1 + 0]` of 8 bytes at pool offset 16384; the byte there is marked, or the word. -/
def marking (key : Nat) : State := { (fabric (regs [(1, 16384)] ctx0) []) with
  mem := [(2 ^ 47 + 2, 0x0C), (2 ^ 47 + 3, 0xFE)] ++ ((leBytes 4 0x6030E000).zipIdx.map fun x => (2 ^ 47 + 4 + x.2, x.1)).filter fun x => x.2 != 0
  flaws := [(key, key)] }

/-- A word that is marked is met in the fetch, a byte of the pool that no fetched word is in is not. -/
theorem witness_StepRunsDecoded_marks :
    (marking (2 ^ 47 + 4)).turnIssues = true ∧ (marking (2 ^ 47 + 4)).fetchMeets = some (2 ^ 47 + 4) ∧
    (marking (2 ^ 47 + 16384)).fetchMeets = none ∧
    (match (marking (2 ^ 47 + 16384)).issueNext with
      | .run i => i == .ld false 3 1 6 0
      | _ => false) = true := by decide +kernel

/-- The load meets the marked byte that it reads: with another value there it would write another value to s3. -/
theorem witness_StepRunsDecoded_meets :
    (marking (2 ^ 47 + 16384)).meets exec (.ld false 3 1 6 0) = some (.pool, 2 ^ 47 + 16384) := by
  have h : (marking (2 ^ 47 + 16384)).reads (exec (.ld false 3 1 6 0)) (2 ^ 47 + 16384) = true := by
    refine List.any_eq_true.mpr ⟨1, by decide, ?_⟩
    show (!decide ((run (.ld false 3 1 6 0) (marking (2 ^ 47 + 16384))).without (2 ^ 47 + 16384) =
      (run (.ld false 3 1 6 0) ((marking (2 ^ 47 + 16384)).withCell (2 ^ 47 + 16384) 1)).without (2 ^ 47 + 16384))) = true
    rw [Bool.not_eq_true', decide_eq_false_iff_not]
    intro e
    have g := congrArg (fun t : State => t.ctx.readS 3) e
    revert g
    decide +kernel
  have e : (marking (2 ^ 47 + 16384)).flaws = [(2 ^ 47 + 16384, 2 ^ 47 + 16384)] := rfl
  unfold State.meets
  rw [e, List.find?_cons]
  simp only [h, Bool.true_or]
  rfl

/-- A result that is due, an instruction that reads it, and one that may be cut between its pieces. -/
theorem witness_StepRunsDecoded_time :
    let s := (fabric ctx0 []).modCur fun k => { k with gap := 1, due := [⟨0, .s 2, 3⟩] }
    s.waitOf (.add 3 1 2 false) = 3 ∧ s.waitOf (.add 3 1 1 false) = 1 ∧ s.waitOf (.ext 1) = 0 ∧
      (Place.s 3, 3) ∈ s.results s (.mul 3 1 2 false) ∧ (s.pieces (.vld 3 1 7 0 false false)).isSome = true ∧
      (between []).turnIssues = false ∧ (between [tokenOf 9 0]).selectTime = 0 := by decide +kernel

theorem witness_StepKeepsInv : State.reset.Inv ∧ step State.reset = .next (match step State.reset with
    | .next t => t
    | _ => State.reset) := ⟨⟨by decide, by decide⟩, rfl⟩

/-! ## Witnesses of further clauses: ports, messages, the press, engines, failures -/

/-- A port read behind an engine end is empty; a port whose source is engine 0; ports that are bound to nothing. -/
theorem witness_Ports_engine :
    ((channelled { inward with deng := some 0 }).inChan (channelled { inward with deng := some 0 }).ctx 0).map
      (fun x => (x.1, x.2.deng, x.2.queue)) = some (0, some 0, []) ∧
    ((ending [] (some 0) 8).outChan (ending [] (some 0) 8).ctx 0).map (fun x => (x.2.seng, x.2.free)) = some (some 0, 8) ∧
    ((channelled { inward with vec := true }).inChan (channelled { inward with vec := true }).ctx 0).map (fun x => (x.2.deng, x.2.vec)) =
      some (none, true) := by decide +kernel

/-- A hold that context 0 of core 0 has taken, for the tag 0x20, and one that its answer ends once message 0 is visible. -/
def holder (ends : Option (Bool × List Nat)) : State := { (fabric ctx0 []) with
  cores := [(0, { core0 (ported ctx0) with holds := [⟨0x4000000, 0x20, 0, 0, (0, 0), ends⟩] })]
  net := [{ loading with body := .store 0x4000018 8 0 }] }

theorem witness_RequestsSent_holds : (holder none).takenHolds 0 = 1 ∧
    (holder none).cur.holds[0]? = some ⟨0x4000000, 0x20, 0, 0, (0, 0), none⟩ ∧ (holder none).who = 0 ∧
    (0x20 : Word).extractLsb' 48 16 = 0 ∧ (0x20 : Word).extractLsb' 14 2 = 0 ∧ (0x20 : Word).extractLsb' 0 5 = 0 ∧
    (0x20 : Word).getLsbD 47 = false ∧ (holder none).present 0 = true ∧
    (holder none).queued (holder none).focus true < ((holder none).cur.sqlim.extractLsb' 8 5).toNat ∧
    (holder none).invisible (scopeOf 0 0) 0 0 = true ∧ (holder none).invisible (scopeOf 0 0) 0 7 = false := by decide +kernel

/-- A spilled chase whose place the port reads, and one that a pause keeps there. -/
theorem witness_RepliesAndEvents_spill :
    let s := (fabric ctx0 []).modCur fun k => { k with spill := [(7, 0)], station := List.replicate 15 9 }
    (s.core 0).spill = (7, 0) :: [] ∧ (s.core 0).station.length < 16 ∧ s.reachable 0 (spillPlace 0 0) 64 = .open_ ∧
      (s.modCur fun k => { k with retrain := .pausing }).reachable 0 (spillPlace 0 0) 64 = .wait := by decide +kernel

/-- Formats that conversions and the packed moves refuse, at the ends of the ranges they accept. -/
theorem witness_refused_formats : (∀ f ∈ [(0x10 : Reg), 0x13, 0x16, 0x18, 0x1F], ¬ (f.toNat ≤ 0x0F ∨ f = 0x14 ∨ f = 0x15 ∨ f = 0x17)) ∧
    (∀ f ∈ [(0x0F : Reg), 0x13, 0x15, 0x1F], ¬ (f.toNat ≤ 0x0E ∨ f = 0x14)) ∧ (tokenOf 9 6).code = 6 := by decide +kernel

/-- The first command's cycles have and have not passed; a command that a resume has released; a `tnorm` restarted. -/
theorem witness_PressEvents_times : (command .queued 0).left = 0 ∧ ({ command .queued 0 with left := 2 }).left ≠ 0 ∧
    ({ command .running 0 with left := 1 }).left ≠ 0 ∧ ((holding true).core 0).held.length = 1 ∧
    (∃ q ∈ ((holding true).core 0).held, q.back = true) ∧ ({ command .queued 0 with isPmm := false, rst := true }).rst = true ∧
    ({ command .queued 0 with cmdWord := 0x40000000 }).cmdWord.getLsbD 30 = true ∧
    ((command .queued 0).shape.extractLsb' 8 8).toNat ≤ 128 := by decide +kernel

/-- A header of K = 32 with blocks of 16, and one with FP32 scales and zero points of groups of 16. -/
theorem witness_PressProducts_groups : (setGeom (2 ^ 53 + 31)).block = 16 ∧ (setGeom (2 ^ 53 + 31)).k = 32 ∧
    (setGeom (2 ^ 60 + 2 ^ 59 + 2 ^ 56 + 31)).sc = true ∧ (setGeom (2 ^ 60 + 2 ^ 59 + 2 ^ 56 + 31)).zp = true ∧
    (setGeom (2 ^ 60 + 2 ^ 59 + 2 ^ 56 + 31)).group = 32 ∧ (setGeom (2 ^ 60 + 2 ^ 59 + 2 ^ 56 + 31)).k = 32 ∧
    ((command .running 0).shape.extractLsb' 0 7).toNat ≤ 64 ∧ f32 0x7F800000 = .inf false ∧ f32 0x7FC00000 = .nan := by decide +kernel

/-- FP32 blocks of 16 in 8 bits for an A set of K = 16: a run of 16 elements is a block; with blocks of 32 it is not yet one. -/
theorem witness_MouldForms_blocks :
    let m : Word := 15 * 2 ^ 51 + 16 * 2 ^ 43 + 1 * 2 ^ 40 + 8 * 2 ^ 35 + 15 * 2 ^ 30 + 16384 * 2 ^ 10
    let n : Word := 31 * 2 ^ 51 + 32 * 2 ^ 43 + 2 * 2 ^ 40 + 8 * 2 ^ 35 + 15 * 2 ^ 30 + 16384 * 2 ^ 10
    let x : Word := 31 * 2 ^ 51 + 32 * 2 ^ 43 + 2 * 2 ^ 40 + 8 * 2 ^ 35 + 0x12 * 2 ^ 30 + 16384 * 2 ^ 10
    mouldRefused m none = false ∧ (setGeom (mouldHeader m none)).block = 16 ∧ mouldRefused n none = false ∧
      (setGeom (mouldHeader n none)).block = 32 ∧ mouldRefused x (some (0x17 * 8)) = false ∧
      (setGeom (mouldHeader x (some (0x17 * 8)))).fmt = 0x12 := by decide +kernel

/-- A stream with the given bases, control word, extents and scale base; strides of one element. -/
def streaming (src dst ctl ext scales : Word) : Engine := { copying with
  cmd := .stream, idx := 0, elems := 0, record := ⟨#[src, dst, ctl, ext, 1, 0, 1, 0, scales], rfl⟩ }

/-- An engine of the small machine in state 2 that nothing keeps back may go on. -/
theorem engined_goes (e : Engine) (c : Context) (st : e.st = .running) (h : e.holder = some 0) (n : e.ending = none)
    (m : e.waitMiss = none) (a : e.acq = []) (k : c.graph = 1) : (engined e c).EngineGoes 0 0 := by
  have g : (engined e c).eng 0 0 = e := rfl
  unfold State.EngineGoes
  rw [g]
  refine ⟨.inl st, n, m, a, graph1, ?_, rfl⟩
  rw [h]
  have : (engined e c).ctxAt 0 ((some (0 : BitVec 4)).getD 0) = ported c := rfl
  rw [this]
  show (engined e c).graph? c.graph = some graph1
  rw [k]; rfl

/-- Rounds: one that begins a command, one that has its pending parameter, one that waits for a parameter token, one whose base
lies below the scratchpad, and one whose virtual base is not aligned. -/
theorem witness_EngineForms_rounds :
    let e : Engine := { streaming 16384 49148 0x1EF 0 0 with boundary := true }
    let f : Engine := { streaming 16384 49148 0x2000000001EF 0 0 with boundary := true, roundsRun := 1 }
    ((engined e ctx0).EngineGoes 0 0 ∧ (engined { e with roundsRun := 1, parm := some 0x7000000000000003 } ctx0).EngineGoes 0 0 ∧
      (engined { f with record := f.record.set 2 0x20000000001EF } ctx0).EngineGoes 0 0) ∧
    e.cmd = .stream ∧ e.boundary = true ∧ e.record[2].getLsbD 15 = false ∧ e.record[2].extractLsb' 0 5 = 0x0F ∧
    e.record[2].extractLsb' 5 5 = 0x0F ∧ (0x7000000000000003 : Word).extractLsb' 16 44 = 0 ∧
    (0x20000000001EF : Word).getLsbD 49 = true ∧ (0x20000000001EF : Word).extractLsb' 50 4 = 0 ∧
    ((fabric ctx0 []).inChan ((fabric ctx0 []).ctxAt 0 0) 0).map (fun x => (x.1, x.2.queue)) = some (0, []) ∧
    ((fabric ctx0 [tokenOf 9 5]).inChan ((fabric ctx0 [tokenOf 9 5]).ctxAt 0 0) 0).map (fun x => x.2.queue.map (·.code)) = some [5] ∧
    (16383 : Int) < ((engined e ctx0).core 0).scratchLo ∧ (0x301EF : Word).extractLsb' 16 2 = (3 : BitVec 2) ∧ (16382 : Nat) % 4 ≠ 0 := by
  refine ⟨⟨engined_goes _ _ rfl rfl rfl rfl rfl rfl, engined_goes _ _ rfl rfl rfl rfl rfl rfl, engined_goes _ _ rfl rfl rfl rfl rfl rfl⟩, ?_⟩
  decide +kernel

/-- A stream from the core's column to a virtual address: elements inside and beyond the column, and at addresses that are
translated, refused, too long and not translated. -/
theorem witness_ElementsElsewhere :
    let e : Engine := streaming 0x100 8 0xE01EF 1 0
    let s := engined e ctx0
    let p := fun at_ : Nat => s.modCore 0 fun k => { k with tlb := [⟨1, 0, 3, at_, true, true, true⟩] }
    s.EngineGoes 0 0 ∧ (s.EngineAt 0 0 2 0x100 4 false 0x100 ∧ (p 0x4000000).EngineAt 0 0 3 8 4 true 0x4000008 ∧
      s.EngineAt 0 0 0 49148 4 true (poolAddr 0 49148)) ∧
    e.record[2].extractLsb' 16 2 = (2 : BitVec 2) ∧ e.record[2].extractLsb' 18 2 = (3 : BitVec 2) ∧ e.part = [] ∧ e.runs = [] ∧ e.raw = [] ∧
    2 ^ 26 < 2 ^ 26 - 3 + 4 ∧ (2 ^ 54 : Nat) ≤ 2 ^ 54 ∧ s.xlate 0 1 8 true false = .miss ∧
    (match (p 0x400000000000).xlate 0 1 8 true false with
      | .fault _ => true
      | _ => false) = true ∧
    (∀ j < 4, ∀ k < 4, (p 0x4000000).place (0x4000008 + j) = (p 0x4000000).place (0x4000008 + k) → j = k) := by
  refine ⟨engined_goes _ _ rfl rfl rfl rfl rfl rfl, ?_, by decide +kernel⟩
  exact ⟨.inr ⟨.inl rfl, by decide, by decide +kernel, by decide +kernel, by decide +kernel, fun _ => by decide, nofun⟩,
    .inr ⟨.inr rfl, by decide, by decide +kernel, by decide +kernel, by decide +kernel, nofun,
      fun _ => ⟨by decide, by decide +kernel, by decide⟩⟩,
    .inl ⟨rfl, by decide +kernel, by decide +kernel, rfl⟩⟩

/-- A stream from port 0 to port 0 with a vector token's lanes left, with an element to send, with a full and with a partly full
vector token; an engine that waits for a token. -/
theorem witness_ElementsElsewhere_ports :
    let e : Engine := streaming 0 0 0x501EF 1 0
    let s := engined e ctx0
    s.EngineGoes 0 0 ∧ (engined { e with srcLanes := [7] } ctx0).EngineGoes 0 0 ∧ (engined { e with got := [5] } ctx0).EngineGoes 0 0 ∧
    e.record[2].extractLsb' 16 2 = (1 : BitVec 2) ∧ e.record[2].extractLsb' 18 2 = (1 : BitVec 2) ∧
    (s.inChan (s.ctxAt 0 0) 0).map (fun x => (x.1, x.2.queue)) = some (0, []) ∧
    (s.outChan (s.ctxAt 0 0) 0).map (fun x => (x.1, x.2.vec, x.2.free)) = some (1, false, 8) ∧
    ((vectorPorts [tokenOf 9 0]).inChan ((vectorPorts [tokenOf 9 0]).ctxAt 0 0) 0).map (fun x => (x.2.vec, x.2.queue.map (·.code))) =
      some (true, [0]) ∧
    ((vectorPorts [tokenOf 9 5]).inChan ((vectorPorts [tokenOf 9 5]).ctxAt 0 0) 0).map (fun x => x.2.queue.map (·.code)) = some [5] ∧
    ((ending [] (some 0) 0).outChan ((ending [] (some 0) 0).ctxAt 0 0) 0).map (fun x => x.2.free) = some 0 ∧
    (List.replicate 15 (0 : Lane) ++ [5]).length = 16 ∧ ([] ++ [(5 : Lane)]).length ≠ 16 ∧ (e.record[3].extractLsb' 0 16).toNat + 1 = 2 := by
  refine ⟨engined_goes _ _ rfl rfl rfl rfl rfl rfl, engined_goes _ _ rfl rfl rfl rfl rfl rfl, engined_goes _ _ rfl rfl rfl rfl rfl rfl, ?_⟩
  decide +kernel

/-- Elements of MX blocks read and gathered, and an EFM value of three bytes read and written. -/
theorem witness_ElementsInBlocks :
    let a : Engine := streaming 16384 49148 0x1F2 31 16640
    let b : Engine := { streaming 16384 49120 0x24F 31 49151 with raw := List.replicate 32 0x3F800000 }
    let c : Engine := streaming 16384 49088 0x318 0 0
    let d : Engine := { c with got := [0, 0, 0] }
    (engined a ctx0).EngineGoes 0 0 ∧ (engined b ctx0).EngineGoes 0 0 ∧ (engined { b with raw := [], got := [7] } ctx0).EngineGoes 0 0 ∧
      (engined c ctx0).EngineGoes 0 0 ∧ (engined d ctx0).EngineGoes 0 0 ∧
    a.record[2].extractLsb' 0 5 = 0x12 ∧ a.record[2].extractLsb' 5 5 = 0x0F ∧ b.record[2].extractLsb' 0 5 = 0x0F ∧
    b.record[2].extractLsb' 5 5 = 0x12 ∧ b.raw.length = 32 ∧ c.record[2].extractLsb' 0 5 = 0x18 ∧ c.record[2].extractLsb' 5 5 = 0x18 ∧
    ((engined c ctx0).readByte (poolAddr 0 16384)).toNat = 0 ∧ 16384 % 64 + 3 ≤ 64 ∧ 49088 % 64 + d.got.length ≤ 64 ∧
    ((engined a ctx0).core 0).scratchLo ≤ 16384 + 31 ∧ 49151 < ((engined b ctx0).core 0).scratchHi := by
  refine ⟨engined_goes _ _ rfl rfl rfl rfl rfl rfl, engined_goes _ _ rfl rfl rfl rfl rfl rfl, engined_goes _ _ rfl rfl rfl rfl rfl rfl,
    engined_goes _ _ rfl rfl rfl rfl rfl rfl, engined_goes _ _ rfl rfl rfl rfl rfl rfl, ?_⟩
  decide +kernel

/-- Two elements of 4 bits in their byte, read and to be written; four of 6 bits of which a byte is read, and one is written. -/
theorem witness_ElementsInBytes :
    let a : Engine := streaming 16384 49151 0x21 1 0
    let b : Engine := streaming 16385 49149 0x129 3 0
    (engined a ctx0).EngineGoes 0 0 ∧ (engined { a with got := [1, 2] } ctx0).EngineGoes 0 0 ∧
      (engined { b with part := [7], runs := [(poolAddr 0 16386, 2)] } ctx0).EngineGoes 0 0 ∧
      (engined { b with got := [1, 2, 3, 4], runs := [(poolAddr 0 49150, 2)] } ctx0).EngineGoes 0 0 ∧
    a.record[2].extractLsb' 0 5 = 0x01 ∧ a.record[2].extractLsb' 5 5 = 0x01 ∧ b.record[2].extractLsb' 0 5 = 0x09 ∧
    b.record[2].extractLsb' 5 5 = 0x09 ∧ (16384 : Int) * 8 + 0 * 4 = 8 * 16384 ∧ 49151 + 1 ≤ ((engined a ctx0).core 0).scratchHi ∧
    ((engined a ctx0).core 0).scratchLo ≤ 16384 := by
  refine ⟨engined_goes _ _ rfl rfl rfl rfl rfl rfl, engined_goes _ _ rfl rfl rfl rfl rfl rfl, engined_goes _ _ rfl rfl rfl rfl rfl rfl,
    engined_goes _ _ rfl rfl rfl rfl rfl rfl, ?_⟩
  decide +kernel

/-- A splice of one piece at its first beat, its copy under way, and one that is complete; words and lengths that it refuses. -/
def spliced (complete : Bool) : State := (engined { copying with cmd := .splice, idx := 0, elems := 0, desc := ⟨#[0, 0x4000000, 1, 0], rfl⟩ }
  ctx0).modCore 0 fun k => { k with splices := [⟨0, 0, 2 ^ 18, 0x4000000, 0, complete, false⟩] }

theorem witness_TransferForms_splice : (spliced false).EngineGoes 0 0 ∧ ((spliced false).eng 0 0).idx < 1 * 2 ^ 18 ∧ 0 + 1 * 2 ^ 18 ≤ 2 ^ 26 ∧
    (spliced false).rejected 0 32 = false ∧ (spliced false).reachable 0 0 32 = .open_ ∧ (spliced false).present (addrCore 0x4000000) = true ∧
    (spliced false).present (addrCore 0x400000000000) = false ∧
    (spliced false).spliceAt (2 ^ 18 - 8) = some ⟨0, 0, 2 ^ 18, 0x4000000, 0, false, false⟩ ∧
    (spliced true).spliceAt 0 = some ⟨0, 0, 2 ^ 18, 0x4000000, 0, true, false⟩ ∧
    (let m : Msg := { loading with dst := 0, body := .store 8 8 5 }
     let s := { (spliced true) with net := [m] }
     s.msg? 0 = some m ∧ s.firstAtPort m = true ∧ s.portAt 8 8 0 0 0 = .open_ ∧ s.rejected 8 8 = false) ∧
    (1 : Nat) % 2 ^ 18 ≠ 0 ∧ 2 ^ 26 < 255 * 2 ^ 18 + 2 * 2 ^ 18 ∧ 256 < 257 ∧ (0x4000 : Word).toNat = 2 ^ 14 ∧
    ((0x140 : Word).extractLsb' 6 3).toNat = 5 ∧ (with_ [(2, 16388)]).ctx.readS 2 = 16388 ∧ (16388 : Nat) % 8 ≠ 0 ∧
    (fabric ctx0 []).cur.scratchHi < 49128 + 32 := by
  refine ⟨⟨.inl (by decide +kernel), by decide +kernel, by decide +kernel, by decide +kernel, graph1, by decide +kernel, rfl⟩, ?_⟩
  decide +kernel

/-- A precision below the present one, which the window holds. -/
theorem witness_ElasticConversions_lower : ((16 : Word).extractLsb' 0 8 + (0 : BitVec 8)).toNat = 16 ∧ 16 < (with_ []).ctx.precP ∧
    ((with_ []).ctx.prec.extractLsb' 8 8).toNat < 16 ∧ (16 + 78) / 64 ≤ ((with_ []).runHeader.extractLsb' 23 3).toNat ∧
    (2 : Nat) ≤ 241 ∧ (241 + 78) / 64 = 4 := by decide +kernel

/-- Tokens and credits that what has failed keeps, a result of the vat not yet pushed, an engine that waits for channel 0, and a
credit behind a token of its lane that the limiter keeps. -/
theorem witness_TokenEvents_ways :
    let s := fun c : Channel => { (channelled c) with failedRouters := [0] }
    let t : Channel := { inward with flight := [tokenOf 1 0] }
    let k : Channel := { inward with credits := [3] }
    ¬ (0 < t.past ∨ (s t).wayOpen t false = true) ∧ ¬ (0 < k.creditsPast ∨ (s k).wayOpen k true = true) ∧
    (2 : Nat) ≤ ((channelled inward).core 0).cycle.toNat + 2 ∧
    (let e := engined { copying with st := .waitPort, waits := some 0 } ctx0
     (e.eng 0 0).waits = some 0 ∧ (e.eng 0 0).st = .waitPort ∧ ({ inward with deng := some 0 }).dst.core? = some 0) ∧
    (let c : Channel := { chanOf (.port 0 1 0) (.port 16 1 0) with credits := [3] }
     let d : Channel := { inward with flight := [tokenOf 1 0], limited := true }
     let s := { (channelled inward) with chans := [d, c], beats := [(0, false), (1, true)] }
     (∀ b ∈ s.beats, b = (1, true) ∨ ∀ y, s.chans[b.1]? = some y → sameLane c y true b.2 = true → b.2 = false ∧ y.limited = true) ∧
      s.firstOfLane 1 c true = true) ∧
    ¬ (∀ y, (some ((0 : Word), 6)) = some y → y.2 ≤ (((channelled inward).core 0).cycle - y.1).toNat) := by
  refine ⟨by decide +kernel, by decide +kernel, by decide, by decide +kernel, ⟨?_, by decide +kernel⟩, ?_⟩
  · intro b hb
    simp only [List.mem_cons, List.not_mem_nil, or_false] at hb
    rcases hb with rfl | rfl
    · refine .inr fun y hy => ?_
      cases hy
      intro _; exact ⟨rfl, rfl⟩
    · exact .inl rfl
  · intro h
    exact absurd (h (0, 6) rfl) (by decide +kernel)

/-- A packet that would go east over a link that has failed, the one way that its entry names. -/
theorem witness_BarriersAndMulticast_failed :
    let p : McastPacket := ⟨3, 0, 0, 0, none, 2, 5, 0, 0, 0, none⟩
    let s := { (fabric ctx0 []) with packets := [p], failedLinks := [⟨0, 0, .east, .word⟩], hubs := [(0, { Hub.reset with mcast := [(5, 0x280000)] })] }
    s.mcastTurn p = true ∧ s.routerKey 0 0 0 = 0 ∧ ((assocGet (s.hub 0).mcast 5).getD 0).getLsbD 21 = true ∧
      mcastDirs 0x280000 none = [.east] := by decide +kernel

/-- A walk whose entry is malformed, one whose node lies in an absent core, and one whose next node does. -/
theorem witness_Translation_ends :
    let w : Walk := ⟨1, 24, true, false, 3, 0x400000, [⟨5, 0, .context 0 0, 1, 24, true, false, 1⟩], false⟩
    let v : Walk := { w with level := 0, node := 0x400000000000 }
    (missed { Hub.reset with walks := [w] } false).present (addrCore w.node) = true ∧
    (missed { Hub.reset with walks := [v] } false).present (addrCore v.node) = false ∧
    malformed 0x8000000000000001 3 = true ∧ malformed 0x400000000001 0 = false ∧
    (missed Hub.reset false).present (addrCore 0x400000000000) = false ∧ w.ended = false := by decide +kernel

/-- A region with one run of data to write, one of a running region whose edit is refused, one that a management reconfigure has
moved while its resume waits, and one whose core keeps a held command. -/
theorem witness_Regions_ends :
    let d : Machine.Graph := { graph1 with st := .configuring, writes := [(0x4000000, [1, 2])] }
    let x : Machine.Graph := { graph1 with edit := some [] }
    let s := { (fabric { ctx0 with firing := false } []) with graphs := [x] }
    ({ (staged .configuring) with graphs := [d] }).dataPort d = .open_ ∧ (staged .configuring).spliceAt 0x4000000 = none ∧
    s.quiescent x = true ∧ (match (s.freeRegion x).judge 1 [] with
      | .ok _ => 0
      | .error e => e) = 0x07 ∧
    ({ graph1 with st := .saved, resuming := true, moved := true }).moved = true ∧
    (∃ p ∈ ((holding false).core 0).held, p.graph = 1 ∧ p.back = false) ∧
    (∀ k ∈ graph1.cores, ∀ e, ((fabric ctx0 []).eng k e).cmd ≠ .splice) := by decide +kernel

/-- A message that a failed link keeps from its owner, and errors that the pipe's access finds in a register and in a queue. -/
theorem witness_FailureEvents_ways :
    (let m : Msg := { loading with dst := 16, body := .load 0x40000018 8 true 3 }
     let s := { (fabric ctx0 []) with net := [m], failedRouters := [0] }
     s.msg? 0 = some m ∧ m.body.span?.isSome = true ∧ m.entry = false ∧ m.past = false ∧ s.linked .word m.from_ m.dst = false) ∧
    (let s : State := { (fabric ctx0 []) with inputs := [.spotError (.pipe 0) (.reg 0 0 (.s 3)) 3] }
     s.midChain = false ∧ (({ s with inputs := [] } : State).accessEnds (.pipe 0)).isSome = true) ∧
    (fabric ctx0 []).portBusy 0x4000018 = false ∧ (fabric ctx0 []).busDown 0x4000018 = false ∧
    ((fabric ctx0 []).modCore 1 fun k => { k with retrain := .pausing }).portBusy 0x4000018 = true ∧
    ((fabric ctx0 []).modCore 1 fun k => { k with busFailed := true }).busDown 0x4000018 = true ∧
    (let s : State := { (fabric ctx0 []) with flaws := [(0x4000018, 0x4000018)] }
     ∃ i < 32, ∃ x ∈ s.flaws, x.1 = s.place (0x4000018 / 32 * 32 + i)) := by decide +kernel

/-- A register that is marked, and one that the instruction has written. -/
theorem witness_StepRunsDecoded_spots :
    let s : State := { (with_ []) with spots := [(.reg 0 0 (.s 3), 3)] }
    s.spots ≠ [] ∧ (with_ []).flaws = [] ∧ (with_ []).spots = [] ∧ (s.keepSpots s (.add 4 1 2 false)).spots = s.spots ∧
      (s.keepSpots (run (.add 3 1 2 false) s) (.add 3 1 2 false)).spots = [] := by decide +kernel

/-- Units of 8 bytes on both sides of a copy, and bytes where one side is not aligned to them. -/
theorem witness_EngineEvents_units : (16384 + 8) % 8 = 0 ∧ (49088 + 8) % 8 = 0 ∧ ¬ ((49119 + 32) % 8 = 0) ∧
    min (32 - (16384 + 32) % 32) (33 - 32) = 1 ∧ min (32 - (16384 + 0) % 32) (33 - 0) = 32 ∧
    16384 + 0 + 32 ≤ ((engined copying ctx0).core 0).scratchHi := by decide +kernel

end Sys2Proof.Tests
end

section
/-! ## Divisions (R44) -/

namespace Sys2Proof.Machine

/-! ### Quotient and remainder as integers -/

/-- q and r are a quotient and a remainder of x by y in some rounding: they satisfy the division identity, and r is smaller
in magnitude than y. -/
def QuotRem (x y q r : Int) : Prop := q * y + r = x ∧ r.natAbs < y.natAbs

theorem quotRem_tdiv_tmod (x : Int) {y : Int} (hy : y ≠ 0) : QuotRem x y (x.tdiv y) (x.tmod y) := by
  refine ⟨Int.tdiv_mul_add_tmod x y, ?_⟩
  rw [Int.natAbs_tmod]
  exact Nat.mod_lt _ (Int.natAbs_pos.2 hy)

/-- A nonzero remainder toward zero is negative where the dividend is. -/
theorem tmod_neg_iff {x y : Int} (hr : x.tmod y ≠ 0) : x.tmod y < 0 ↔ x < 0 := by
  have hy : ¬ y ∣ x := fun h => hr (Int.tmod_eq_zero_of_dvd h)
  rw [← Int.sign_eq_neg_one_iff_neg, Int.sign_tmod, if_neg hy, Int.sign_eq_neg_one_iff_neg]

/-- By a negative divisor the floored remainder lies above the divisor and is not positive: it is the negated remainder of
the negated operands. -/
theorem fmod_mem_of_neg (x : Int) {y : Int} (hy : y < 0) : y < x.fmod y ∧ x.fmod y ≤ 0 := by
  have hlt := Int.fmod_lt_of_pos (-x) (Int.neg_pos.2 hy)
  have hle := Int.fmod_nonneg_of_pos (-x) (Int.neg_pos.2 hy)
  rw [Int.neg_fmod_neg] at hlt hle
  omega

theorem quotRem_fdiv_fmod (x : Int) {y : Int} (hy : y ≠ 0) : QuotRem x y (x.fdiv y) (x.fmod y) := by
  refine ⟨Int.fdiv_mul_add_fmod x y, ?_⟩
  rcases Int.lt_or_gt_of_ne hy with hneg | hpos
  · have := fmod_mem_of_neg x hneg
    omega
  · have := Int.fmod_lt_of_pos x hpos
    have := Int.fmod_nonneg_of_pos x hpos
    omega

/-- A nonzero floored remainder is negative where the divisor is. -/
theorem fmod_neg_iff {x y : Int} (hy : y ≠ 0) (hr : x.fmod y ≠ 0) : x.fmod y < 0 ↔ y < 0 := by
  rcases Int.lt_or_gt_of_ne hy with hneg | hpos
  · have := fmod_mem_of_neg x hneg
    omega
  · have := Int.fmod_nonneg_of_pos x hpos
    omega

/-! ### Words that hold a quotient and a remainder -/

/-- The operands of the signed overflow: -2^63 divided by -1. -/
def DivOverflows (x y : Word) : Prop := x = 0x8000000000000000 ∧ y = 0xFFFFFFFFFFFFFFFF

/-- Only the overflow has a quotient outside the signed words: a divisor of magnitude 2 or more halves the dividend, and by
1 or -1 the remainder is 0. -/
theorem QuotRem.fits {x y : Word} {q r : Int} (h : QuotRem x.toInt y.toInt q r) (ho : ¬ DivOverflows x y) :
    -2 ^ 63 ≤ q ∧ q < 2 ^ 63 := by
  obtain ⟨hid, hlt⟩ := h
  have hx := x.le_toInt
  have hx' := x.toInt_lt
  have hne : ¬ (x.toInt = -2 ^ 63 ∧ y.toInt = -1) := fun ⟨e, e'⟩ =>
    ho ⟨BitVec.eq_of_toInt_eq e, BitVec.eq_of_toInt_eq e'⟩
  by_cases hone : y.toInt.natAbs = 1
  · rcases Int.natAbs_eq y.toInt with hy | hy <;> rw [hone] at hy <;> rw [hy] at hid hne <;> omega
  · have hmul := Int.natAbs_mul q y.toInt
    by_contra hq
    have hbig : 2 ^ 63 * y.toInt.natAbs ≤ q.natAbs * y.toInt.natAbs := Nat.mul_le_mul_right _ (by omega)
    rw [← hmul] at hbig
    omega

theorem QuotRem.toInt_quot {x y : Word} {q r : Int} (h : QuotRem x.toInt y.toInt q r) (ho : ¬ DivOverflows x y) :
    (BitVec.ofInt 64 q).toInt = q :=
  BitVec.toInt_ofInt_eq_self (by decide) (h.fits ho).1 (h.fits ho).2

theorem QuotRem.toInt_rem {x y : Word} {q r : Int} (h : QuotRem x.toInt y.toInt q r) : (BitVec.ofInt 64 r).toInt = r := by
  have hlt := h.2
  have hy := y.le_toInt
  have hy' := y.toInt_lt
  exact BitVec.toInt_ofInt_eq_self (by decide) (by omega) (by omega)

/-- The division identity of integers is one of words, modulo 2^64, also where the quotient does not fit. -/
theorem QuotRem.ofInt_identity {x y : Word} {q r : Int} (h : QuotRem x.toInt y.toInt q r) :
    BitVec.ofInt 64 q * y + BitVec.ofInt 64 r = x := by
  have e := congrArg (BitVec.ofInt 64) h.1
  rwa [BitVec.ofInt_add, BitVec.ofInt_mul, BitVec.ofInt_toInt, BitVec.ofInt_toInt] at e

/-! ### The results of R44 -/

/-- What R44 asks of the quotient p.1 and the remainder p.2 of a signed division of x by y; `sign` is what the rounding says
of a remainder that is not 0. -/
structure SignedDivision (x y : Word) (sign : Int → Prop) (p : Word × Word) : Prop where
  identity : p.1 * y + p.2 = x
  byZero : y = 0 → p = (0, x)
  overflow : DivOverflows x y → p = (0x8000000000000000, 0)
  ordinary : y ≠ 0 → ¬ DivOverflows x y → QuotRem x.toInt y.toInt p.1.toInt p.2.toInt
  remSign : y ≠ 0 → p.2.toInt ≠ 0 → sign p.2.toInt

theorem toInt_ne_zero {y : Word} (hy : y ≠ 0) : y.toInt ≠ 0 := fun h => hy (BitVec.eq_of_toInt_eq h)

/-- By zero the quotient is 0 and the remainder the dividend, whatever the rounding. -/
theorem signedDivision_byZero (x : Word) (sign : Int → Prop) : SignedDivision x 0 sign (0, x) where
  identity := by simp
  byZero _ := rfl
  overflow := fun ⟨_, h⟩ => absurd h (by decide)
  ordinary h := absurd rfl h
  remSign h := absurd rfl h

/-- By any other divisor an integer quotient and remainder, cut to words, do; the overflow's are given apart. -/
theorem QuotRem.signedDivision {x y : Word} {q r : Int} {sign : Int → Prop} (h : QuotRem x.toInt y.toInt q r) (hy : y ≠ 0)
    (ho : DivOverflows x y → (BitVec.ofInt 64 q, BitVec.ofInt 64 r) = ((0x8000000000000000 : Word), (0 : Word)))
    (hs : r ≠ 0 → sign r) : SignedDivision x y sign (BitVec.ofInt 64 q, BitVec.ofInt 64 r) where
  identity := h.ofInt_identity
  byZero h0 := absurd h0 hy
  overflow := ho
  ordinary _ hn := by rwa [h.toInt_quot hn, h.toInt_rem]
  remSign _ := by rwa [h.toInt_rem]

theorem divSigned_signedDivision (x y : Word) : SignedDivision x y (fun r => r < 0 ↔ x.toInt < 0) (divSigned x y) := by
  unfold divSigned
  split
  case isTrue h => subst h; exact signedDivision_byZero x _
  case isFalse h =>
    refine (quotRem_tdiv_tmod x.toInt (toInt_ne_zero h)).signedDivision h ?_ tmod_neg_iff
    rintro ⟨rfl, rfl⟩
    decide

theorem divFloor_signedDivision (x y : Word) : SignedDivision x y (fun r => r < 0 ↔ y.toInt < 0) (divFloor x y) := by
  unfold divFloor
  split
  case isTrue h => subst h; exact signedDivision_byZero x _
  case isFalse h =>
    refine (quotRem_fdiv_fmod x.toInt (toInt_ne_zero h)).signedDivision h ?_ (fmod_neg_iff (toInt_ne_zero h))
    rintro ⟨rfl, rfl⟩
    decide

theorem divUnsigned_zero (x : Word) : divUnsigned x 0 = (0, x) := rfl

theorem divUnsigned_toNat_identity (x : Word) {y : Word} (hy : y ≠ 0) :
    (divUnsigned x y).1.toNat * y.toNat + (divUnsigned x y).2.toNat = x.toNat := by
  rw [divUnsigned, if_neg hy, BitVec.toNat_udiv, BitVec.toNat_umod]
  exact Nat.div_add_mod' _ _

theorem divUnsigned_rem_lt (x : Word) {y : Word} (hy : y ≠ 0) : (divUnsigned x y).2.toNat < y.toNat := by
  rw [divUnsigned, if_neg hy]
  exact BitVec.umod_lt x ((BitVec.pos_iff_ne_zero y).2 hy)

theorem divUnsigned_identity (x y : Word) : (divUnsigned x y).1 * y + (divUnsigned x y).2 = x := by
  by_cases hy : y = 0
  · subst hy
    rw [divUnsigned_zero]
    simp
  · apply BitVec.eq_of_toNat_eq
    rw [BitVec.toNat_add, BitVec.toNat_mul, Nat.mod_add_mod, divUnsigned_toNat_identity x hy, Nat.mod_eq_of_lt x.isLt]

/-! ### The instructions -/

/-- A scalar instruction whose context function writes a pair, with its sources full, completes with that pair. -/
theorem writesPair_of_exec {s : State} {i : Instr} {w : Bool} {rs : List Reg} {d : Reg} {p : Context → Word × Word}
    (hi : exec i s = s.scalarOp w rs fun c => c.writePair d (p c)) (h : s.Full rs) :
    s.WritesPair i d (p s.ctx).1 (p s.ctx).2 :=
  hi.trans (State.scalarOp_full h w _)

/-- The clauses of R44 of a signed form that writes the pair p. -/
theorem SignedDivision.clauses {s : State} {i : Instr} {d : Reg} {x y : Word} {sign : Int → Prop} {p : Word × Word}
    (hp : SignedDivision x y sign p) (hw : s.WritesPair i d p.1 p.2) :
    (y = 0 → s.WritesPair i d 0 x ∧ 0 * y + x = x) ∧
    (DivOverflows x y → s.WritesPair i d 0x8000000000000000 0 ∧ 0x8000000000000000 * y + 0 = x) ∧
    (y ≠ 0 → ¬ DivOverflows x y → ∃ q r : Word, (s.WritesPair i d q r ∧ q * y + r = x) ∧
      q.toInt * y.toInt + r.toInt = x.toInt ∧ r.toInt.natAbs < y.toInt.natAbs ∧ (r.toInt ≠ 0 → sign r.toInt)) := by
  have hid := hp.identity
  refine ⟨fun h0 => ?byZero, fun ho => ?overflow, fun h0 ho => ?ordinary⟩
  case byZero =>
    rw [hp.byZero h0] at hw hid
    exact ⟨hw, hid⟩
  case overflow =>
    rw [hp.overflow ho] at hw hid
    exact ⟨hw, hid⟩
  case ordinary =>
    obtain ⟨hsum, hlt⟩ := hp.ordinary h0 ho
    exact ⟨p.1, p.2, ⟨hw, hid⟩, hsum, hlt, hp.remSign h0⟩

/-- Settles O2: each form writes the pair of its division function (with its sources full), and that pair meets R44. -/
theorem divisions : Obligations.Divisions := by
  intro s d a b w hfull _ _
  have hu : s.WritesPair (.divqU d a b w) d _ _ :=
    writesPair_of_exec (p := fun c => divUnsigned (c.readS a) (c.readS b)) rfl hfull
  have hid := divUnsigned_identity (s.ctx.readS a) (s.ctx.readS b)
  refine ⟨?signed, ?floor, fun h0 => ?byZero, fun h0 => ?unsigned⟩
  case signed =>
    exact (divSigned_signedDivision _ _).clauses
      (writesPair_of_exec (p := fun c => divSigned (c.readS a) (c.readS b)) rfl hfull)
  case floor =>
    exact (divFloor_signedDivision _ _).clauses
      (writesPair_of_exec (p := fun c => divFloor (c.readS a) (c.readS b)) rfl hfull)
  case byZero =>
    rw [h0, divUnsigned_zero] at hu hid
    exact ⟨hu, h0 ▸ hid⟩
  case unsigned =>
    exact ⟨_, _, ⟨hu, hid⟩, divUnsigned_toNat_identity _ h0, divUnsigned_rem_lt _ h0⟩

end Sys2Proof.Machine
end

section
/-! ## Vector lanes (R119, R121) -/

namespace Sys2Proof.Machine

/-! ### The lanes of a register -/

@[simp] theorem laneAt_lanes (f : BitVec 4 → Lane) (j : BitVec 4) : laneAt (lanes f) j = f j := by
  simp [laneAt, lanes, getV]

@[simp] theorem laneAt_readV (s : State) (r : Reg) (j : BitVec 4) : laneAt (s.ctx.readV r) j = s.lane r j := rfl

/-- A bit of a mask register as an instruction reads it says whether the lane is active. -/
@[simp] theorem getLsbD_readK (s : State) (k : BitVec 3) (j : BitVec 4) :
    (s.ctx.readK k).getLsbD j.toNat = s.laneOn k j := by
  have hones : (0xFFFF : Mask).getLsbD j.toNat = true := by revert j; decide
  unfold Context.readK State.laneOn
  split
  case isTrue h => simpa [h] using hones
  case isFalse h => rw [decide_eq_false h, Bool.false_or]

@[simp] theorem laneAt_mergeLanes (act : Mask) (z : Bool) (old new : Lanes) (j : BitVec 4) :
    laneAt (mergeLanes act z old new) j =
      if act.getLsbD j.toNat = true then laneAt new j else if z = true then 0 else laneAt old j :=
  laneAt_lanes _ _

/-! ### Instructions that merge a result into a register under a mask -/

/-- An instruction that merges the lanes `f` into v[d] under k and z writes them as R121 says. -/
theorem writesV_of_merge {s : State} {i : Instr} {d : Reg} {k : BitVec 3} {z : Bool} {new : Context → Lanes}
    {f : BitVec 4 → Lane} (hi : exec i s = .next (s.retire fun c => c.writeV d (mergeLanes (c.readK k) z (c.readV d) (new c))))
    (hf : ∀ j, laneAt (new s.ctx) j = f j) : s.WritesV i d k z f := by
  refine ⟨mergeLanes (s.ctx.readK k) z (s.ctx.readV d) (new s.ctx), hi, fun j => ?_⟩
  rw [← hf j, ← getLsbD_readK]
  exact laneAt_mergeLanes _ _ _ _ _

/-- An instruction that applies `g` lane by lane writes the lanes `f` that `g` gives. -/
theorem writesV_of_laneOp {s : State} {i : Instr} {d a b : Reg} {k : BitVec 3} {z : Bool} {f : BitVec 4 → Lane}
    (g : Lane → Lane → Lane) (hi : exec i s = s.laneOp d a b k z g) (hf : ∀ j, g (s.lane a j) (s.lane b j) = f j) :
    s.WritesV i d k z f :=
  writesV_of_merge (new := fun c => lanes fun j => g (laneAt (c.readV a) j) (laneAt (c.readV b) j)) hi
    fun j => (laneAt_lanes _ j).trans (hf j)

/-- The same of an instruction with one source. -/
theorem writesV_of_laneMap {s : State} {i : Instr} {d a : Reg} {k : BitVec 3} {z : Bool} {f : BitVec 4 → Lane}
    (g : Lane → Lane) (hi : exec i s = s.laneOp d a a k z fun x _ => g x) (hf : ∀ j, g (s.lane a j) = f j) :
    s.WritesV i d k z f :=
  writesV_of_laneOp (fun x _ => g x) hi hf

end Sys2Proof.Machine
end

section
/-! ## The integer and logic lane forms (R125, R127) -/

namespace Sys2Proof.Machine

/-! ### The functions of a lane as numbers -/

/-- The difference of two lanes, modulo 2^32, is that of their numbers. -/
theorem lane_sub_eq_ofInt (x y : Lane) : x - y = BitVec.ofInt 32 (x.toNat - y.toNat) := by
  rw [Int.sub_eq_add_neg, BitVec.ofInt_add, BitVec.ofInt_neg, BitVec.ofInt_natCast, BitVec.ofInt_natCast,
    BitVec.ofNat_toNat, BitVec.ofNat_toNat, BitVec.setWidth_eq, BitVec.setWidth_eq, BitVec.sub_eq_add_neg]

theorem lane_neg_eq_ofInt (x : Lane) : 0 - x = BitVec.ofInt 32 (-x.toInt) := by
  rw [BitVec.ofInt_neg, BitVec.ofInt_toInt]
  exact BitVec.zero_sub x

theorem lane_mul_eq_ofNat (x y : Lane) : x * y = BitVec.ofNat 32 (x.toNat * y.toNat) := by
  apply BitVec.eq_of_toNat_eq
  rw [BitVec.toNat_mul, BitVec.toNat_ofNat]

/-- Bits 63:32 of the 64-bit product are its quotient by 2^32. -/
theorem mulHigh_eq_ofInt (x y : Lane) : mulHigh x y = BitVec.ofInt 32 (x.toInt * y.toInt / 2 ^ 32) := by
  apply BitVec.eq_of_toNat_eq
  simp only [mulHigh, BitVec.extractLsb'_toNat, BitVec.toNat_ofInt, Nat.shiftRight_eq_div_pow]
  generalize x.toInt * y.toInt = p
  omega

theorem laneMin_signed_lt : laneMin true = fun p q => if q.toInt < p.toInt then q else p := by
  funext p q
  simp only [laneMin, if_true, BitVec.slt_iff_toInt_lt]

theorem laneMax_signed_lt : laneMax true = fun p q => if p.toInt < q.toInt then q else p := by
  funext p q
  simp only [laneMax, if_true, BitVec.slt_iff_toInt_lt]

theorem laneMin_signed_le (x y : Lane) : laneMin true x y = if x.toInt ≤ y.toInt then x else y := by
  simp only [laneMin_signed_lt, ← Int.not_le, ite_not]

theorem laneMin_unsigned_le (x y : Lane) : laneMin false x y = if x.toNat ≤ y.toNat then x else y := by
  simp only [laneMin, Bool.false_eq_true, if_false, BitVec.ult_iff_toNat_lt, ← Nat.not_le, ite_not]

/-- The greater of two may be either where they are equal. -/
theorem ite_lt_eq_ite_le {α : Type} [LinearOrder α] {m n : α} {x y : Lane} (h : m = n → x = y) :
    (if m < n then y else x) = if m ≤ n then y else x := by
  by_cases e : m = n
  · rw [h e, ite_self, ite_self]
  · simp only [lt_iff_le_and_ne, ne_eq, e, not_false_eq_true, and_true]

theorem laneMax_signed_le (x y : Lane) : laneMax true x y = if x.toInt ≤ y.toInt then y else x := by
  rw [laneMax_signed_lt]
  exact ite_lt_eq_ite_le BitVec.eq_of_toInt_eq

theorem laneMax_unsigned_le (x y : Lane) : laneMax false x y = if x.toNat ≤ y.toNat then y else x := by
  simp only [laneMax, Bool.false_eq_true, if_false, BitVec.ult_iff_toNat_lt]
  exact ite_lt_eq_ite_le BitVec.eq_of_toNat_eq

/-- The lane negated where its sign bit is set is its magnitude; -2^31 has the magnitude 2^31, whose lane it is. -/
theorem lane_abs_eq_ofNat (x : Lane) : (if x.getLsbD 31 = true then 0 - x else x) = BitVec.ofNat 32 x.toInt.natAbs := by
  have hsign : x.getLsbD 31 = decide (x.toInt < 0) := (BitVec.msb_eq_getLsbD_last x).symm.trans BitVec.msb_eq_toInt
  rw [hsign, ← BitVec.ofInt_natCast]
  by_cases h : x.toInt < 0
  · rw [if_pos (decide_eq_true h), lane_neg_eq_ofInt, Int.ofNat_natAbs_of_nonpos (Int.le_of_lt h)]
  · rw [if_neg (by simpa using h), Int.natAbs_of_nonneg (Int.not_lt.1 h), BitVec.ofInt_toInt]

theorem lane_sll_eq_ofNat (x : Lane) (n : Nat) : x <<< n = BitVec.ofNat 32 (x.toNat * 2 ^ n) := by
  apply BitVec.eq_of_toNat_eq
  rw [BitVec.toNat_shiftLeft, BitVec.toNat_ofNat, Nat.shiftLeft_eq]

theorem lane_srl_eq_ofNat (x : Lane) (n : Nat) : x >>> n = BitVec.ofNat 32 (x.toNat / 2 ^ n) := by
  apply BitVec.eq_of_toNat_eq
  rw [BitVec.toNat_ushiftRight, BitVec.toNat_ofNat, Nat.shiftRight_eq_div_pow,
    Nat.mod_eq_of_lt (Nat.lt_of_le_of_lt (Nat.div_le_self _ _) x.isLt)]

theorem lane_sra_eq_ofInt (x : Lane) (n : Nat) : x.sshiftRight n = BitVec.ofInt 32 (x.toInt / 2 ^ n) := by
  rw [BitVec.sshiftRight_eq, Int.shiftRight_eq_div_pow]
  simp

/-! ### Sums clamped to an integer format -/

/-- An integer is exact, so its conversion to a range only clamps it. -/
theorem toIntRange_ofInt (lo hi v : Int) (mode : BitVec 3) (draw : BitVec 16) :
    toIntRange lo hi mode draw (ExNum.ofInt v) = max lo (min hi v) := by
  have hround : roundInt mode draw (decide (v < 0)) v.natAbs 0 = v := by
    rw [roundInt, roundAt, if_pos (Int.le_refl 0)]
    by_cases h : v < 0
    · simp [pow2, h, abs_of_neg h]
    · simp [pow2, h, abs_of_nonneg (Int.not_lt.1 h)]
  rw [ExNum.ofInt, toIntRange, hround]

theorem readInt_signed_toNat {b : Nat} (c : BitVec b) : readInt b true c.toNat = c.toInt := by
  rw [readInt, BitVec.toInt_eq_toNat_cond, Nat.mod_eq_of_lt c.isLt]
  by_cases h : 2 * c.toNat < 2 ^ b
  · simp [h, Nat.not_le.2 h]
  · simp [h, Nat.not_lt.1 h]

/-- The code of an integer in the range of its format, in lane form, is that integer modulo 2^32. -/
theorem laneForm_int {f : BitVec 5} {b : Nat} {sg : Bool} (hf : fmtOf f = .int b sg) (hb : 0 < b) {v : Int}
    (hlo : intLo b sg ≤ v) (hhi : v ≤ intHi b sg) : laneForm f (BitVec.ofInt b v).toNat = BitVec.ofInt 32 v := by
  cases sg
  case true =>
    have hlt : v < 2 ^ (b - 1) := Int.lt_of_le_sub_one hhi
    simp only [laneForm, hf]
    rw [readInt_signed_toNat, BitVec.toInt_ofInt_eq_self hb hlo hlt]
  case false =>
    have hlt : v < 2 ^ b := Int.lt_of_le_sub_one hhi
    have h0 : 0 ≤ v := hlo
    simp only [laneForm, hf]
    rw [← BitVec.ofInt_natCast, BitVec.toNat_ofInt, Int.toNat_of_nonneg (Int.emod_nonneg _ (by positivity))]
    exact congrArg _ (Int.emod_eq_of_lt h0 (by exact_mod_cast hlt))

/-- A sum clamped to an integer format is the sum moved into its range, as R125 says. -/
theorem addClamped_int {f : BitVec 5} {b : Nat} {sg : Bool} (hf : fmtOf f = .int b sg) (hb : 0 < b) (v : Int) :
    addClamped f v = BitVec.ofInt 32 (max (intLo b sg) (min (intHi b sg) v)) := by
  have hrange : intLo b sg ≤ intHi b sg := by
    have : (0 : Int) < 2 ^ (b - 1) := by positivity
    have : (0 : Int) < 2 ^ b := by positivity
    cases sg <;> simp only [intLo, intHi, if_true, Bool.false_eq_true, if_false] <;> omega
  rw [addClamped, laneWrite, hf, Fmt.write, toIntRange_ofInt]
  exact laneForm_int hf hb (le_max_left _ _) (max_le hrange (min_le_left _ _))

/-- The formats that `vadds` and `vsubs` clamp to, with their ranges (R125). -/
theorem addClamped_dfmt {g : Option (BitVec 5)} {lo hi : Int}
    (h : (g = none ∨ g = some 0x15) ∧ lo = -2 ^ 31 ∧ hi = 2 ^ 31 - 1 ∨ g = some 0x03 ∧ lo = -128 ∧ hi = 127 ∨
      g = some 0x04 ∧ lo = 0 ∧ hi = 255 ∨ g = some 0x14 ∧ lo = -2 ^ 15 ∧ hi = 2 ^ 15 - 1) (v : Int) :
    addClamped (g.getD 0x15) v = BitVec.ofInt 32 (max lo (min hi v)) := by
  obtain ⟨rfl | rfl, rfl, rfl⟩ | ⟨rfl, rfl, rfl⟩ | ⟨rfl, rfl, rfl⟩ | ⟨rfl, rfl, rfl⟩ := h
  · exact addClamped_int (b := 32) (sg := true) rfl (by decide) v
  · exact addClamped_int (b := 32) (sg := true) rfl (by decide) v
  · exact addClamped_int (b := 8) (sg := true) rfl (by decide) v
  · exact addClamped_int (b := 8) (sg := false) rfl (by decide) v
  · exact addClamped_int (b := 16) (sg := true) rfl (by decide) v

/-! ### The instructions -/

/-- Settles O25: each form applies its lane function under the mask, and that function is the table's. -/
theorem vectorIntegers : Obligations.VectorIntegers := by
  intro s d a b k z
  exact ⟨
    writesV_of_laneOp (· + ·) rfl fun _ => BitVec.add_def _ _,
    writesV_of_laneOp (· - ·) rfl fun _ => lane_sub_eq_ofInt _ _,
    writesV_of_laneOp (· * ·) rfl fun _ => lane_mul_eq_ofNat _ _,
    writesV_of_laneOp mulHigh rfl fun _ => mulHigh_eq_ofInt _ _,
    writesV_of_laneOp (laneMin true) rfl fun _ => laneMin_signed_le _ _,
    writesV_of_laneOp (laneMax true) rfl fun _ => laneMax_signed_le _ _,
    writesV_of_laneOp (laneMin false) rfl fun _ => laneMin_unsigned_le _ _,
    writesV_of_laneOp (laneMax false) rfl fun _ => laneMax_unsigned_le _ _,
    writesV_of_laneMap (fun x => if x.getLsbD 31 then 0 - x else x) rfl fun _ => lane_abs_eq_ofNat _,
    writesV_of_laneMap (0 - ·) rfl fun _ => lane_neg_eq_ofInt _,
    writesV_of_laneOp (fun x y => x <<< (y.toNat % 32)) rfl fun _ => lane_sll_eq_ofNat _ _,
    writesV_of_laneOp (fun x y => x >>> (y.toNat % 32)) rfl fun _ => lane_srl_eq_ofNat _ _,
    writesV_of_laneOp (fun x y => x.sshiftRight (y.toNat % 32)) rfl fun _ => lane_sra_eq_ofInt _ _,
    writesV_of_laneOp (· &&& ·) rfl fun _ => rfl,
    writesV_of_laneOp (· ||| ·) rfl fun _ => rfl,
    writesV_of_laneOp (· ^^^ ·) rfl fun _ => rfl,
    writesV_of_laneOp (fun x y => x &&& ~~~y) rfl fun _ => rfl,
    writesV_of_laneMap (~~~ ·) rfl fun _ => rfl,
    writesV_of_laneMap id rfl fun _ => rfl,
    fun _ _ hrange => ⟨
      writesV_of_laneOp (fun x y => addClamped (s.ctx.chain.dfmt.getD 0x15) (x.toInt + y.toInt)) rfl
        fun _ => addClamped_dfmt hrange _,
      writesV_of_laneOp (fun x y => addClamped (s.ctx.chain.dfmt.getD 0x15) (x.toInt - y.toInt)) rfl
        fun _ => addClamped_dfmt hrange _⟩⟩

end Sys2Proof.Machine
end

section
/-! ## Moves, reductions and scans of lanes (R129 to R132) -/

namespace Sys2Proof.Machine

/-! ### Permutes (R130) -/

/-- A permute writes the lane of va that it names, or 0. -/
theorem writesV_of_permute {s : State} {i : Instr} {d a : Reg} {k : BitVec 3} {z : Bool} {f : BitVec 4 → Lane}
    (g : Nat → Option Nat) (hi : exec i s = s.permute d a k z g)
    (hf : ∀ j : BitVec 4, ((g j.toNat).elim 0 fun m => s.lane a (BitVec.ofNat 4 m)) = f j) : s.WritesV i d k z f := by
  refine writesV_of_merge hi fun j => ?_
  rw [laneAt_lanes, ← hf j]
  cases g j.toNat <;> rfl

/-- A lane number fits the register field that holds it. -/
theorem toNat_laneField (l : BitVec 4) : (l.setWidth 5 : Reg).toNat = l.toNat :=
  BitVec.toNat_setWidth_of_le (by decide)

/-- A rotation takes lane numbers modulo 16. -/
theorem vrot_writes (s : State) (d a : Reg) (k : BitVec 3) (z : Bool) (l : BitVec 4) :
    s.WritesV (.vrot d a (l.setWidth 5) k z) d k z fun j => s.lane a (j + l) := by
  refine writesV_of_permute (fun i => some ((i + (l.setWidth 5 : Reg).toNat) % 16)) rfl fun j => congrArg (s.lane a) ?_
  rw [toNat_laneField]
  bv_omega

/-- A shift down takes 0 where the lane number would pass 15. -/
theorem vshdn_writes (s : State) (d a : Reg) (k : BitVec 3) (z : Bool) (l : BitVec 4) :
    s.WritesV (.vshdn d a (l.setWidth 5) k z) d k z fun j => if j.toNat + l.toNat ≤ 15 then s.lane a (j + l) else 0 := by
  refine writesV_of_permute (fun i => if i + (l.setWidth 5 : Reg).toNat ≤ 15 then some (i + (l.setWidth 5 : Reg).toNat)
    else none) rfl fun j => ?_
  rw [toNat_laneField]
  by_cases h : j.toNat + l.toNat ≤ 15
  · rw [if_pos h, if_pos h]
    exact congrArg (s.lane a) (BitVec.add_def j l).symm
  · rw [if_neg h, if_neg h]
    rfl

/-- A shift up takes 0 where the lane number would fall below 0. -/
theorem vshup_writes (s : State) (d a : Reg) (k : BitVec 3) (z : Bool) (l : BitVec 4) :
    s.WritesV (.vshup d a (l.setWidth 5) k z) d k z fun j => if l.toNat ≤ j.toNat then s.lane a (j - l) else 0 := by
  refine writesV_of_permute (fun i => if (l.setWidth 5 : Reg).toNat ≤ i then some (i - (l.setWidth 5 : Reg).toNat)
    else none) rfl fun j => ?_
  rw [toNat_laneField]
  by_cases h : l.toNat ≤ j.toNat
  · have hplace : BitVec.ofNat 4 (j.toNat - l.toNat) = j - l := by bv_omega
    rw [if_pos h, if_pos h, ← hplace]
    rfl
  · rw [if_neg h, if_neg h]
    rfl

/-! ### Selects and moves (R129, R131) -/

theorem vsel_writes (s : State) (d a b : Reg) (k : BitVec 3) :
    ∃ v : Lanes, s.Does (.vsel d a b k) (fun c => c.writeV d v) ∧
      ∀ j, getV v j = if s.laneOn k j = true then s.lane a j else s.lane b j :=
  ⟨mergeLanes (s.ctx.readK k) false (s.ctx.readV b) (s.ctx.readV a), rfl,
    fun j => (laneAt_mergeLanes _ _ _ _ j).trans (by simp)⟩

theorem vbcast_writes {s : State} {a : Reg} (h : s.Full [a]) (d : Reg) (k : BitVec 3) (z w : Bool) :
    s.WritesV (.vbcast d a k z w) d k z fun _ => (s.ctx.readS a).extractLsb' 0 32 :=
  writesV_of_merge (new := fun c => lanes fun _ => (c.readS a).setWidth 32) (State.scalarOp_full h w _)
    fun j => (laneAt_lanes _ j).trans (BitVec.setWidth_eq_extractLsb' (by decide))

theorem vmvSV_writes (s : State) (d a : Reg) (l : BitVec 4) :
    s.WritesS (.vmvSV d a (l.setWidth 5)) d (BitVec.ofInt 64 (s.lane a l).toInt) := by
  have hfield : (l.setWidth 5 : Reg).setWidth 4 = l := by simp
  have hi : s.WritesS (.vmvSV d a (l.setWidth 5)) d ((s.lane a ((l.setWidth 5 : Reg).setWidth 4)).signExtend 64) := rfl
  rwa [hfield] at hi

/-- The lane that is named takes the scalar, and the others keep their value. -/
theorem vmvVS_writes {s : State} {a : Reg} (h : s.Full [a]) (d : Reg) (l : BitVec 4) (w : Bool) :
    ∃ v : Lanes, s.Does (.vmvVS d a (l.setWidth 5) w) (fun c => c.writeV d v) ∧
      ∀ j, getV v j = if j = l then (s.ctx.readS a).extractLsb' 0 32 else s.lane d j := by
  have hfield : (l.setWidth 5 : Reg).setWidth 4 = l := by simp
  refine ⟨setV (s.ctx.readV d) ((l.setWidth 5 : Reg).setWidth 4) ((s.ctx.readS a).setWidth 32),
    State.scalarOp_full h w _, fun j => ?_⟩
  rw [hfield, BitVec.setWidth_eq_extractLsb' (by decide)]
  by_cases hj : j = l
  · rw [if_pos hj, hj, getV_setV_same]
  · rw [if_neg hj, getV_setV_other _ _ (by decide) hj]
    rfl

/-! ### Lanes as a list -/

/-- The lanes of a register in ascending order. -/
theorem toList_lanes (f : BitVec 4 → Lane) : (lanes f).toList = (List.range 16).map fun i => f (BitVec.ofNat 4 i) := by
  apply List.ext_getElem
  · simp
  · intro i _ _
    simp only [lanes, Vector.getElem_toList, Vector.getElem_ofFn, List.getElem_map, List.getElem_range]

/-- Lane i under a mask: the identity e where it is not active. -/
def State.entry (s : State) (a : Reg) (k : BitVec 3) (e : Lane) (i : Nat) : Lane :=
  if s.laneOn k (BitVec.ofNat 4 i) = true then s.lane a (BitVec.ofNat 4 i) else e

theorem toList_maskedBy (s : State) (a : Reg) (k : BitVec 3) (e : Lane) :
    (maskedBy (s.ctx.readK k) e (s.ctx.readV a)).toList = (List.range 16).map (s.entry a k e) := by
  rw [maskedBy, toList_lanes]
  simp only [getLsbD_readK, laneAt_readV]
  rfl

/-! ### The tree of a reduction (R132) -/

/-- One level of the tree over a numbered row of lanes. -/
def pairOf (f : Lane → Lane → Lane) (v : Nat → Lane) (i : Nat) : Lane := f (v (2 * i)) (v (2 * i + 1))

theorem pairUp_map_range (f : Lane → Lane → Lane) (v : Nat → Lane) (n : Nat) :
    pairUp f ((List.range (2 * n)).map v) = (List.range n).map (pairOf f v) := by
  induction n generalizing v with
  | zero => rfl
  | succ n ih =>
    have htwo : List.range (2 * (n + 1)) = 0 :: 1 :: (List.range (2 * n)).map (· + 2) := by
      rw [Nat.mul_succ, List.range_succ_eq_map, List.range_succ_eq_map]
      simp
    rw [htwo, List.range_succ_eq_map, List.map_cons, List.map_cons, pairUp, List.map_map, ih, List.map_cons, List.map_map]
    rfl

/-- Sixteen lanes go through four levels. -/
theorem treeOf_map_range (f : Lane → Lane → Lane) {v : Nat → Lane} {x : Lanes} (hx : x.toList = (List.range 16).map v) :
    treeOf f x = pairOf f (pairOf f (pairOf f (pairOf f v))) 0 := by
  rw [treeOf, hx, pairUp_map_range f v 8, pairUp_map_range f _ 4, pairUp_map_range f _ 2, pairUp_map_range f _ 1]
  rfl

theorem lanes_const (r : Lane) : (lanes fun _ => r) = Vector.replicate 16 r := by
  ext i hi
  simp [lanes]

/-- A reduction writes the value of its tree to every lane. -/
theorem does_of_reduceOp {s : State} {i : Instr} {d : Reg} (a : Reg) (k : BitVec 3) (f : Lane → Lane → Lane) (e : Lane)
    (hi : exec i s = s.reduceOp d a k f e) :
    s.Does i fun c => c.writeV d (Vector.replicate 16 (pairOf f (pairOf f (pairOf f (pairOf f (s.entry a k e)))) 0)) := by
  rw [← treeOf_map_range f (toList_maskedBy s a k e), ← lanes_const]
  exact hi

/-! ### Scans (R132) -/

/-- The running value of a scan at lane n. -/
def scanAt (f : Lane → Lane → Lane) (v : Nat → Lane) : Nat → Lane
  | 0 => v 0
  | n + 1 => f (scanAt f v n) (v (n + 1))

/-- From the value at lane m on, a scan goes through the values of the lanes that follow. -/
theorem scanOf_map_range' (f : Lane → Lane → Lane) (v : Nat → Lane) (m n : Nat) :
    scanOf f (scanAt f v m) ((List.range' (m + 1) n).map v) = (List.range' (m + 1) n).map (scanAt f v) := by
  induction n generalizing m with
  | zero => rfl
  | succ n ih =>
    rw [List.range'_succ, List.map_cons, List.map_cons, scanOf]
    exact congrArg _ (ih (m + 1))

theorem scanLanes_map_range (f : Lane → Lane → Lane) {e : Lane} {act : Mask} {x : Lanes} {v : Nat → Lane}
    (hx : (maskedBy act e x).toList = (List.range 16).map v) (j : BitVec 4) :
    laneAt (scanLanes f e act x) j = scanAt f v j.toNat := by
  have hrange : List.range 16 = 0 :: List.range' 1 15 := rfl
  have hall : v 0 :: scanOf f (v 0) ((List.range' 1 15).map v) = (List.range 16).map (scanAt f v) := by
    rw [hrange, List.map_cons]
    exact congrArg _ (scanOf_map_range' f v 0 15)
  rw [hrange, List.map_cons] at hx
  rw [scanLanes, hx]
  simp only [laneAt_lanes]
  rw [hall]
  simp [List.getD, j.isLt]

/-- A scan writes its running values, from lane 0 upward, to the active lanes. -/
theorem writesV_of_scanOp {s : State} {i : Instr} {d : Reg} (a : Reg) (k : BitVec 3) {z : Bool} (f : Lane → Lane → Lane)
    (e : Lane) (hi : exec i s = s.scanOp d a k z f e) :
    ∃ y : Nat → Lane, y 0 = s.entry a k e 0 ∧ (∀ j < 15, y (j + 1) = f (y j) (s.entry a k e (j + 1))) ∧
      s.WritesV i d k z fun j => y j.toNat :=
  ⟨scanAt f (s.entry a k e), rfl, fun _ _ => rfl,
    writesV_of_merge hi fun j => scanLanes_map_range f (toList_maskedBy s a k e) j⟩

/-! ### The obligation -/

/-- Settles O28: the selects, permutes and moves by the lane each names, the reductions by the levels of their tree, and the
scans by induction over the lanes. -/
theorem vectorMoves : Obligations.VectorMoves := by
  intro s d a b k z w l
  exact ⟨vsel_writes s d a b k, vrot_writes s d a k z l, vshdn_writes s d a k z l, vshup_writes s d a k z l,
    fun h => vbcast_writes h d k z w, vmvSV_writes s d a l, fun h => vmvVS_writes h d l w,
    does_of_reduceOp a k (· + ·) 0 rfl,
    laneMax_signed_lt ▸ does_of_reduceOp a k (laneMax true) 0x80000000 rfl,
    laneMin_signed_lt ▸ does_of_reduceOp a k (laneMin true) 0x7FFFFFFF rfl,
    does_of_reduceOp a k addF32 0x80000000 rfl, does_of_reduceOp a k f32Max 0xFF800000 rfl,
    writesV_of_scanOp a k (· + ·) 0 rfl, writesV_of_scanOp a k addF32 0x80000000 rfl⟩

end Sys2Proof.Machine
end
